-- ==== Sys2Proof/Word.lean ====
section
/-! DEFINITION. Words, register banks and sparse tables: the plain data types the model is made of (02 R30, R54; 12 R301). -/

namespace Sys2Proof

/-- One byte of a packet, an image or a memory. -/
abbrev Byte := BitVec 8

/-- A 32-bit word: a scalar register, a register of the window, an FP32 pattern. -/
abbrev Word := BitVec 32

/-- A 64-bit word: a Brodip instruction word (R323), a 64-bit counter. -/
abbrev Quad := BitVec 64

/-- A bank of `2 ^ w` like things, numbered by a `w`-bit register field. -/
abbrev Bank (w : Nat) (α : Type) := Vector α (2 ^ w)

/-- A sparse table keyed by a number: keys strictly rising, an absent key reads as the default its
reader names. -/
abbrev Tab (α : Type) := List (Nat × α)

/-- A context number, 0 to 262,143 (R357). -/
abbrev CtxId := BitVec 18

/-- A partition number, 0 to 7 (R352). -/
abbrev PartId := BitVec 3

/-- A layer number, 0 to 255 (R301). -/
abbrev Layer := BitVec 8

/-- An instance ID: package in [11:3], ring position in [2:0] (R157). -/
abbrev InstId := BitVec 12

end Sys2Proof
end

