-- ==== Sys2Proof/Machine/Tab.lean ====
section
/-! DEFINITION. Sparse tables, register banks and byte memories: the operations every unit reads and
writes its state by. -/

namespace Sys2Proof

/-- The entry of a key, if the table holds one. -/
def Tab.find {α : Type} : Tab α → Nat → Option α
  | [], _ => none
  | (k, v) :: rest, n => if k = n then some v else Tab.find rest n

/-- The entry of a key, or a default. -/
def Tab.get {α : Type} (t : Tab α) (n : Nat) (d : α) : α :=
  match t.find n with
  | some v => v
  | none => d

/-- The table with one key's entry replaced or inserted in key order. -/
def Tab.put {α : Type} : Tab α → Nat → α → Tab α
  | [], n, v => [(n, v)]
  | (k, w) :: rest, n, v =>
    if k < n then (k, w) :: Tab.put rest n v
    else if k = n then (n, v) :: rest
    else (n, v) :: (k, w) :: rest

/-- The table without a key. -/
def Tab.drop {α : Type} : Tab α → Nat → Tab α
  | [], _ => []
  | (k, w) :: rest, n => if k = n then Tab.drop rest n else (k, w) :: Tab.drop rest n

/-- Change one key's entry through a function of its value or default. -/
def Tab.upd {α : Type} (t : Tab α) (n : Nat) (d : α) (f : α → α) : Tab α :=
  t.put n (f (t.get n d))

/-- Read one thing of a bank. -/
def Bank.rd {w : Nat} {α : Type} (b : Bank w α) (i : BitVec w) : α := b[i.toNat]'i.isLt

/-- Write one thing of a bank. -/
def Bank.wr {w : Nat} {α : Type} (b : Bank w α) (i : BitVec w) (v : α) : Bank w α := b.set i.toNat v i.isLt

/-- A bank whose every thing is alike. -/
def Bank.all {α : Type} (w : Nat) (v : α) : Bank w α := Vector.replicate (2 ^ w) v

/-- Byte memory in canonical form: addresses strictly rising, no entry equal to what an unlisted address
reads as. -/
abbrev Memory := List Host.Cell

/-- What an address that nothing has written reads as: zero (scratchpad 21 R535; stack log 5). -/
def Memory.blank : Byte := 0

/-- The byte at an address. -/
def Memory.rd : Memory → Nat → Byte
  | [], _ => Memory.blank
  | (a, v) :: rest, n => if a = n then v else Memory.rd rest n

/-- Insert or replace a byte that is not blank. -/
def Memory.ins : Memory → Nat → Byte → Memory
  | [], n, v => [(n, v)]
  | (a, w) :: rest, n, v =>
    if a < n then (a, w) :: Memory.ins rest n v
    else if a = n then (n, v) :: rest
    else (n, v) :: (a, w) :: rest

/-- Remove a byte's entry. -/
def Memory.del : Memory → Nat → Memory
  | [], _ => []
  | (a, w) :: rest, n => if a = n then rest else (a, w) :: Memory.del rest n

/-- Write one byte, keeping the canonical form. -/
def Memory.wr (m : Memory) (n : Nat) (v : Byte) : Memory :=
  if v = Memory.blank then m.del n else m.ins n v

/-- Read `len` bytes from an address. -/
def Memory.rdBytes (m : Memory) (a : Nat) : Nat → List Byte
  | 0 => []
  | n + 1 => m.rd a :: Memory.rdBytes m (a + 1) n

/-- Write bytes from an address on. -/
def Memory.wrBytes (m : Memory) (a : Nat) : List Byte → Memory
  | [] => m
  | v :: rest => Memory.wrBytes (m.wr a v) (a + 1) rest

/-- Addresses at or above a bound, strictly rising, entries not blank. -/
def Memory.sorted : Nat → Memory → Bool
  | _, [] => true
  | lo, (a, v) :: rest => (lo ≤ a && v != Memory.blank) && Memory.sorted (a + 1) rest

/-- The canonical form of a memory. -/
def Memory.wf (m : Memory) : Bool := Memory.sorted 0 m

end Sys2Proof
end

