-- ==== Sys2Proof/Machine/Bytes.lean ====
section
/-! DEFINITION. Bytes, bit fields, byte order (00 R6), and the two CRCs the spec gives (06 R168, 17 R422). -/

namespace Sys2Proof

/-- The value of bytes read little-endian (R6). -/
def leNat : List Byte → Nat
  | [] => 0
  | b :: rest => b.toNat + 256 * leNat rest

/-- The value of bytes read big-endian. -/
def beNat (l : List Byte) : Nat := leNat l.reverse

/-- `n` bytes of a value, little-endian (R6). -/
def toLe : Nat → Nat → List Byte
  | 0, _ => []
  | n + 1, v => BitVec.ofNat 8 v :: toLe n (v / 256)

/-- `n` bytes of a value, big-endian. -/
def toBe (n v : Nat) : List Byte := (toLe n v).reverse

/-- The field [hi:lo] of a number. -/
def field (v hi lo : Nat) : Nat := (v >>> lo) % 2 ^ (hi + 1 - lo)

/-- Bit `i` of a number. -/
def bit (v i : Nat) : Bool := Nat.testBit v i

/-- The field [hi:lo] of a register word. -/
def fld (v : Word) (hi lo : Nat) : Nat := field v.toNat hi lo

/-- A number placed as field [hi:lo]. -/
def put (hi lo v : Nat) : Nat := (v % 2 ^ (hi + 1 - lo)) <<< lo

/-- Number of a truth value. -/
def b01 (b : Bool) : Nat := if b then 1 else 0

/-- Replace field [hi:lo] of a word. -/
def setFld (v : Word) (hi lo x : Nat) : Word :=
  BitVec.ofNat 32 (v.toNat - put hi lo (field v.toNat hi lo) + put hi lo x)

/-- The two's complement value of a 32-bit word. -/
def sInt (v : Word) : Int := v.toInt

/-- `n` divided by `d`, rounded up. -/
def ceilDiv (n d : Nat) : Nat := (n + d - 1) / d

/-- One step of a reflected CRC over a bit. -/
def crcBit (poly c : Nat) : Nat := if c % 2 = 1 then (c / 2) ^^^ poly else c / 2

/-- Eight reflected CRC steps. -/
def crcByte (poly c : Nat) (b : Byte) : Nat :=
  Nat.rec (c ^^^ b.toNat) (fun _ x => crcBit poly x) 8

/-- A reflected CRC-32 with initial value and final XOR 0xFFFF_FFFF; `poly` is the reflected polynomial. -/
def crc32With (poly : Nat) (l : List Byte) : Word :=
  BitVec.ofNat 32 ((l.foldl (crcByte poly) 0xFFFFFFFF) ^^^ 0xFFFFFFFF)

/-- CRC-32C of payloads, chunks and comet messages (R168). -/
def crc32c (l : List Byte) : Word := if l.isEmpty then 0 else crc32With 0x82F63B78 l

/-- CRC-32 of flits (R422). -/
def crc32 (l : List Byte) : Word := crc32With 0xEDB88320 l

/-- Bytes of the ASCII text of a label (R440, R501, R516). -/
def ascii (l : List Nat) : List Byte := l.map (BitVec.ofNat 8)

/-- Count of set bits among the low `n` bits. -/
def popCount (n v : Nat) : Nat := ((List.range n).filter (bit v)).length

/-- The set bits among the low `n` bits, lowest first. -/
def bitsOf (n v : Nat) : List Nat := (List.range n).filter (bit v)

/-- The mask of a list of bit numbers. -/
def maskOf (l : List Nat) : Nat := l.foldl (fun m i => m ||| 2 ^ i) 0

/-- The sum of a list. -/
def sumL (l : List Nat) : Nat := l.foldl (· + ·) 0

/-- The largest of a list, 0 for none. -/
def maxL (l : List Nat) : Nat := l.foldl Nat.max 0

/-- The value held between two bounds. -/
def clampN (lo hi v : Nat) : Nat := Nat.max lo (Nat.min hi v)

/-- Saturating addition in `w` bits. -/
def satAdd {w : Nat} (a : BitVec w) (n : Nat) : BitVec w := BitVec.ofNat w (Nat.min (2 ^ w - 1) (a.toNat + n))

/-- Consecutive pieces of `n` elements; the last may be short. -/
def pieces {α : Type} (n : Nat) (l : List α) : List (List α) :=
  (List.range (ceilDiv l.length n)).map fun i => (l.drop (i * n)).take n

/-- Insert into a list sorted by `before`, after equals. -/
def insertBy {α : Type} (before : α → α → Bool) (x : α) : List α → List α
  | [] => [x]
  | y :: rest => if before x y then x :: y :: rest else y :: insertBy before x rest

/-- Stable insertion sort: an element goes after those it is not strictly before. -/
def sortBy {α : Type} (before : α → α → Bool) (l : List α) : List α :=
  l.foldl (fun acc x => insertBy before x acc) []

/-- The first element that no other is strictly before. -/
def bestBy {α : Type} (before : α → α → Bool) : List α → Option α
  | [] => none
  | x :: rest => some (rest.foldl (fun m y => if before y m then y else m) x)

/-- Position of the first element that meets a test. -/
def findIdx {α : Type} (p : α → Bool) : List α → Option Nat
  | [] => none
  | x :: rest => if p x then some 0 else (findIdx p rest).map (· + 1)

/-- Change the first element that meets a test, or the last one (`modLast`). -/
def modFirst {α : Type} (p : α → Bool) (f : α → α) : List α → List α
  | [] => []
  | x :: rest => if p x then f x :: rest else x :: modFirst p f rest

def modLast {α : Type} (p : α → Bool) (f : α → α) (l : List α) : List α := (modFirst p f l.reverse).reverse

/-- Drop the first element that meets a test. -/
def dropFirst {α : Type} (p : α → Bool) : List α → List α
  | [] => []
  | x :: rest => if p x then rest else x :: dropFirst p rest

/-- Whether two half-open ranges share a number. -/
def meet (a alen b blen : Nat) : Bool := alen != 0 && blen != 0 && a < b + blen && b < a + alen

/-- Whether the half-open range `a, alen` lies in `b, blen`. -/
def inside (a alen b blen : Nat) : Bool := b ≤ a && a + alen ≤ b + blen

end Sys2Proof
end

