-- ==== Sys2Proof/Machine/Num.lean ====
section
/-! DEFINITION. Numbers, rounding and order (02 R30 to R53) and the functions of the pipes (10 R260,
R261). A value is a NaN, an infinity or an exact dyadic number; every result is formed exactly and
rounded once. -/

namespace Sys2Proof

/-- The value a floating-point pattern stands for: NaN, an infinity, or ±m·2^e. -/
inductive Val where
  | nan
  | inf (neg : Bool)
  | fin (neg : Bool) (m : Nat) (e : Int)
  deriving DecidableEq, Repr

/-- A floating-point format: exponent bits, mantissa bits, and whether it is E4M3 (R30). -/
structure Fmt where
  eb : Nat
  mb : Nat
  e4m3 : Bool
  deriving DecidableEq, Repr

def Fmt.fp32 : Fmt := ⟨8, 23, false⟩
def Fmt.fp16 : Fmt := ⟨5, 10, false⟩
def Fmt.bf16 : Fmt := ⟨8, 7, false⟩
def Fmt.ofE4M3 : Fmt := ⟨4, 3, true⟩
def Fmt.ofE5M2 : Fmt := ⟨5, 2, false⟩

/-- The exponent bias (R30). -/
def Fmt.bias (f : Fmt) : Nat := 2 ^ (f.eb - 1) - 1

/-- The code of an infinity without sign, or for E4M3 of the NaN: the first code above the finite ones. -/
def Fmt.top (f : Fmt) : Nat := if f.e4m3 then 0x7F else (2 ^ f.eb - 1) * 2 ^ f.mb

/-- The canonical NaN (R37). -/
def Fmt.nan (f : Fmt) : Nat := if f.e4m3 then 0x7F else f.top + 2 ^ (f.mb - 1)

/-- The value of a pattern (R30); every NaN is quiet (R37). -/
def Fmt.val (f : Fmt) (bits : Nat) : Val :=
  let neg := bit bits (f.eb + f.mb)
  let code := bits % 2 ^ (f.eb + f.mb)
  let ex := code / 2 ^ f.mb
  let fr := code % 2 ^ f.mb
  if f.e4m3 && code = 0x7F then .nan
  else if !f.e4m3 && ex = 2 ^ f.eb - 1 then (if fr = 0 then .inf neg else .nan)
  else if ex = 0 then .fin neg fr (1 - (f.bias : Int) - f.mb)
  else .fin neg (2 ^ f.mb + fr) ((ex : Int) - f.bias - f.mb)

/-- `m · 2^k` rounded to an integer, ties to even (R34). -/
def rneScale (m : Nat) (k : Int) : Nat :=
  if 0 ≤ k then m <<< k.toNat
  else
    let s := (-k).toNat
    let q := m >>> s
    let r := m % 2 ^ s
    let half := 2 ^ (s - 1)
    if half < r || (r = half && q % 2 = 1) then q + 1 else q

/-- The code of a finite magnitude after RNE, which may exceed the finite codes (R34, R36). -/
def Fmt.code (f : Fmt) (m : Nat) (e : Int) : Nat :=
  if m = 0 then 0
  else
    let emin : Int := 1 - (f.bias : Int)
    let ex : Int := (Nat.log2 m : Int) + e
    let q : Int := (if emin ≤ ex then ex else emin) - f.mb
    (q - (emin - f.mb)).toNat * 2 ^ f.mb + rneScale m (e - q)

/-- Conversion to a format (R34 to R37): the pattern, and whether it saturated. `sat` is
ND_PART_ARITH_n.ofp8_sat and acts on the two OFP8 formats only. -/
def Fmt.round (f : Fmt) (sat : Bool) (v : Val) : Nat × Bool :=
  let sgn := fun (neg : Bool) (c : Nat) => b01 neg * 2 ^ (f.eb + f.mb) + c
  match v with
  | .nan => (f.nan, false)
  | .inf neg =>
    if f.e4m3 then (if sat then (sgn neg (f.top - 1), true) else (f.nan, false)) else (sgn neg f.top, false)
  | .fin neg m e =>
    let c := f.code m e
    if c < f.top then (sgn neg c, false)
    else if f.eb + f.mb = 7 && sat then (sgn neg (f.top - 1), true)
    else if f.e4m3 then (f.nan, false)
    else (sgn neg f.top, false)

/-- The value of an FP32 word. -/
def valOf (w : Word) : Val := Fmt.fp32.val w.toNat

/-- A value rounded once to FP32 (R42). -/
def toF32 (v : Val) : Word := BitVec.ofNat 32 (Fmt.fp32.round false v).1

/-- The code of a finite magnitude cut down, its last bit set where bits were lost: a later RNE to a format at least two
bits shorter then rounds the magnitude itself. -/
def Fmt.codeOdd (f : Fmt) (m : Nat) (e : Int) : Nat :=
  if m = 0 then 0
  else
    let emin : Int := 1 - (f.bias : Int)
    let ex : Int := (Nat.log2 m : Int) + e
    let q : Int := (if emin ≤ ex then ex else emin) - f.mb
    let s := (q - e).toNat
    (q - (emin - f.mb)).toNat * 2 ^ f.mb + (if q ≤ e then m <<< (e - q).toNat else (m >>> s) ||| b01 (m % 2 ^ s != 0))

/-- The FP32 word by which a value goes to a narrower format with one rounding: the value itself where FP32 holds it. -/
def toF32Odd (v : Val) : Word :=
  match v with
  | .fin neg m e => BitVec.ofNat 32 (b01 neg * 2 ^ 31 + Nat.min (Fmt.fp32.codeOdd m e) (Fmt.fp32.top - 1))
  | v => toF32 v

/-- RNE_out of a value, up to its conversion to the destination's format: rounded to FP32 for FP32 and for the block-scaled
formats, which quantise FP32 values (R40), and kept for the one rounding of a narrower format (R34, R263). -/
def outWord (fmt : Nat) (v : Val) : Word := if fmt = 0 || fmt = 1 || fmt = 5 || fmt = 6 then toF32Odd v else toF32 v

/-- The canonical FP32 NaN (R37). -/
def nan32 : Word := 0x7FC00000

def Val.isNaN : Val → Bool
  | .nan => true
  | _ => false

def Val.isInf : Val → Bool
  | .inf _ => true
  | _ => false

def isNaN32 (w : Word) : Bool := (valOf w).isNaN

def Val.neg : Val → Val
  | .nan => .nan
  | .inf s => .inf (!s)
  | .fin s m e => .fin (!s) m e

/-- A signed integer as an exact value; zero takes the sign given. -/
def Val.ofInt (z : Bool) (n : Int) (e : Int) : Val :=
  if n = 0 then .fin z 0 e else .fin (n < 0) n.natAbs e

/-- The signed significand scaled to a lower exponent. -/
def sig (s : Bool) (m : Nat) (e lo : Int) : Int :=
  let k : Int := ((m <<< (e - lo).toNat : Nat) : Int)
  if s then -k else k

/-- Exact sum; a zero sum of unlike signs is +0 under RNE. -/
def Val.add : Val → Val → Val
  | .nan, _ => .nan
  | _, .nan => .nan
  | .inf s, .inf t => if s = t then .inf s else .nan
  | .inf s, .fin _ _ _ => .inf s
  | .fin _ _ _, .inf t => .inf t
  | .fin s m e, .fin t n f =>
    let lo : Int := if e ≤ f then e else f
    Val.ofInt (s && t) (sig s m e lo + sig t n f lo) lo

/-- Exact product. -/
def Val.mul : Val → Val → Val
  | .nan, _ => .nan
  | _, .nan => .nan
  | .inf s, .inf t => .inf (s != t)
  | .inf s, .fin t n _ => if n = 0 then .nan else .inf (s != t)
  | .fin s m _, .inf t => if m = 0 then .nan else .inf (s != t)
  | .fin s m e, .fin t n f => .fin (s != t) (m * n) (e + f)

/-- The quotient of two naturals with a sticky last bit: floor, then one bit set when inexact. -/
def stickyDiv (n d k : Nat) : Nat :=
  let q := (n <<< k) / d
  2 * q + b01 ((n <<< k) % d != 0)

/-- Quotient, exact enough for one correct rounding (R34, R79). -/
def Val.div : Val → Val → Val
  | .nan, _ => .nan
  | _, .nan => .nan
  | .inf _, .inf _ => .nan
  | .inf s, .fin t _ _ => .inf (s != t)
  | .fin s _ _, .inf t => .fin (s != t) 0 0
  | .fin s m e, .fin t n f =>
    if n = 0 then (if m = 0 then .nan else .inf (s != t))
    else
      let k := Nat.log2 n + 64
      .fin (s != t) (stickyDiv m n k) (e - f - k - 1)

/-- Exact comparison of two values that are not NaN. -/
def Val.cmp : Val → Val → Ordering
  | .inf s, .inf t => if s = t then .eq else if s then .lt else .gt
  | .inf s, _ => if s then .lt else .gt
  | _, .inf t => if t then .gt else .lt
  | .fin s m e, .fin t n f =>
    let lo : Int := if e ≤ f then e else f
    compare (sig s m e lo) (sig t n f lo)
  | _, _ => .eq

/-- Strictly lower in the selection order of R43: NaN lowest, zeros equal. -/
def lt43 (a b : Val) : Bool :=
  match a.isNaN, b.isNaN with
  | true, true => false
  | true, false => true
  | false, true => false
  | false, false => a.cmp b == .lt

/-- Equal in the order of R43. -/
def eq43 (a b : Val) : Bool := !lt43 a b && !lt43 b a

/-- FP32 addition, multiplication, subtraction and fused multiply-add: one rounding (R42). -/
def f32Add (a b : Word) : Word := toF32 ((valOf a).add (valOf b))
def f32Sub (a b : Word) : Word := toF32 ((valOf a).add (valOf b).neg)
def f32Mul (a b : Word) : Word := toF32 ((valOf a).mul (valOf b))
def f32Div (a b : Word) : Word := toF32 ((valOf a).div (valOf b))
def f32Fma (a b c : Word) : Word := toF32 (((valOf a).mul (valOf b)).add (valOf c))

/-- The sign of an FP32 word. -/
def signOf (w : Word) : Bool := bit w.toNat 31

/-- Maximum and minimum of R44: the operand that is not NaN, −0 below +0. -/
def f32Pick (max : Bool) (a b : Word) : Word :=
  if isNaN32 a then (if isNaN32 b then nan32 else b)
  else if isNaN32 b then a
  else
    let below := match (valOf a).cmp (valOf b) with
      | .lt => true
      | .gt => false
      | .eq => signOf a && !signOf b
    if max then (if below then b else a) else (if below then a else (if a = b then a else b))

def f32Max (a b : Word) : Word := f32Pick true a b
def f32Min (a b : Word) : Word := f32Pick false a b

/-- IEEE 754 comparison under a condition code 0 to 5 (R44, R332): false with a NaN, except NE. -/
def f32Cmp (cc : Nat) (a b : Word) : Bool :=
  if isNaN32 a || isNaN32 b then cc == 1
  else
    let o := (valOf a).cmp (valOf b)
    match cc with
    | 0 => o == .eq
    | 1 => o != .eq
    | 2 => o == .lt
    | 3 => o != .gt
    | 4 => o == .gt
    | _ => o != .lt

/-- Conversion of a value to a signed integer of `w` bits: RNE, clamp, NaN to 0 (R38); and whether it
clamped. -/
def toIntW (w : Nat) (v : Val) : BitVec w × Bool :=
  let lo : Int := -(2 ^ (w - 1) : Nat)
  let hi : Int := (2 ^ (w - 1) : Nat) - 1
  match v with
  | .nan => (0, false)
  | .inf s => (BitVec.ofInt w (if s then lo else hi), true)
  | .fin s m e =>
    let r : Int := (rneScale m e : Nat)
    let x : Int := if s then -r else r
    if x < lo then (BitVec.ofInt w lo, true) else if hi < x then (BitVec.ofInt w hi, true)
    else (BitVec.ofInt w x, false)

/-- An integer as an exact value. -/
def ofInt32 (x : Int) : Val := Val.ofInt false x 0

/-! ### Element formats of a descriptor (R277) -/

/-- Format codes 0x00 to 0x08 (R277). -/
def fmtBytes (code : Nat) : Nat :=
  if code = 0 || code = 1 then 2 else if code = 4 || code = 8 then 4 else 1

/-- Whether a format carries block scales (R32). -/
def fmtBlock (code : Nat) : Bool := code = 2 || code = 3

/-- Whether a format is an integer format. -/
def fmtInt (code : Nat) : Bool := code = 7 || code = 8

/-- The floating-point format of a code. -/
def fmtOf (code : Nat) : Fmt :=
  match code with
  | 0 => .bf16
  | 1 => .fp16
  | 2 => .ofE4M3
  | 3 => .ofE5M2
  | 5 => .ofE4M3
  | 6 => .ofE5M2
  | _ => .fp32

/-- The value of a block-scaled element under its scale byte (R33). -/
def scaled (v : Val) (scale : Nat) : Val :=
  if scale = 255 then .nan
  else match v with
    | .fin s m e => .fin s m (e + (scale : Int) - 127)
    | x => x

/-- The scale byte R40 chooses for a block of FP32 words of element format `f`. -/
def blockScale (f : Fmt) (xs : List Word) : Nat :=
  let vs := (xs.map valOf).filter fun v => !v.isNaN
  let emax : Int := if f.e4m3 then 8 else 15
  if vs.isEmpty || vs.any Val.isInf then 255
  else
    let tops : List Int := vs.filterMap fun v =>
      match v with
      | .fin _ m e => if m = 0 then none else some ((Nat.log2 m : Int) + e)
      | _ => none
    match tops with
    | [] => 0x7F
    | t :: rest =>
      let top := rest.foldl (fun a b => if a < b then b else a) t
      let s : Int := top - emax + 127
      if s < 0 then 0 else if 254 < s then 254 else s.toNat

/-- One block quantised: element bytes, scale byte, saturations counted (R40). -/
def quantBlock (f : Fmt) (sat : Bool) (xs : List Word) : List Byte × Byte × Nat :=
  let s := blockScale f xs
  if s = 255 then (xs.map fun _ => BitVec.ofNat 8 f.nan, 0xFF, 0)
  else
    let rs := xs.map fun x =>
      match valOf x with
      | .fin g m e => f.round sat (.fin g m (e + 127 - (s : Int)))
      | v => f.round sat v
    (rs.map fun r => BitVec.ofNat 8 r.1, BitVec.ofNat 8 s, (rs.filter (·.2)).length)

/-! ### Reductions -/

/-- One level of the pairwise tree. -/
def pairUp {α : Type} (op : α → α → α) : List α → List α
  | a :: b :: rest => op a b :: pairUp op rest
  | l => l

/-- The smallest power of two not below `n`, searched upward. -/
def pow2Above (n : Nat) : Nat := 2 ^ (if n ≤ 1 then 0 else Nat.log2 (n - 1) + 1)

/-- The canonical pairwise tree of R48 with a padding element. -/
def tree {α : Type} (op : α → α → α) (pad : α) (l : List α) : α :=
  let m := pow2Above l.length
  let full := l ++ List.replicate (m - l.length) pad
  match Nat.rec full (fun _ x => pairUp op x) (Nat.log2 m) with
  | x :: _ => x
  | [] => pad

/-- −0 as an FP32 word. -/
def negZero : Word := 0x80000000

/-- The ordered sum of R48. -/
def orderedSum (l : List Word) : Word := tree f32Add negZero l

/-- The elements with index `i ≡ r (mod n)`, in order. -/
def strided {α : Type} (n r : Nat) (l : List α) : List α :=
  (l.zipIdx.filter fun p => p.2 % n = r).map (·.1)

/-- A row sum under R47: FAST sums each lane's strided share in order and joins the lanes by the tree
over lane index; ORDERED is the tree over element index. -/
def rowSum (ordered : Bool) (lanes : Nat) (l : List Word) : Word :=
  if ordered then orderedSum l
  else orderedSum ((List.range lanes).map fun r => (strided lanes r l).foldl f32Add negZero)

/-! ### The functions of the pipes

Each is evaluated in fixed point with `prec` fraction bits, far beyond what separates any FP32 input's
exact value from a rounding boundary, and rounded once (R260; log 15). -/

/-- Fraction bits of the working precision. -/
def prec : Nat := 900

def fxOne : Int := ((2 ^ prec : Nat) : Int)

/-- Fixed-point product. -/
def fxMul (a b : Int) : Int := (a * b) / fxOne

/-- A dyadic number in fixed point. -/
def fxOf (s : Bool) (m : Nat) (e : Int) : Int :=
  let k : Int := e + (prec : Int)
  let a : Nat := if 0 ≤ k then m <<< k.toNat else m >>> (-k).toNat
  if s then -(a : Int) else (a : Int)

/-- atanh of a fixed-point number below a half, by its series. -/
def fxAtanh (z : Int) (terms : Nat) : Int :=
  let z2 := fxMul z z
  (Nat.rec (motive := fun _ => Int × Int) (z, z)
    (fun i st => (fxMul st.1 z2, st.2 + fxMul st.1 z2 / (2 * (i : Int) + 3))) terms).2

/-- ln 2. -/
def fxLn2 : Int := 2 * fxAtanh (fxOne / 3) 300

/-- arctan of 1/n, by its series. -/
def fxAtanInv (n : Nat) : Int :=
  let z := fxOne / n
  (Nat.rec (motive := fun _ => Int × Int) (z, z)
    (fun i st =>
      let t := st.1 / (n * n : Nat)
      (t, if i % 2 = 0 then st.2 - t / (2 * (i : Int) + 3) else st.2 + t / (2 * (i : Int) + 3))) 220).2

/-- π. -/
def fxPi : Int := 16 * fxAtanInv 5 - 4 * fxAtanInv 239

/-- e^r for a small fixed-point number, by Horner's rule. -/
def fxExpSmall (r : Int) : Int :=
  Nat.rec fxOne (fun i acc => fxOne + fxMul r acc / ((160 - i : Nat) : Int)) 160

/-- Nearest integer to a quotient of fixed-point numbers. -/
def fxNear (a b : Int) : Int := (2 * a + b) / (2 * b)

/-- e^x for |x| at most 2^10, as a value. -/
def expFx (x : Int) : Val :=
  let k := fxNear x fxLn2
  let r := x - k * fxLn2
  .fin false (fxExpSmall r).toNat (k - prec)

/-- A finite value held within ±1000, beyond which every function here has reached its limit. -/
def fxClamped (s : Bool) (m : Nat) (e : Int) : Int :=
  if m ≠ 0 && (12 : Int) < (Nat.log2 m : Int) + e then (if s then -(1000 * fxOne) else 1000 * fxOne)
  else
    let x := fxOf s m e
    if 1000 * fxOne < x then 1000 * fxOne else if x < -(1000 * fxOne) then -(1000 * fxOne) else x

def vOne : Val := .fin false 1 0

/-- ln of a positive finite value. -/
def logVal (m : Nat) (e : Int) : Val :=
  let l := Nat.log2 m
  let f := fxOf false m (-(l : Int))
  let z := ((f - fxOne) * fxOne) / (f + fxOne)
  Val.ofInt false (((e + (l : Int)) * fxLn2) + 2 * fxAtanh z 300) (-(prec : Int))

/-- e^x (R261). -/
def fnExp : Val → Val
  | .nan => .nan
  | .inf s => if s then .fin false 0 0 else .inf false
  | .fin s m e => expFx (fxClamped s m e)

/-- ln x (R261). -/
def fnLog : Val → Val
  | .nan => .nan
  | .inf s => if s then .nan else .inf false
  | .fin s m e => if m = 0 then .inf true else if s then .nan else logVal m e

/-- 1/x (R261). -/
def fnRecip (v : Val) : Val := vOne.div v

/-- Integer square root, bit by bit from bit `n` down. -/
def isqrtFrom (v : Nat) : Nat → Nat → Nat
  | 0, r => if (r + 1) * (r + 1) ≤ v then r + 1 else r
  | n + 1, r =>
    let c := r + 2 ^ (n + 1)
    isqrtFrom v n (if c * c ≤ v then c else r)

/-- 1/√x (R261). -/
def fnRsqrt : Val → Val
  | .nan => .nan
  | .inf s => if s then .nan else .fin false 0 0
  | .fin s m e =>
    if m = 0 then .inf s
    else if s then .nan
    else
      let odd := e % 2 != 0
      let m' := if odd then 2 * m else m
      let h : Int := (if odd then e - 1 else e) / 2
      let r := isqrtFrom (2 ^ 400 / m') 210 0
      .fin false (2 * r + b01 (r * r * m' != 2 ^ 400)) (-h - 200 - 1)

/-- 1/(1 + e^−x) (R261). -/
def fnSigmoid : Val → Val
  | .nan => .nan
  | .inf s => if s then .fin false 0 0 else vOne
  | .fin s m e =>
    let t := expFx (fxClamped s m e)
    t.div (vOne.add t)

/-- tanh x (R261). -/
def fnTanh : Val → Val
  | .nan => .nan
  | .inf s => .fin s 1 0
  | .fin s m e =>
    if m = 0 then .fin s 0 0
    else
      let t := expFx (fxClamped false m (e + 1))
      match (t.add vOne.neg).div (t.add vOne) with
      | .fin _ a b => .fin s a b
      | v => v

/-- Σ x^(2n+1)/(1·3·…·(2n+1)), the series of the normal distribution function. -/
def phiSeries (x : Int) : Int :=
  let x2 := fxMul x x
  (Nat.rec (motive := fun _ => Int × Int) (x, x)
    (fun i st =>
      let t := fxMul st.1 x2 / (2 * (i : Int) + 3)
      (t, st.2 + t)) 1500).2

/-- Fixed-point number of a value. -/
def fxVal : Val → Int
  | .fin s m e => fxOf s m e
  | _ => 0

/-- √(2π) in fixed point. -/
def fxRoot2Pi : Int := ((isqrtFrom (2 * fxPi * fxOne).toNat (prec + 2) 0 : Nat) : Int)

/-- x·Φ(x) (R261); beyond ±20 the result is x itself, or below every subnormal. -/
def fnGelu : Val → Val
  | .nan => .nan
  | .inf s => if s then .fin true 0 0 else .inf false
  | .fin s m e =>
    if m = 0 then .fin s 0 0
    else
      let x := fxClamped s m e
      if 20 * fxOne < x then .fin s m e
      else if x < -(20 * fxOne) then .fin true 0 0
      else
        let dens := fxVal (expFx (-(fxMul x x) / 2))
        let phi := fxOne / 2 + (fxMul dens (phiSeries x) * fxOne) / fxRoot2Pi
        (Val.fin s m e).mul (.fin false phi.toNat (-(prec : Int)))

/-- x·sigmoid(x) (R261). -/
def fnSilu : Val → Val
  | .nan => .nan
  | .inf s => if s then .fin true 0 0 else .inf false
  | v => v.mul (fnSigmoid v)

/-- ln(1 + e^x) (R261). -/
def fnSoftplus : Val → Val
  | .nan => .nan
  | .inf s => if s then .fin false 0 0 else .inf false
  | .fin s m e =>
    let x := fxClamped s m e
    match vOne.add (expFx (if x < 0 then x else -x)) with
    | .fin _ a b =>
      let l := logVal a b
      if x < 0 then (if fxVal l = 0 then .fin false 0 0 else l) else (Val.fin s m e).add l
    | v => v

/-- sin and cos of a reduced argument by Taylor's series; `n` is the first power's index. -/
def fxSinCos (r : Int) (cosine : Bool) : Int :=
  let r2 := fxMul r r
  let start := if cosine then fxOne else r
  let off : Int := if cosine then 1 else 2
  (Nat.rec (motive := fun _ => Int × Int) (start, start)
    (fun i st =>
      let k : Int := 2 * (i : Int) + off
      let t := -(fxMul st.1 r2) / (k * (k + 1))
      (t, st.2 + t)) 130).2

/-- sin x, or cos x, with exact range reduction (R260, R261). -/
def fnTrig (cosine : Bool) : Val → Val
  | .nan => .nan
  | .inf _ => .nan
  | .fin s m e =>
    if m = 0 then (if cosine then vOne else .fin s 0 0)
    else
      let x := fxOf s m e
      let k := fxNear (2 * x) fxPi
      let r := x - (k * fxPi) / 2
      let q := (k + (if cosine then 1 else 0)) % 4
      let y := fxSinCos r (q % 2 = 1)
      Val.ofInt s (if q = 2 || q = 3 then -y else y) (-(prec : Int))

/-- silu(a) × b, rounded once (R261). -/
def fnSwiglu (a b : Val) : Val := (fnSilu a).mul b

/-- The function of an opcode offset 0 to 10 of 0x60 (R330). -/
def fnOf (n : Nat) : Val → Val :=
  match n with
  | 0 => fnExp
  | 1 => fnLog
  | 2 => fnRecip
  | 3 => fnRsqrt
  | 4 => fnSigmoid
  | 5 => fnTanh
  | 6 => fnGelu
  | 7 => fnSilu
  | 8 => fnSoftplus
  | 9 => fnTrig false
  | _ => fnTrig true

def exp32 (w : Word) : Word := toF32 (fnExp (valOf w))
def log32 (w : Word) : Word := toF32 (fnLog (valOf w))
def sigmoid32 (w : Word) : Word := toF32 (fnSigmoid (valOf w))
def recip32 (w : Word) : Word := toF32 (fnRecip (valOf w))
def rsqrt32 (w : Word) : Word := toF32 (fnRsqrt (valOf w))

/-! ### The block-fixed grid of ORDERED folds and comets (R49, R251) -/

/-- The biased exponent of a finite nonzero FP32 element, a subnormal counting 1; 0 where it has none. -/
def gridExp (w : Word) : Nat :=
  let ex := fld w 30 23
  if ex = 255 then 0 else if ex = 0 then (if fld w 22 0 = 0 then 0 else 1) else ex

def gridNaN : Word := 0x80000000
def gridPosInf : Word := 0x7FFFFFFF
def gridNegInf : Word := 0x80000001

/-- A contribution on the grid of exponent M (R49). -/
def gridOf (mx : Nat) (w : Word) : Word :=
  match valOf w with
  | .nan => gridNaN
  | .inf s => if s then gridNegInf else gridPosInf
  | .fin s m e => (toIntW 32 (.fin s m (e + 147 - (mx : Int)))).1

/-- The sum of two grid values (R49). -/
def gridAdd (a b : Word) : Word :=
  let special := fun (x : Word) => x = gridNaN || x = gridPosInf || x = gridNegInf
  if a = gridNaN || b = gridNaN then gridNaN
  else if special a && special b then (if a = b then a else gridNaN)
  else if special a then a
  else if special b then b
  else a + b

/-- The FP32 result of a grid sum (R49, R50). -/
def gridResult (mx : Nat) (q : Word) : Word :=
  if q = gridNaN then nan32
  else if q = gridPosInf then 0x7F800000
  else if q = gridNegInf then 0xFF800000
  else toF32 (Val.ofInt false (sInt q) ((mx : Int) - 147))

/-! ### SECDED(39,32) (R54, R55) -/

/-- The columns h(i) of the data bits (R54). -/
def eccCols : List Nat :=
  [0x07, 0x0B, 0x0D, 0x0E, 0x13, 0x15, 0x16, 0x19, 0x1A, 0x1C, 0x23, 0x25, 0x26, 0x29, 0x2A, 0x2C]
    ++ [0x31, 0x32, 0x34, 0x38, 0x43, 0x45, 0x46, 0x49, 0x4A, 0x4C, 0x51, 0x52, 0x54, 0x58, 0x61, 0x62]

/-- k of R54 for a data word. -/
def eccK (data : Word) : Nat :=
  eccCols.zipIdx.foldl (fun k p => if bit data.toNat p.2 then k ^^^ p.1 else k) 0

/-- The stored check field of a data word. -/
def eccCheck (data : Word) : Nat := eccK data ^^^ 0x7F

/-- What a read of a protected word yields (R55). -/
inductive EccRead where
  | clean (data : Word)
  | corrected (data : Word)
  | uncorrectable
  deriving DecidableEq, Repr

/-- Read a protected word from its stored data and check bits (R55). -/
def eccRead (data : Word) (check : Nat) : EccRead :=
  let y := ((check % 128) ^^^ 0x7F) ^^^ eccK data
  if y = 0 then .clean data
  else match findIdx (· == y) eccCols with
    | some i => .corrected (data ^^^ BitVec.ofNat 32 (2 ^ i))
    | none => if popCount 7 y = 1 then .corrected data else .uncorrectable

/-- What a read makes of the errors in a protected word: nothing usable, or the word with the data bits flipped that
remain wrong; the code is linear, so that the word's value does not matter (R55). -/
def hurtRead (mask : Nat) : Option Word :=
  match eccRead (BitVec.ofNat 32 mask) (0x7F ^^^ field mask 38 32) with
  | .clean v => some v
  | .corrected v => some v
  | .uncorrectable => none

/-! ### The mixer (16 R400) -/

/-- Rotate a 32-bit word left. -/
def rotl16 (x : Word) : Word := x.rotateLeft 16

/-- One round of the mixer on (a, b, x, y). -/
def mixRound (k : Nat → Word) (r : Nat) (st : Word × Word × Word × Word) : Word × Word × Word × Word :=
  let (a, b, x, y) := st
  let ka := k (r % 4) ^^^ BitVec.ofNat 32 (r * 0x6C8E9CF5)
  let kb := k ((r + 2) % 4) + BitVec.ofNat 32 (r * 0x3D4D51CB)
  let p := 0xB5AD4ECB * a.toNat
  let q := 0xE817FB2D * x.toNat
  (BitVec.ofNat 32 (q / 2 ^ 32) ^^^ b ^^^ ka, BitVec.ofNat 32 q, BitVec.ofNat 32 (p / 2 ^ 32) ^^^ y ^^^ kb, BitVec.ofNat 32 p)

/-- mix(K, s, c) (R400). -/
def mix (key : BitVec 128) (stream : Word) (ctr : Quad) : Word :=
  let k := fun i => BitVec.ofNat 32 (key.toNat >>> (32 * i))
  let st := Nat.rec (motive := fun _ => Word × Word × Word × Word)
    (BitVec.ofNat 32 ctr.toNat, BitVec.ofNat 32 (ctr.toNat / 2 ^ 32), stream, (0x5A17C3E9 : Word))
    (fun r s => mixRound k r s) 10
  st.1 ^^^ rotl16 st.2.2.1

/-- U of R81: ((w >> 9) + 0.5) × 2^−23, exact. -/
def unit23 (w : Word) : Val := .fin false (2 * (w.toNat >>> 9) + 1) (-24)

end Sys2Proof
end

