-- ==== Sys2Proof/Machine/Crypto.lean ====
section
/-! DEFINITION. Crypto: the functions of outside standards that the spec names and whose definition they fix: SHA-384 (FIPS
180-4), HMAC (FIPS 198-1), the KDF in counter mode (SP 800-108), AES-256 (FIPS 197), GCM (SP 800-38D) and the CTR_DRBG
(SP 800-90A) (15 R384; 16 R411, R412; 17 R440, R441; 20 R515, R516; log 72). -/

namespace Sys2Proof

/-! ### SHA-384 -/

/-- The constants of SHA-384's rounds. -/
def shaK : List Quad :=
  [0x428A2F98D728AE22, 0x7137449123EF65CD, 0xB5C0FBCFEC4D3B2F, 0xE9B5DBA58189DBBC,
   0x3956C25BF348B538, 0x59F111F1B605D019, 0x923F82A4AF194F9B, 0xAB1C5ED5DA6D8118,
   0xD807AA98A3030242, 0x12835B0145706FBE, 0x243185BE4EE4B28C, 0x550C7DC3D5FFB4E2,
   0x72BE5D74F27B896F, 0x80DEB1FE3B1696B1, 0x9BDC06A725C71235, 0xC19BF174CF692694,
   0xE49B69C19EF14AD2, 0xEFBE4786384F25E3, 0x0FC19DC68B8CD5B5, 0x240CA1CC77AC9C65] ++
  [0x2DE92C6F592B0275, 0x4A7484AA6EA6E483, 0x5CB0A9DCBD41FBD4, 0x76F988DA831153B5,
   0x983E5152EE66DFAB, 0xA831C66D2DB43210, 0xB00327C898FB213F, 0xBF597FC7BEEF0EE4,
   0xC6E00BF33DA88FC2, 0xD5A79147930AA725, 0x06CA6351E003826F, 0x142929670A0E6E70,
   0x27B70A8546D22FFC, 0x2E1B21385C26C926, 0x4D2C6DFC5AC42AED, 0x53380D139D95B3DF,
   0x650A73548BAF63DE, 0x766A0ABB3C77B2A8, 0x81C2C92E47EDAEE6, 0x92722C851482353B] ++
  [0xA2BFE8A14CF10364, 0xA81A664BBC423001, 0xC24B8B70D0F89791, 0xC76C51A30654BE30,
   0xD192E819D6EF5218, 0xD69906245565A910, 0xF40E35855771202A, 0x106AA07032BBD1B8,
   0x19A4C116B8D2D0C8, 0x1E376C085141AB53, 0x2748774CDF8EEB99, 0x34B0BCB5E19B48A8,
   0x391C0CB3C5C95A63, 0x4ED8AA4AE3418ACB, 0x5B9CCA4F7763E373, 0x682E6FF3D6B2B8A3,
   0x748F82EE5DEFB2FC, 0x78A5636F43172F60, 0x84C87814A1F0AB72, 0x8CC702081A6439EC] ++
  [0x90BEFFFA23631E28, 0xA4506CEBDE82BDE9, 0xBEF9A3F7B2C67915, 0xC67178F2E372532B,
   0xCA273ECEEA26619C, 0xD186B8C721C0C207, 0xEADA7DD6CDE0EB1E, 0xF57D4F7FEE6ED178,
   0x06F067AA72176FBA, 0x0A637DC5A2C898A6, 0x113F9804BEF90DAE, 0x1B710B35131C471B,
   0x28DB77F523047D84, 0x32CAAB7B40C72493, 0x3C9EBE0A15C9BEBC, 0x431D67C49C100D4C,
   0x4CC5D4BECB3E42B6, 0x597F299CFC657E2A, 0x5FCB6FAB3AD6FAEC, 0x6C44198C4A475817]

/-- The working variables a to h. -/
structure ShaSt where
  a : Quad
  b : Quad
  c : Quad
  d : Quad
  e : Quad
  f : Quad
  g : Quad
  h : Quad
  deriving DecidableEq, Repr

/-- The initial hash value of SHA-384. -/
def shaInit : ShaSt :=
  ⟨0xCBBB9D5DC1059ED8, 0x629A292A367CD507, 0x9159015A3070DD17, 0x152FECD8F70E5939,
   0x67332667FFC00B31, 0x8EB44A8768581511, 0xDB0C2E0D64F98FA7, 0x47B5481DBEFA4FA4⟩

/-- A block's words, latest first, with the next one (the message schedule). -/
def shaNext (w : List Quad) : List Quad :=
  let x := fun (n : Nat) => (w[n]?).getD 0
  let s0 := fun (v : Quad) => v.rotateRight 1 ^^^ v.rotateRight 8 ^^^ (v >>> 7)
  let s1 := fun (v : Quad) => v.rotateRight 19 ^^^ v.rotateRight 61 ^^^ (v >>> 6)
  (s1 (x 1) + x 6 + s0 (x 14) + x 15) :: w

/-- One round. -/
def ShaSt.round (s : ShaSt) (k w : Quad) : ShaSt :=
  let s1 := s.e.rotateRight 14 ^^^ s.e.rotateRight 18 ^^^ s.e.rotateRight 41
  let ch := (s.e &&& s.f) ^^^ (~~~s.e &&& s.g)
  let t1 := s.h + s1 + ch + k + w
  let s0 := s.a.rotateRight 28 ^^^ s.a.rotateRight 34 ^^^ s.a.rotateRight 39
  let maj := (s.a &&& s.b) ^^^ (s.a &&& s.c) ^^^ (s.b &&& s.c)
  ⟨t1 + (s0 + maj), s.a, s.b, s.c, s.d + t1, s.e, s.f, s.g⟩

/-- A block of 128 B is taken in. -/
def ShaSt.block (s : ShaSt) (bs : List Byte) : ShaSt :=
  let first := (pieces 8 bs).map fun x => BitVec.ofNat 64 (beNat x)
  let w := ((List.range 64).foldl (fun w _ => shaNext w) first.reverse).reverse
  let r := (shaK.zip w).foldl (fun t x => t.round x.1 x.2) s
  ⟨s.a + r.a, s.b + r.b, s.c + r.c, s.d + r.d, s.e + r.e, s.f + r.f, s.g + r.g, s.h + r.h⟩

/-- SHA-384 (FIPS 180-4). -/
def sha384 (l : List Byte) : List Byte :=
  let fill := (239 - l.length % 128) % 128
  let text := l ++ 0x80 :: List.replicate fill 0 ++ toBe 16 (8 * l.length)
  let r := (pieces 128 text).foldl ShaSt.block shaInit
  [r.a, r.b, r.c, r.d, r.e, r.f].flatMap fun v => toBe 8 v.toNat

/-- Bytes combined by XOR, as many as the shorter has. -/
def xorBytes (a b : List Byte) : List Byte := List.zipWith (· ^^^ ·) a b

/-- HMAC-SHA-384 (FIPS 198-1). -/
def hmac384 (key text : List Byte) : List Byte :=
  let k := if 128 < key.length then sha384 key else key
  let k := k ++ List.replicate (128 - k.length) 0
  sha384 (k.map (· ^^^ 0x5C) ++ sha384 (k.map (· ^^^ 0x36) ++ text))

/-- The KDF in counter mode over HMAC-SHA-384 (R440): key, label, context, bits. -/
def kdf (key label ctx : List Byte) (bits : Nat) : List Byte :=
  let fixed := label ++ 0 :: ctx ++ toBe 4 bits
  ((List.range (ceilDiv bits 384)).flatMap fun i => hmac384 key (toBe 4 (i + 1) ++ fixed)).take (bits / 8)

/-! ### AES-256 -/

/-- The product by x in AES's field. -/
def aesDouble (a : Byte) : Byte := (a <<< 1) ^^^ (if a.getLsbD 7 then 0x1B else 0)

/-- The product in AES's field. -/
def aesTimes (a b : Byte) : Byte :=
  (List.range 8).foldl (fun s i => aesDouble s ^^^ (if b.getLsbD (7 - i) then a else 0)) 0

/-- The inverse in AES's field, a^254; of 0 it is 0. -/
def aesInverse (a : Byte) : Byte :=
  (List.range 6).foldl (fun s _ => aesTimes (aesTimes s s) a) a |> fun s => aesTimes s s

/-- The S-box. -/
def aesSub (a : Byte) : Byte :=
  let s := aesInverse a
  s ^^^ s.rotateLeft 1 ^^^ s.rotateLeft 2 ^^^ s.rotateLeft 3 ^^^ s.rotateLeft 4 ^^^ 0x63

/-- The expanded key, its words of 4 B latest first, from word n on. -/
def aesExpand : Nat → Nat → Byte → List (List Byte) → List (List Byte)
  | 0, _, _, w => w
  | fuel + 1, n, rcon, w =>
    let prev := w.headD []
    let back := (w[7]?).getD []
    let t := if n % 8 = 0 then xorBytes ((prev.drop 1 ++ prev.take 1).map aesSub) [rcon, 0, 0, 0]
      else if n % 8 = 4 then prev.map aesSub else prev
    aesExpand fuel (n + 1) (if n % 8 = 0 then aesDouble rcon else rcon) (xorBytes back t :: w)

/-- The fifteen round keys of AES-256. -/
def aesKeys (key : List Byte) : List (List Byte) :=
  (pieces 4 (aesExpand 52 8 1 (pieces 4 key).reverse).reverse).map List.flatten

/-- Rows shifted: byte r + 4c comes from column c + r. -/
def aesShift (s : List Byte) : List Byte := (List.range 16).map fun i => (s[(i + 4 * (i % 4)) % 16]?).getD 0

/-- Columns mixed. -/
def aesMix (s : List Byte) : List Byte :=
  (pieces 4 s).flatMap fun column =>
    let x := fun (i : Nat) => (column[i % 4]?).getD 0
    (List.range 4).map fun i => aesDouble (x i) ^^^ (aesDouble (x (i + 1)) ^^^ x (i + 1)) ^^^ x (i + 2) ^^^ x (i + 3)

/-- A block is encrypted under round keys (FIPS 197). -/
def aesUnder (keys : List (List Byte)) (block : List Byte) : List Byte :=
  let rounds := keys.drop 1
  let s := (rounds.take 13).foldl (fun s k => xorBytes (aesMix (aesShift (s.map aesSub))) k) (xorBytes block (keys.headD []))
  xorBytes (aesShift (s.map aesSub)) ((rounds[13]?).getD [])

/-- AES-256 of a block of 16 B. -/
def aes256 (key block : List Byte) : List Byte := aesUnder (aesKeys key) block

/-! ### GCM -/

/-- The product of GHASH, a block's first bit being the most significant. -/
def ghashTimes (x y : BitVec 128) : BitVec 128 :=
  let r := (List.range 128).foldl (fun (s : BitVec 128 × BitVec 128) i =>
    (if x.getLsbD (127 - i) then s.1 ^^^ s.2 else s.1,
     (s.2 >>> 1) ^^^ (if s.2.getLsbD 0 then BitVec.ofNat 128 (0xE1 * 2 ^ 120) else 0))) (0, y)
  r.1

/-- GHASH of whole blocks. -/
def ghash (h : BitVec 128) (bs : List Byte) : BitVec 128 :=
  (pieces 16 bs).foldl (fun y x => ghashTimes (y ^^^ BitVec.ofNat 128 (beNat x)) h) 0

/-- Bytes with zeros to whole blocks of 16. -/
def toBlocks (bs : List Byte) : List Byte := bs ++ List.replicate ((16 - bs.length % 16) % 16) 0

/-- A text under the counter mode of GCM; its counter starts at 2. -/
def gcmText (keys : List (List Byte)) (iv text : List Byte) : List Byte :=
  (pieces 16 text).zipIdx.flatMap fun x => xorBytes x.1 (aesUnder keys (iv ++ toBe 4 (x.2 + 2)))

/-- The tag of a ciphertext. -/
def gcmTag (keys : List (List Byte)) (iv aad cipher : List Byte) : List Byte :=
  let h := BitVec.ofNat 128 (beNat (aesUnder keys (List.replicate 16 0)))
  let s := ghash h (toBlocks aad ++ toBlocks cipher ++ toBe 8 (8 * aad.length) ++ toBe 8 (8 * cipher.length))
  xorBytes (toBe 16 s.toNat) (aesUnder keys (iv ++ toBe 4 1))

/-- AES-256-GCM with an IV of 12 B: ciphertext and the 16 B tag (R441, R515). -/
def gcmSeal (key iv aad plain : List Byte) : List Byte :=
  let keys := aesKeys key
  let cipher := gcmText keys iv plain
  cipher ++ gcmTag keys iv aad cipher

/-- The plaintext of a ciphertext and its tag; none where the tag fails. -/
def gcmOpen (key iv aad text : List Byte) : Option (List Byte) :=
  let keys := aesKeys key
  let cipher := text.take (text.length - 16)
  if 16 ≤ text.length && gcmTag keys iv aad cipher = text.drop (text.length - 16) then some (gcmText keys iv cipher) else none

/-! ### CTR_DRBG with AES-256 and a derivation function -/

/-- The working state: key and counter block. -/
structure Drbg where
  key : List Byte
  v : List Byte
  deriving DecidableEq, Repr

/-- The state before instantiation. -/
def Drbg.zero : Drbg := ⟨List.replicate 32 0, List.replicate 16 0⟩

/-- The chained blocks of the derivation function. -/
def drbgChain (keys : List (List Byte)) (text : List Byte) : List Byte :=
  (pieces 16 text).foldl (fun c x => aesUnder keys (xorBytes c x)) (List.replicate 16 0)

/-- The derivation function, to 48 B. -/
def drbgDerive (input : List Byte) : List Byte :=
  let s := toBlocks (toBe 4 input.length ++ toBe 4 48 ++ input ++ [0x80])
  let keys := aesKeys ((List.range 32).map (BitVec.ofNat 8))
  let t := (List.range 3).flatMap fun i => drbgChain keys (toBlocks (toBe 4 i) ++ s)
  let k := aesKeys (t.take 32)
  let x1 := aesUnder k ((t.drop 32).take 16)
  let x2 := aesUnder k x1
  x1 ++ x2 ++ aesUnder k x2

/-- `n` blocks of output, and the counter block after them. -/
def Drbg.blocks (d : Drbg) (n : Nat) : List Byte × List Byte :=
  let keys := aesKeys d.key
  let v := fun (i : Nat) => toBe 16 ((beNat d.v + i) % 2 ^ 128)
  ((List.range n).flatMap fun i => aesUnder keys (v (i + 1)), v n)

/-- The state takes 48 B in. -/
def Drbg.update (d : Drbg) (data : List Byte) : Drbg :=
  let t := xorBytes (d.blocks 3).1 data
  ⟨t.take 32, t.drop 32⟩

/-- Instantiation from entropy, nonce and personalization string. -/
def Drbg.instantiate (entropy nonce pers : List Byte) : Drbg := Drbg.zero.update (drbgDerive (entropy ++ nonce ++ pers))

/-- A reseed from entropy. -/
def Drbg.reseed (d : Drbg) (entropy : List Byte) : Drbg := d.update (drbgDerive entropy)

/-- A generate request: `n` bytes, and the state after it. -/
def Drbg.generate (d : Drbg) (n : Nat) : List Byte × Drbg :=
  let r := d.blocks (ceilDiv n 16)
  (r.1.take n, Drbg.update ⟨d.key, r.2⟩ (List.replicate 48 0))

end Sys2Proof
end

