-- ==== Sys2Proof/Config.lean ====
section
/-! DEFINITION. Config: what an implementation or an outside standard fixes, and the free values. Every
constant here has no body: nothing can be proved of its value (log 9, log 10). -/

namespace Sys2Proof

/-! ### Functions of outside standards that the spec names and does not give (log 10) -/

/-- ECDSA P-384 verification: key, covered bytes, signature (R508). -/
opaque Config.ecdsaVerify : List Byte → List Byte → List Byte → Bool

/-- ML-DSA-65 verification: key, covered bytes, signature (R508). -/
opaque Config.mldsaVerify : List Byte → List Byte → List Byte → Bool

/-- Whether an owner signature (R508, slot 0xFF) verifies: owner key hash in force, covered bytes, signature. The
spec does not say where the vault takes an owner's public key from for CONFIG and ephemeris images (log 10). -/
opaque Config.ownerVerify : List Byte → List Byte → List Byte → Bool

/-- ECDSA P-384 signature under the Alias key of the running firmware (R517, R503). -/
opaque Config.aliasSign : List Byte → List Byte → List Byte

/-- The root public key of an X.509 chain whose signatures verify, as an uncompressed point; none where
the chain does not verify (R494). -/
opaque Config.chainRoot : List Byte → Option (List Byte)

/-- The DeviceID public key of the part, as an uncompressed P-384 point (R501). -/
opaque Config.deviceKey : List Byte

/-- The Alias certificate for a FIRMWARE digest and a CONFIG digest (R501). -/
opaque Config.aliasCert : List Byte → List Byte → List Byte

/-- The SVN a FIRMWARE image carries; the spec does not say where (R504). -/
opaque Config.firmSvn : List Byte → Nat

/-- Whether a FIRMWARE image carries a signature by a firmware key whose certificate chains to a maker root hash: root
hash, image; the spec does not say where the image holds them (R504). -/
opaque Config.firmVerify : List Byte → List Byte → Bool

/-- The boot ROM image's bytes (R503 measurement 1). -/
opaque Config.romImage : List Byte

/-- The endpoint's UUID (R518). -/
opaque Config.endpointUuid : List Byte

/-- What the `n`-th request is given where the CTR_DRBG has not been instantiated yet (R412; log 10). -/
opaque Config.drbg : Nat → Nat → List Byte

/-- Spare rows of the edge FIFOs (21) and the other arrays (22): the part's fuses hold them (19 R481, R488). -/
opaque Config.spareRows : Nat → Nat

/-! ### Free values -/

/-- A free number: where the spec leaves a value open (log 9). -/
opaque Config.freeNat : Nat → Nat

/-- Free bytes: contents that the spec calls undefined, by draw and offset (log 9). -/
opaque Config.freeByte : Nat → Nat → Byte

end Sys2Proof
end

