-- ==== Sys2Proof/Syntax.lean ====
section
/-! DEFINITION. Syntax: the commands of spec/opcode_table.json, one constructor per row, and the
records their operands are made of. A Brodip instruction's operands are the fields of its queue entry
(13 R323, R327); an event's operands are what the outside world or the unit reports. -/

namespace Sys2Proof

/-! ### Operand records -/

/-- The queue an instruction stands at the head of (R307). -/
structure Site where
  ctx : CtxId
  queue : BitVec 2
  deriving DecidableEq, Repr

/-- Guard and done-predicate fields common to every entry (R323, R305). -/
structure Guard where
  ginv : Bool
  gpred : BitVec 3
  dp : BitVec 3
  deriving DecidableEq, Repr

/-- Operand format R (R327). -/
structure RFields where
  g : Guard
  a : BitVec 5
  b : BitVec 5
  c : BitVec 5
  d : BitVec 5
  e : BitVec 5
  f : BitVec 5
  gg : BitVec 5
  h : BitVec 5
  i : BitVec 5
  m : BitVec 4
  deriving DecidableEq, Repr

/-- Operand format I (R327). -/
structure IFields where
  g : Guard
  a : BitVec 5
  k : BitVec 2
  b : BitVec 10
  imm : Word
  deriving DecidableEq, Repr

/-- Operand format C, of `combine` only (R327). -/
structure CFields where
  g : Guard
  e : BitVec 2
  split : Bool
  mode : BitVec 2
  g0 : BitVec 5
  ng : BitVec 5
  landing : BitVec 4
  acc : BitVec 4
  out : BitVec 4
  res : BitVec 5
  oidx : BitVec 5
  drops : BitVec 5
  dcount : BitVec 5
  rsv : BitVec 2
  deriving DecidableEq, Repr

/-- An access path (R493). -/
inductive Path where
  | host
  | mgmt
  deriving DecidableEq, Repr

/-- Who makes an access: the HOST path, or the management endpoint outside or inside one of its two
secured sessions (R493, R494). -/
inductive Requester where
  | host
  | mgmt (session : Option (BitVec 1))
  deriving DecidableEq, Repr

/-- The 32 B header of an exchange packet (R166). -/
structure PktHdr where
  kind : BitVec 4
  ttl : BitVec 4
  fmt : BitVec 3
  moon : Bool
  bytes : BitVec 17
  src : InstId
  dst : InstId
  die : BitVec 2
  part : PartId
  slot : BitVec 12
  position : BitVec 20
  expert : BitVec 11
  localIx : BitVec 11
  layer : Layer
  row : BitVec 20
  hand : BitVec 4
  group : BitVec 8
  gidx : Word
  stamp : BitVec 16
  seq : BitVec 16
  crc : Word
  rsv : BitVec 8          -- the reserved bits of words 0, 1 and 3, which must be 0
  deriving DecidableEq, Repr

/-- An exchange packet: header and payload (R166). -/
structure Packet where
  hdr : PktHdr
  payload : List Byte
  deriving DecidableEq, Repr

/-- The body of a die report or order (R445). -/
structure KBody where
  src : InstId
  part : PartId
  seq : BitVec 16
  group : BitVec 8
  deriving DecidableEq, Repr

/-- A fold packet's header (R220). -/
structure FoldHdr where
  kind : BitVec 4
  stage : BitVec 2
  dir : Bool
  piece : BitVec 2
  wire : BitVec 3
  mode : Bool
  op : Bool
  phase : Bool
  bytes : BitVec 17
  id : Word
  src : InstId
  dst : InstId
  part : PartId
  chunk : BitVec 24
  step : BitVec 10
  rev : BitVec 6
  check : BitVec 16
  count : Word
  nMinus1 : BitVec 9
  kindc : BitVec 2
  dirs : Bool
  deriving DecidableEq, Repr

/-- A fold packet: header, payload and the two trailer fields (R220, R221). -/
structure FoldPkt where
  hdr : FoldHdr
  payload : List Byte
  crc : Word
  verified : BitVec 10
  deriving DecidableEq, Repr

/-- A comet message (R244). -/
structure CometMsg where
  kind : BitVec 4
  ttl : BitVec 4
  op : BitVec 2
  int : Bool
  mode : Bool
  pass : Bool
  stage : BitVec 3
  step : BitVec 4
  rsv : BitVec 5
  rsv8 : BitVec 5              -- bits [4:0] of the word at 0x08
  len : BitVec 7
  id : Word
  src : InstId
  dst : InstId
  part : PartId
  check : BitVec 16
  crc : BitVec 16
  payload : List Byte
  deriving DecidableEq, Repr

/-- A flit as it comes to its receiver: header (R421), payload, CRC (R422), the slice and sideband of a parallel port
(R426), the group of a far port that it came in (R431, R432), and what flips in its words while it stands in the edge FIFO
(R416). -/
structure Flit where
  kind : BitVec 2
  vc : BitVec 3
  len : BitVec 7
  seq : BitVec 10
  ack : BitVec 10
  payload : List Byte      -- 248 B on a far port, 256 B on a parallel one
  crc : Word
  slice : BitVec 2         -- of a parallel port
  creditVc : BitVec 3
  credit : BitVec 16
  nak : Bool
  nakSeq : BitVec 10
  fec : List (List (BitVec 10))   -- far ports: none, or the four codewords of its group, symbols as received
  place : BitVec 4         -- which of the ten flits of its group it is
  flips : List (Nat × Nat) -- damaged words of its item in the edge FIFO, and the bits that flipped
  deriving DecidableEq, Repr

/-- A CTRL flit's payload (R434). -/
structure Ctrl where
  flags : BitVec 16
  nakSeq : BitVec 10
  credits : List (BitVec 16)
  block : Quad
  tag : List Byte
  mapActive : BitVec 10
  mapRetired : BitVec 10
  mapGroup : Word
  nonce : List Byte
  rekeyAt : Quad
  deriving DecidableEq, Repr

/-- An ActivateFirmware request: the session it comes in, and the buses that acknowledged STATUS_WORD at each entry of the
regulator map of a CONFIG that it activates (20 R506, 22 R541). -/
structure Activation where
  session : Option (BitVec 1)
  acks : List (BitVec 4)
  deriving DecidableEq, Repr

/-- What an exchange wait was for (R183). -/
inductive WaitFor where
  | claim (owner : InstId) (die : BitVec 2)
  | ready (owner : InstId) (die : BitVec 2) (group : BitVec 8)
  | fetch (row : BitVec 20) (hand : BitVec 4)
  deriving DecidableEq, Repr

/-- Average powers of a control period, in 0.25 W units, and temperatures, as the governor's
measurements give them (R464, R471). -/
structure Measure where
  hottest : BitVec 8
  deriving DecidableEq, Repr

/-- Where a rail stands: below its warning level, above it but by less than 20 mV, or higher (R451, R469). -/
inductive RailLevel where
  | below
  | near
  | good
  deriving DecidableEq, Repr

/-- A secret or statement delivered by SetKey (R511). -/
inductive KeyKind where
  | link (port : BitVec 3)
  | fleet
  | owner
  deriving DecidableEq, Repr

/-- A failing part found by a test: unit index of R476 and physical number. -/
structure BadPart where
  unit : BitVec 6
  number : BitVec 24
  deriving DecidableEq, Repr

/-- The two FIRMWARE/CONFIG component identifiers of R505 are 1 and 2. -/
abbrev CompId := BitVec 16

/-- A command or event of the dispatcher: one constructor per row of the opcode table. -/
inductive Instr where
  -- control class (R331 to R333)
  | li (p : Site) (f : IFields)
  | mov (p : Site) (f : RFields)
  | add (p : Site) (f : RFields)
  | sub (p : Site) (f : RFields)
  | mul (p : Site) (f : RFields)
  | and (p : Site) (f : RFields)
  | or (p : Site) (f : RFields)
  | xor (p : Site) (f : RFields)
  | shl (p : Site) (f : RFields)
  | shr (p : Site) (f : RFields)
  | cmp (p : Site) (f : RFields)
  | pclr (p : Site) (f : IFields)
  | br (p : Site) (f : IFields)
  | loop (p : Site) (f : IFields)
  | loopv (p : Site) (f : IFields)
  | backEdge (p : Site)
  | halt (p : Site) (f : IFields)
  | tset (p : Site) (f : IFields)
  | wait (p : Site) (f : IFields)
  | barrier (p : Site) (f : RFields)
  -- epoch class
  | epochBind (p : Site) (f : IFields)
  | epochFlip (p : Site) (f : RFields)
  | bankChecking (layer : Layer) (kind : BitVec 2)
  | flipComplete (p : Site)
  | epochHold (p : Site) (f : RFields)
  | epochHoldIssue (p : Site) (f : RFields)
  | epochRelease (p : Site) (f : RFields)
  | govPhase (p : Site) (f : RFields)
  -- gate and hand; `next` is the entry after the score or hash (R98)
  | scoreBf16 (p : Site) (f : RFields) (next : Quad)
  | scoreFp16 (p : Site) (f : RFields) (next : Quad)
  | scoreOfp8 (p : Site) (f : RFields) (next : Quad)
  | hash (p : Site) (f : RFields) (next : Quad)
  | select (p : Site) (f : RFields)
  | sample (p : Site) (f : RFields)
  -- tally, deal, collect
  | place (p : Site) (f : RFields)
  | count (p : Site) (f : RFields)
  | scan (p : Site) (f : RFields)
  | send (p : Site) (f : RFields)
  | sendPacketEmit (p : Site)
  | ringQueueDepart (ring : BitVec 3)
  | permute (p : Site) (f : RFields)
  | gather (p : Site) (f : RFields)
  | scatter (p : Site) (f : RFields)
  | combineBf16 (p : Site) (f : CFields)
  | combineFp16 (p : Site) (f : CFields)
  | combineFp32 (p : Site) (f : CFields)
  -- fold and comet instructions
  | foldStart (p : Site) (f : RFields)
  | foldWait (p : Site) (f : RFields)
  | foldSettle (p : Site) (f : RFields)
  | cometReduce (p : Site) (f : RFields)
  | cometBarrier (p : Site) (f : RFields)
  -- vector lanes
  | vld (p : Site) (f : RFields)
  | vst (p : Site) (f : RFields)
  | vbcast (p : Site) (f : RFields)
  | vadd (p : Site) (f : RFields)
  | vsub (p : Site) (f : RFields)
  | vmul (p : Site) (f : RFields)
  | vfma (p : Site) (f : RFields)
  | vmax (p : Site) (f : RFields)
  | vmin (p : Site) (f : RFields)
  | vcmp (p : Site) (f : RFields)
  | vsel (p : Site) (f : RFields)
  | vcvt (p : Site) (f : RFields)
  -- function pipes, norms, mixer
  | exp (p : Site) (f : RFields)
  | log (p : Site) (f : RFields)
  | recip (p : Site) (f : RFields)
  | rsqrt (p : Site) (f : RFields)
  | sigmoid (p : Site) (f : RFields)
  | tanh (p : Site) (f : RFields)
  | gelu (p : Site) (f : RFields)
  | silu (p : Site) (f : RFields)
  | softplus (p : Site) (f : RFields)
  | sin (p : Site) (f : RFields)
  | cos (p : Site) (f : RFields)
  | swiglu (p : Site) (f : RFields)
  | normStat (p : Site) (f : RFields)
  | normApply (p : Site) (f : RFields)
  | normMax (p : Site) (f : RFields)
  | normSum (p : Site) (f : RFields)
  | normScale (p : Site) (f : RFields)
  | mixSeed (p : Site) (f : RFields)
  | mixDraw (p : Site) (f : RFields)
  | reservedOpcode (p : Site) (word : Quad)
  -- sequencing. Half-cycles of each cause as the unit recorded them (R321)
  | commandComplete (p : Site) (qidx : Word) (bubble stack back : Word)
  | observation (part : PartId) (layer : Layer)
  | workTileBoundary (p : Site) (qidx : Word)
  | quantumExpiry (part : PartId)
  | idle64Cycles (part : PartId)
  | switchComplete (part : PartId)
  | trump (c : CtxId)
  | trumpWindowEnd (part : PartId)
  | doorbell (by' : Requester) (p : Site) (tail : Word)
  | teardownComplete (c : CtxId)
  -- context operations: written to ND_CTX_OP with their part and context fields (R365)
  | create (by' : Requester) (part : PartId) (c : CtxId)
  | kill (by' : Requester) (part : PartId) (c : CtxId)
  | exportCtx (by' : Requester) (part : PartId) (c : CtxId)
  | restore (by' : Requester) (part : PartId) (c : CtxId)
  | free (by' : Requester) (part : PartId) (c : CtxId)
  | shares (by' : Requester) (part : PartId) (c : CtxId)
  -- ephemeris operations: written to ND_EPH_CTL (R123)
  | save (by' : Requester)
  | load (by' : Requester)
  | reset (by' : Requester)
  -- vault
  | sealOut (by' : Requester) (part : PartId)
  | sealIn (by' : Requester) (part : PartId)
  | shadowPush (die : BitVec 2) (layer : Layer)
  -- registers with behaviour of their own
  | ndMemRegimeWrite (by' : Requester) (v : Word)
  | ndCntCtxWrite (by' : Requester) (v : Word)
  | snapshotComplete (path : Path)
  | ndCtxStoreWrite (by' : Requester) (v : Word)
  | ndFoldGrpWrite (by' : Requester) (which : BitVec 2) (v : Word)
  | foldEntryCheck (entry : BitVec 4)
  | ndEpochBankWrite (by' : Requester) (size : Bool) (bank : Bool) (v : Word)
  | ndEpochManWrite (by' : Requester) (bank : Bool) (v : Word)
  | ndHandCfgWrite (by' : Requester) (v : Word)
  | ndPartArithWrite (by' : Requester) (n : PartId) (v : Word)
  | ndPartCfgWrite (by' : Requester) (res : Bool) (n : PartId) (v : Word)
  | ndRegionWrite (by' : Requester) (size : Bool) (v : Word)
  | ndRecvWrite (by' : Requester) (size : Bool) (die : BitVec 2) (v : Word)
  | ndSplitWrite (by' : Requester) (n : PartId) (v : Word)
  | ndTopoWrite (by' : Requester) (v : Word)
  | ndVaultCfgWrite (by' : Requester) (v : Word)
  | ndRingWrite (by' : Requester) (tel : Bool) (v : Word)
  | ndPwrPhaseWrite (by' : Requester) (n : PartId) (v : Word)
  | registerWrite (by' : Requester) (addr : BitVec 23) (v : Word)
  | ndEvtHeadWrite (by' : Requester) (v : Word)
  | ndTelHeadWrite (by' : Requester) (v : Word)
  | ringCopy (tel : Bool)
  -- exchange
  | dealReceive (k : Packet)
  | fetchReceive (k : Packet)
  | returnReceive (k : Packet)
  | splitPartialReceive (die : BitVec 2) (k : Packet)
  | openReceive (k : Packet)
  | endReceive (k : Packet)
  | claimReceive (k : Packet)
  | grantReceive (k : Packet)
  | readyReceive (k : Packet)
  | bounceReceive (k : Packet)
  | abortReceive (k : Packet)
  | packetForward (k : Packet)
  | exchTimeout (c : CtxId) (layer : Layer) (w : WaitFor)
  | computed (die : BitVec 2) (layer : Layer) (b : KBody)
  | swapped (die : BitVec 2) (layer : Layer) (stamp : BitVec 16)
  | written (die : BitVec 2) (op : BitVec 4) (layer : Layer) (tag : BitVec 16) (stamp : BitVec 16)
  | discarded (die : BitVec 2) (layer : Layer) (b : KBody)
  | weightsReceive (layer : Layer) (expert : BitVec 11) (offset : Word) (last : Bool) (stamp : BitVec 16) (data : List Byte)
  -- folds and comets
  | fdataReceive (k : FoldPkt)
  | freadyReceive (k : FoldPkt)
  | fnakReceive (k : FoldPkt)
  | fexpReceive (k : FoldPkt)
  | fabortReceive (k : FoldPkt)
  | localBufferLoad (seat : BitVec 4)
  | foldSeqGap (p : Site)
  | foldPeerTimeout (seat : BitVec 4)
  | cdataReceive (k : CometMsg)
  | cabortReceive (k : CometMsg)
  | cometTimeout (p : Site) (id : Word)
  | cpaceReceive (k : CometMsg)
  -- links
  | flitReceive (port : BitVec 4) (k : Flit)
  | ctrlFlitReceive (port : BitVec 4) (k : Flit) (x : Ctrl)
  | nakRepeat (port : BitVec 4)
  | ctrlFlitInterval (port : BitVec 4) (sealBlock : Bool)
  | laneLost (port : BitVec 4) (lane : BitVec 4)
  | weakLane (port : BitVec 4) (lane : BitVec 4)
  | spareLaneRetire (port : BitVec 4) (lane : BitVec 4)
  | mapGroupSwitch (port : BitVec 4) (tx : Bool)
  | rekey (by' : Requester)
  | blockCounterWrap (port : BitVec 4)
  | rekeyAt (port : BitVec 4)
  | retrain (by' : Requester)
  | enable (by' : Requester) (v : Bool)
  | detectLock (port : BitVec 4) (lanes : BitVec 10)
  | trainDone (port : BitVec 4) (good : BitVec 10)
  | mapDone (port : BitVec 4) (peer : InstId) (peerPort : BitVec 3)
  | alignDone (port : BitVec 4)
  | secureDone (port : BitVec 4)
  | recoverDone (port : BitVec 4)
  | linkStateTimeout (port : BitVec 4)
  | signalLoss (port : BitVec 4)
  | downRetry (port : BitVec 4)
  | portTrainDone (port : BitVec 4) (ok : Bool)
  -- wear
  | dealStageSwap (inbound : Bool)
  | dealStageSwapDone (inbound : Bool)
  | retest (unit : BitVec 6)
  | retestDone (unit : BitVec 6) (number : BitVec 24) (pass : Bool)
  | scrubWindowEnd (margin : BitVec 8)
  | rowCopyDone (unit : BitVec 6) (row : BitVec 24)
  | scrubRow (unit : BitVec 6) (row : BitVec 24)
  | bankCopyDone (bank : BitVec 4)
  -- random bits
  | rawSample (bit : Bool)
  | restart (by' : Requester)
  -- power
  | controlPeriod (x : Measure)
  | gov (die : BitVec 2) (w0 w1 w2 : Word)
  | poutRead (memory links core : List (BitVec 16))
  | railWarning (rail : BitVec 3) (level : RailLevel)
  | railReset (rail : BitVec 3)
  | railOrderError (repeated : Bool)
  | ralertAssert (group : BitVec 2)
  | ralertDeassert (group : BitVec 2)
  | kDroop (die : BitVec 2)
  | thermalCrossing (sensor : BitVec 2) (celsius : BitVec 8)
  | requestS2 (by' : Requester)
  | requestS3 (by' : Requester)
  | requestS0 (by' : Requester)
  -- reset and bring-up
  | knownAnswerTests (pass : Bool)
  | block (by' : Requester)
  | bringupClockDone (straps : BitVec 3)
  | selftestDone (bad : List BadPart)
  -- management
  | regRead (session : Option (BitVec 1)) (addr : BitVec 23)
  | regWrite (session : Option (BitVec 1)) (addr : BitVec 23) (v : Word)
  | counterLowRead (addr : BitVec 23)
  | setKey (session : Option (BitVec 1)) (kind : KeyKind) (data : List Byte)
  | commitSvn (session : Option (BitVec 1))
  | readAudit (seq : Quad)
  | signAudit (nonce : List Byte)
  | rmaUnlock (session : Option (BitVec 1)) (statement : List Byte)
  | requestUpdate (session : Option (BitVec 1)) (components : BitVec 16)
  | passComponentTable (comp : CompId)
  | updateComponent (comp : CompId) (size : Word)
  | transferComplete (result : BitVec 8)
  | requestFirmwareData (offset : Word) (data : List Byte)
  | activateFirmware (session : Activation)
  | setEventReceiver (eid : Byte) (enable : Bool)
  | getSensorReading (sensor : BitVec 16)
  | getStateSensorReadings (sensor : BitVec 16)
  | getPdr (handle : Word)
  | setTid (tid : Byte)
  | getPldmVersion (type : BitVec 6)
  | getPldmCommands (type : BitVec 6)
  | setEndpointId (smbus : Bool) (eid : Byte)
  | getEndpointId (smbus : Bool)
  | negotiateAlgorithms (acceptable : Bool)
  | getCertificate (slot : BitVec 8) (offset length : BitVec 16)
  | challenge (nonce : List Byte)
  | getMeasurements (index : BitVec 8) (nonce : List Byte)
  | keyExchange (exchange : List Byte) (mutualAuth : Bool)
  | encapsulatedResponse (session : BitVec 1) (chain : List Byte) (digest : Bool)
  | finish (session : BitVec 1) (ok : Bool)
  | heartbeat (session : BitVec 1)
  | heartbeatMissed (session : BitVec 1)
  | keyUpdate (session : BitVec 1)
  | endSession (session : BitVec 1)
  -- events and requests without operands
  | fetch
  | doorbellApply
  | contextOpComplete
  | ephemerisOpComplete
  | vaultOpComplete
  | vaultVerdict
  | regimeChange
  | contextStoreInit
  | telemetrySample
  | pacingRound
  | quadRetire
  | chipFailedWriteoutDone
  | startupTestEnd
  | conditionedBlock
  | drbgReseed
  | drbgGenerate
  | calibration
  | coolingBlock
  | opStepDone
  | supplyHoldEnd
  | supplyStepUp
  | droopDetect
  | s1Entry
  | s1Wake
  | s2WakeDone
  | s3WakeDone
  | aonRstN
  | aonResetRelease
  | blkRstN
  | blockResetRelease
  | repairDone
  | clearDone
  | bringupTrainDone
  | verifyComplete
  | applyComplete
  | firmwareRestartDone
  | getStatus
  | cancelUpdateComponent
  | cancelUpdate
  | queryDeviceIdentifiers
  | getFirmwareParameters
  | getPdrRepositoryInfo
  | pollForPlatformEventMessage
  | getTid
  | getPldmTypes
  | getEndpointUuid
  | getMctpVersionSupport
  | getMessageTypeSupport
  | getVersion
  | getCapabilities
  | getDigests
  deriving DecidableEq, Repr

end Sys2Proof
end

