-- ==== Sys2Proof/Machine/Types.lean ====
section
/-! DEFINITION. Types: the records of the control and data planes that State is built of: contexts and
queues (12, 14), commands in flight (13 R346, 14 R364), tables and flips (03, 15), dispatches and the
ephemeris (04, 05), the exchange (06, 07), folds and comets (08, 09). -/

namespace Sys2Proof.Machine

/-! ### Records and outputs -/

/-- A record of the fault and event stream (R350). -/
structure Rec where
  code : Byte
  event : Bool
  ctx : Option CtxId
  queue : BitVec 2
  word1 : Word
  insn : Quad
  a : Word
  b : Word
  cycle : Quad
  deriving DecidableEq, Repr

/-- A fault found in a command: code and details (R350). -/
structure Flt where
  code : Byte
  a : Word
  b : Word
  deriving DecidableEq, Repr

/-- A message to a compute die (R444, R445): class, op and fields of its K header, and what follows. -/
structure KMsg where
  cls : BitVec 4
  op : BitVec 4
  die : BitVec 2
  layer : Layer
  tag : BitVec 16
  stamp : BitVec 16
  addr : BitVec 40
  body : List Byte
  deriving DecidableEq, Repr

/-- A crossing port (R20). -/
inductive Port where
  | k (n : BitVec 2)
  | o (n : BitVec 1)
  | l (n : BitVec 3)
  | here                -- delivered in this instance
  deriving DecidableEq, Repr

/-- What the block sends to the world beyond its boundary. -/
inductive Out where
  | packet (port : Port) (k : Packet)
  | die (m : KMsg)
  | weights (dst : InstId) (layer : Layer) (expert : BitVec 11) (offset : Nat) (last : Bool) (stamp : BitVec 16) (data : List Byte)
  | fold (port : Port) (k : FoldPkt)
  | comet (port : Port) (k : CometMsg)
  | read (path : Path) (v : Word)
  | done (path : Path)
  | mgmt (code : Byte) (body : List Byte)
  | fetchMore (offset : Word) (len : Word)
  | platformEvent (body : List Byte)
  | vout (mv : Word)
  | stretch (die : BitVec 2)
  | thermTrip
  | copy (tel : Bool) (index : Word) (body : List Byte)
  deriving DecidableEq, Repr

/-- What waits at a port to be sent: a packet or message with the bytes of its stream not yet in flits (17 R423, R424). -/
structure Parcel where
  ctx : Option CtxId         -- whom its bytes are charged to
  vc : BitVec 3
  size : Nat                 -- bytes charged when it has left
  left : List Byte
  far : Bool                 -- it stands in the port's far queue (06 R173)
  hurt : List (Nat × Nat)    -- damaged words of it in the far queue, and the bits that flipped (02 R54; log 58)
  out : Out
  deriving DecidableEq, Repr

/-- A CTRL flit's payload as its bytes give it (17 R434). -/
def ctrlOfBytes (bs : List Byte) : Ctrl :=
  let n := fun (at' len : Nat) => leNat ((bs.drop at').take len)
  { flags := BitVec.ofNat 16 (n 0 2), nakSeq := BitVec.ofNat 10 (n 2 2),
    credits := (List.range 8).map fun v => BitVec.ofNat 16 (n (4 + 2 * v) 2), block := BitVec.ofNat 64 (n 0x14 8),
    tag := (bs.drop 0x1C).take 16, mapActive := BitVec.ofNat 10 (n 0x2C 4), mapRetired := BitVec.ofNat 10 (n 0x2C 4 / 2 ^ 10),
    mapGroup := BitVec.ofNat 32 (n 0x30 4), nonce := (bs.drop 0x34).take 32, rekeyAt := BitVec.ofNat 64 (n 0x54 8) }

/-! ### Contexts -/

/-- Whether a context exists, was written out, or was torn down; IDLE, RUNNABLE and RUNNING of R358 are
computed for a live one. -/
inductive Life where
  | free
  | live
  | exported
  | dead
  deriving DecidableEq, Repr

/-- One level of a loop stack (R363). -/
structure LoopLv where
  start : Word
  body : BitVec 16
  test : BitVec 2
  pred : BitVec 3
  trips : Word
  cap : Word                 -- ledger cycles that remain
  cap0 : Word                -- the cap as declared
  deriving DecidableEq, Repr

/-- Where a byte address lies: a scratchpad bank set's flat bytes, the stack window, a die. -/
inductive Space where
  | scratch
  | stack
  | die (n : BitVec 2)
  deriving DecidableEq, Repr

/-- A byte range that a command reads or writes; in scratchpad, byte offsets of a bank set. -/
structure Range where
  sp : Space
  banks : BitVec 16
  touch : BitVec 16            -- the banks of the set whose bytes are met (R156)
  lo : Nat
  len : Nat
  bytes : Nat                  -- bytes moved, gaps between rows left out
  deriving DecidableEq, Repr

/-- What a queue's head waits for outside its context (R318, R560). -/
inductive OutWait where
  | doorbell (need : Nat)                    -- entries that must be published from the head on
  | ready (layer : Layer) (seq : Word) (g0 ng : Nat)
  | held (layer : Layer)
  | verdict (layer : Layer)
  | fold (id : Word) (count : Option Nat)    -- chunks to be released, or all to be settled
  | foldTurn (id : Word)                     -- a start behind its group's earlier starts
  | cometTurn (id : Word)
  | comet (queue : BitVec 2)                 -- a `comet.barrier` of its queue
  | foldHeld (entry : BitVec 4) (areas : List Range)   -- areas that an earlier collective of a start's group holds
  | areas (reads writes : List Range)        -- bytes that a fold or comet collective still holds
  deriving DecidableEq, Repr

/-- A command queue of a context (R307, R301, R306). -/
structure Queue where
  base : BitVec 40
  size : BitVec 5
  pc : Word                  -- the next entry to issue
  tail : Word
  halted : Bool
  dead : Bool
  tag : Byte
  sregs : Bank 5 Word
  loops : List LoopLv        -- innermost first
  runLedger : Nat            -- ledger of the present run of control and vec instructions (R306)
  runVec : Bool              -- whether it holds a vec-class instruction
  runNo : Nat
  vregs : Tab (List Word)    -- v registers the run has written
  waiting : Bool             -- its head instruction waits to issue (R322)
  outside : Option OutWait   -- what it waits for outside the context (R560)
  pairOpen : Bool            -- a score or hash issued; its select comes next (R98)
  barrier : Option (BitVec 4)
  holdDue : Option Layer     -- an `epoch.hold` that is ready and has not issued (R338)
  nextAt : Nat               -- first cycle in which its next entry may issue (R311)
  busyTo : Nat               -- cycle by which its instructions without a flight have completed (R309, R312)
  heldAt : Option Nat        -- the cycle in which its head was last found to wait
  pubs : List (Word × Nat)   -- tails published and the cycles they were applied in (R375)
  deriving DecidableEq, Repr

/-- A context (R359, R363). -/
structure Ctx where
  life : Life
  part : PartId
  lanesSaved : BitVec 7
  shares : BitVec 16
  frame : BitVec 28
  pass : Quad
  since : Quad
  queues : Bank 2 Queue
  preds : Byte
  dones : List (Nat × BitVec 3)    -- done predicates of instructions without a flight, by the cycle that sets them
  doneAt : Nat                     -- the last cycle that set done predicates, and which it set (R304)
  doneSet : Byte
  wroteAt : Nat                    -- the last cycle in which instructions wrote predicates or e registers, and
  wrote : List (Nat × BitVec 2)    -- which, from which queue (R304)
  tregs : Bank 4 (BitVec 512)
  eregs : Bank 2 Layer
  holds : BitVec 256
  key : BitVec 128
  keySource : BitVec 8
  seeds : Word
  counters : Tab Quad
  collectives : List Word    -- folds it started and has not settled (R232)
  away : List Word           -- those of them that it started on another instance (R232)
  deriving DecidableEq, Repr

/-- A partition's run slot (R370 to R376). -/
structure Slot where
  running : Option CtxId
  charged : Nat              -- ledger cycles since the running context entered
  incoming : Option CtxId
  outgoing : Option CtxId
  switchFrom : Nat           -- cycle of the switch point, or of the outgoing context's last tile end
  switchQ : Nat              -- queues of the incoming context with unissued entries at the switch point
  switchD : Bool
  byTrump : Bool
  trumpFirst : Option Nat    -- until which cycle the slot claims first (R373)
  lastTrump : Option Nat
  pass : Quad
  idleFrom : Nat             -- since when nothing was issuable or in flight (R371)
  deriving DecidableEq, Repr

/-- A doorbell (R308). -/
structure Bell where
  path : Path
  ctx : CtxId
  queue : BitVec 2
  tail : Word
  at' : Nat                  -- cycle of its arrival (R16)
  deriving DecidableEq, Repr

/-! ### Operands of commands in flight -/

/-- A tensor descriptor's fields (R277). -/
structure Desc where
  base : Nat
  space : Byte
  format : Byte
  rank : Byte
  clamp : Byte
  banks : BitVec 16
  ereg : Byte
  access : Byte
  n0 : Nat
  n1 : Nat
  n2 : Nat
  n3 : Nat
  s1 : Int
  s2 : Int
  s3 : Int
  fill : Word
  rsv : Word
  deriving DecidableEq, Repr

/-- A table binding (R69). -/
structure Binding where
  layer : Layer
  kind : BitVec 2
  bank : Bool
  epoch : BitVec 16
  deriving DecidableEq, Repr

/-- Units that a command can hold (R346). -/
inductive Unit' where
  | gate
  | hand
  | tally
  | outbound
  | inbound
  | collect
  | pipes
  | lanes                      -- of the command's own partition
  | mixer
  deriving DecidableEq, Repr

/-- A deal-list entry (R133). -/
structure Deal where
  hand : BitVec 4
  row : BitVec 20
  slot : BitVec 12
  position : BitVec 20
  deriving DecidableEq, Repr

/-- A candidate of a token: expert, selection key, z and gate value (R97). -/
structure Cand where
  expert : BitVec 11
  key : Word
  z : Word
  p : Word
  deriving DecidableEq, Repr

/-- A token as the hand unit serves it (R101, R102). -/
structure Token where
  row : BitVec 20
  gidx : Word
  stamp : BitVec 16
  transform : Nat              -- of the table that scored it (R64)
  cands : List Cand
  deriving DecidableEq, Repr

/-- An outcome of one hand position (R103, R108). -/
structure Choice where
  j : BitVec 4
  outcome : BitVec 4          -- 0 accepted, 1 spilled, 2 mooned, 3 dropped
  rank : BitVec 5
  expert : BitVec 11
  slot : BitVec 12
  position : BitVec 20
  weight : Word
  deriving DecidableEq, Repr

/-- A served token with its choices in position order. -/
structure Served where
  row : BitVec 20
  gidx : Word
  stamp : BitVec 16
  choices : List Choice
  deriving DecidableEq, Repr

/-- A RETURN row that a combine, gather or other command awaits (R191, R299). -/
structure Await where
  hdr : PktHdr                -- of its FETCH
  bytes : Nat                 -- payload that its RETURN must have
  sent : Option Nat           -- cycle in which its FETCH was sent
  landed : Option (List Byte)
  deriving DecidableEq, Repr

/-- A combine in progress (R188 to R195). -/
structure Combine where
  layer : Layer
  seq : Word
  r0 : Nat
  rows : Nat
  k : Nat
  d : Nat
  fmt : BitVec 3
  pr : Nat
  add : Bool
  landing : Desc
  acc : Desc
  out : Desc
  res : Option Desc
  resBind : Option Binding    -- the OWNER epoch that an OWNED residual bound at issue (R298)
  oidx : Option Desc
  drops : Option Desc
  dcount : BitVec 5
  nextRow : Nat               -- rows summed so far
  nextFetch : Nat             -- entries walked so far
  sums : List (Nat × List Word)   -- rows of the tile, summed and not yet written
  dropRows : List Nat
  awaits : List Await
  deriving DecidableEq, Repr

/-- A send in progress (R150). -/
structure Sending where
  layer : Layer
  seq : Word
  group : Nat
  opens : List InstId         -- members whose OPEN waits for room in its ring queue
  todo : List Nat             -- deal-list entry numbers not yet read
  tokens : Desc
  list : Desc
  r0 : Nat
  rows : Nat
  layout : BitVec 3
  deriving DecidableEq, Repr

/-- A `select` in progress: the rows it decided at issue and yields at completion (R101 to R108). -/
structure Selecting where
  layer : Layer
  seq : Word
  last : Bool
  pipes : Bool                -- its weights take exponentials from the function pipes (R105, 10 R258)
  served : List Served
  deriving DecidableEq, Repr

/-- A `place` in progress (R132). -/
structure Placing where
  layer : Layer
  seq : Word
  last : Bool
  r0 : Nat
  rows : Nat
  ag : Nat
  deriving DecidableEq, Repr

/-- A `score` or `hash` in progress: the tokens it hands to its `select` (R63, R85). -/
structure Scoring where
  layer : Layer
  hash : Bool
  e : Nat
  transform : Nat
  tokens : List Token
  values : List (List Word)   -- p of every expert, by row
  nans : Nat
  binding : Binding
  deriving DecidableEq, Repr

/-- The part of a command's work that goes beyond writes decided at issue. -/
inductive Job where
  | plain
  | score (x : Scoring)
  | select (x : Selecting)
  | place (x : Placing)
  | send (x : Sending)
  | combine (x : Combine)
  | remote (src dst : Desc) (awaits : List Await)     -- remote rows of a gather
  | vload (reg : BitVec 4) (run : Nat) (row col : Nat) (t : Desc) (awaits : List Await)
  | flip (layer : Layer) (kinds : BitVec 3)
  | settle (id : Word)
  deriving DecidableEq, Repr

/-- One effect of a command at its completion, in order (log 6). -/
inductive Fx where
  | write (sp : Space) (addr : Nat) (bytes : List Byte)
  | sreg (r : BitVec 5) (v : Word)
  | treg (r : BitVec 4) (v : BitVec 512)
  | vreg (r : BitVec 4) (run : Nat) (v : List Word)
  | count (ctr n : Nat)
  | clampEvent (row : Nat)
  | key (k : BitVec 128) (fresh : Bool)
  | read (unit word len : Nat) -- words of a protected array are read (R54, R55; log 58)
  | far (row : Nat)            -- the next remote row, written to this row of the destination (R293, R299)
  | fault (f : Flt)
  deriving DecidableEq, Repr

/-- A command in flight or suspended (R364, R321). -/
structure Flight where
  ctx : CtxId
  queue : BitVec 2
  qidx : Word
  word : Quad
  issued : Nat
  ledger : Nat
  suspended : Option Nat
  suspTotal : Nat
  tiles : Nat
  stretch : Nat
  bubbled : Nat                -- cycles in which a bubble took its M0 request slot (01 R15; 18 R465)
  units : List Unit'
  binds : List Binding
  arith : BitVec 5
  tag : Word
  dp : BitVec 3
  pend : List Nat
  bankRd : BitVec 16
  bankWr : BitVec 16
  reads : List Range
  writes : List Range
  fx : List Fx
  job : Job
  energy : Nat
  tile : List Nat              -- ledger cycles of its work tiles in turn, at most 2,048 each (R21, R346)
  stale : Bool                 -- restored with an epoch that is gone here (R76)
  moved : Option Nat           -- restored from another target: the lanes it ran on, until it resumes (R369)
  before : Nat                 -- ledger cycles, and tiles, that were done when it was restored (R369)
  tiles0 : Nat
  deriving DecidableEq, Repr

/-! ### Tables, flips and refresh -/

/-- A publisher key record (R507). -/
structure PubKey where
  alg : Byte
  revoked : Bool
  key : List Byte
  deriving DecidableEq, Repr

/-- The states of a table bank (R68). -/
inductive BankSt where
  | free
  | filling
  | checking
  | active
  | draining
  deriving DecidableEq, Repr

/-- One bank of a table: state, references, written extent, stamp of its accepted manifest. -/
structure TBank where
  st : BankSt
  refs : BitVec 20
  extent : Nat
  stamp : BitVec 16
  homes : List (Nat × Nat)     -- home copies its manifest names: window address and length (R386)
  deriving DecidableEq, Repr

/-- The two banks and epoch of a (layer, kind) (R67, R68). -/
structure Table where
  epoch : BitVec 16
  active : Bool
  bank0 : TBank
  bank1 : TBank
  deriving DecidableEq, Repr

/-- A flip that became ready: banks still due a result, refusal reasons met (R72). -/
structure Flip where
  ctx : CtxId
  queue : BitVec 2
  layer : Layer
  kinds : BitVec 3
  toCheck : List (BitVec 2)     -- kinds still FILLING
  due : List (BitVec 2)         -- kinds awaiting a verdict
  accepted : List (BitVec 2)
  reasons : List Nat
  issued : Bool
  word : Quad
  since : Nat                   -- cycle in which it became ready
  behind : Bool                 -- it follows a flip that became ready in the same cycle (R74)
  deriving DecidableEq, Repr

/-- A bank in the vault's verdict queue (R387). -/
structure Verdict where
  layer : Layer
  kind : BitVec 2
  bank : Bool
  rank : Nat                    -- its place in the order in which flips became ready (R387)
  from' : Nat                   -- cycle in which the vault took it up
  unsigned : Bool               -- UNSIGNED mode as the bank entered CHECKING (R510)
  keys : List (Option PubKey)   -- publisher keys as it entered (R506)
  deriving DecidableEq, Repr

/-- A shadow expert bank push of a verdict to a die (R387, R388). -/
structure Push where
  die : BitVec 2
  layer : Layer
  expert : BitVec 11
  local' : BitVec 11
  addr : Nat
  len : Nat
  stamp : BitVec 16
  epoch : BitVec 16            -- the epoch in which the bank it goes to is the active one
  active : Bool                -- to the active bank (R396), else to the shadow
  sent : Bool
  written : Bool               -- its WRITTEN has come (R446)
  dead : Bool                  -- its flip was refused or ended after it was sent
  deriving DecidableEq, Repr

/-- A swap that waits for the pushes of its bank to be written (R388, R446). -/
structure Swap where
  die : BitVec 2
  layer : Layer
  stamp : BitVec 16
  epoch : BitVec 16
  deriving DecidableEq, Repr

/-- A moon's image on its way to a berth of a die, and whether a flip has outdated it (R113, R398). -/
structure BerthImg where
  die : BitVec 2
  layer : Layer
  berth : BitVec 8
  expert : BitVec 11
  old : Bool
  deriving DecidableEq, Repr

/-! ### Dispatches and the ephemeris -/

/-- A moon of a slot view (R109, R165). -/
structure Moon where
  expert : BitVec 11
  die : BitVec 2
  berth : BitVec 8
  staged : Bool
  failed : Bool                -- staging failed: choices go to the primary (R114)
  stale : Bool                 -- a flip outdated it: choices go to the primary until it is restaged (R398)
  stamp : BitVec 16
  deriving DecidableEq, Repr

/-- A primary slot's entry of the SLOT table (R163). -/
structure SlotEnt where
  expert : BitVec 11
  owner : InstId
  die : BitVec 2
  local' : BitVec 11
  deriving DecidableEq, Repr

/-- A group of a dispatch (R131, R166, R178). -/
structure Group where
  r0 : Nat
  rows : Nat
  ag : Nat
  last : Bool
  sent : Tab Nat               -- DEALs emitted per owner and die
  ended : Bool                   -- its ENDs stand in the ring queues
  ready : List (InstId × BitVec 2 × Option Nat)   -- READYs due, and the cycle in which their END left
  deriving DecidableEq, Repr

/-- A dispatch at its source (R86, R87). -/
structure Dispatch where
  ctx : CtxId
  part : PartId
  layer : Layer
  seq : Word
  isOpen : Bool
  k : Nat
  td : Nat
  cap : Nat
  openIx : Nat                   -- its number among the dispatches of the partition and layer that opened
  openAt : Nat                   -- cycle in which it opened
  policy : Word
  shaded : BitVec 3
  fixed : Bool
  map : Desc
  candBuf : Option Desc
  experts : Nat
  binding : Binding
  refHeld : Bool                 -- it holds its own reference on the bound bank (R87)
  primary : List SlotEnt
  members : List InstId
  moons : List Moon
  counts : Tab Nat
  demand : Tab Nat
  tokens : Nat
  lastGidx : Option Word
  queued : List Token            -- SCORE order: tokens awaiting the second pass
  served : List Served           -- rows served, in row order
  ledgerHeld : Bool
  tallyHeld : Bool
  h : Tab Nat
  base : Tab Nat
  pendRows : List Served         -- rows of selects completed since the last place
  groupRow : Nat                 -- first row of the next group
  selectsLeft : Nat              -- selects in flight
  groups : List Group
  lastPlaced : Bool
  placing : Bool
  placeDone : Bool               -- a place completed since the previous send
  sendFmt : Option Byte
  sendBytes : Nat
  credits : Tab Nat              -- units held, per owner and die
  claims : List (Nat × Nat)      -- owner and die of an outstanding CLAIM, and its cycle
  diverted : List (BitVec 20 × BitVec 4)   -- rows and hands whose moon's DEAL went to the primary
  aborted : Bool
  cold : Bool
  deriving DecidableEq, Repr

/-- An observation in progress (R118, R122): what the closed dispatch hands over. -/
structure Obs where
  policy : Word
  t : Nat
  k : Nat
  openIx : Nat                   -- its dispatch's number among those opened
  demand : Tab Nat
  received : Tab Nat             -- choices received for owned primary slots, by expert
  primary : List SlotEnt
  deriving DecidableEq, Repr

/-- The ephemeris of a (partition, layer) (R117 to R123). -/
structure Eph where
  seq : Word
  steps : BitVec 2
  warm : Bool
  frozen : Bool
  md : Tab Nat
  vd : Tab Nat
  mr : Tab Nat
  vr : Tab Nat
  received : Tab Nat             -- by expert, for owned primary slots
  lastQ : Nat
  lastTk : Nat
  experts : Nat
  sizes : Tab Nat                -- receive sizes by expert
  plan : List Moon
  below : List (BitVec 11)       -- experts whose want was below their moons at the last observation
  views : List (Nat × List Moon)   -- plans that take effect from a sequence number on
  observing : List Obs           -- observations in progress, oldest first (R117, R122)
  prefetch : List (BitVec 11)
  opens : Nat                    -- dispatches opened since the views were numbered
  deriving DecidableEq, Repr

/-! ### The exchange -/

/-- A packet waiting in an egress queue, with the context it is charged to. -/
structure Egress where
  ctx : Option CtxId
  k : Packet
  place : Nat                  -- its first word in its ring queue's part of the deal egress buffer (unit 20; log 58)
  deriving DecidableEq, Repr

/-- A dispatch of a source as an owner knows it (R176 to R182). -/
structure InDisp where
  src : InstId
  part : PartId
  layer : Layer
  seq : BitVec 16
  fmt : BitVec 4                 -- element format its OPEN carried
  opened : Bool
  granted : Tab Nat              -- units it holds per die
  used : Tab Nat                 -- units that DEALs used per die and group: die × 256 + group
  owed : Tab Nat                 -- units of its want not yet granted, per die
  work : List (BitVec 2 × BitVec 8 × BitVec 11)   -- experts with a DEAL of a group not yet computed
  lastEnd : List (BitVec 2)      -- dies whose last-group END has come
  discarded : Bool
  deriving DecidableEq, Repr

/-- A CLAIM waiting at an owner (R177). -/
structure ClaimQ where
  src : InstId
  part : PartId
  layer : Layer
  seq : BitVec 16
  die : BitVec 2
  units : Nat
  deriving DecidableEq, Repr

/-- A FETCH of a split expert in service at the owner (R197). -/
structure SplitJob where
  req : Packet
  dies : List (BitVec 2)
  got : List (BitVec 2 × Packet)
  deriving DecidableEq, Repr

/-! ### Folds and comets -/

/-- Group table entry state beyond its registers (R202, R246). -/
structure FGroup where
  nextSeq : BitVec 20
  cometSeq : BitVec 20
  members : List InstId
  checking : Option (Word × Nat)    -- a valid-setting write under check: value, cycle
  spent : List (Bool × BitVec 20)   -- IDs consumed by an abort: comet flag and sequence number
  deriving DecidableEq, Repr

/-- The states of a seat (R208). -/
inductive SeatSt where
  | free
  | bound
  | running
  | gathered
  | settled
  | faulted
  deriving DecidableEq, Repr

/-- A piece of a chunk as received: its number, first element and elements in the chunk, verified with this
member's own check, its revision, whether its CRC checked, whether it is settled, and who consumed it while it was not
(R221, R223, R226, R227, R234). -/
structure Piece where
  no : Nat
  first : Nat
  len : Nat
  verified : Nat
  rev : Nat
  ok : Bool
  settled : Bool
  consumed : BitVec 4
  deriving DecidableEq, Repr

/-- One chunk's progress in a seat (R217 to R228), by ring stage, phase and chunk index. In the reduce phase
its data are the partials this member emits, as FP32 words or grid values; in the gather phase the words of
the wire format (R236). -/
structure Chunk where
  stage : BitVec 2
  phase : Bool                       -- 0 reduce, 1 gather
  index : BitVec 24
  step : Nat                         -- step of the data received; 0 where the chunk starts here
  pieces : List Piece
  out : Nat                          -- elements emitted
  data : List Word
  final : Bool                       -- a result chunk of the collective
  written : Bool
  settled : Bool                     -- every piece is
  deriving DecidableEq, Repr

/-- A local buffer of a seat: a chunk of src as FP32 words, in cut-up a part of one, of its own step-1 data or to fold with
what arrives (R219, R233). -/
structure LocalBuf where
  own : Bool
  slot : Nat                         -- 0 or 1
  stage : BitVec 2
  index : BitVec 24
  first : Nat                        -- its first element in the chunk
  data : List Word
  deriving DecidableEq, Repr

/-- A seat of the fold units (R207, R208, R219, R226, R233). -/
structure Seat where
  entry : Option (BitVec 4)
  st : SeatSt
  dir : Bool
  id : Word
  ctx : CtxId
  part : PartId
  kind : BitVec 2
  op : Bool
  eager : Bool
  ordered : Bool
  n : Nat
  src : Desc
  dst : Desc
  stage : Option Desc
  credit : Tab Nat                   -- chunks the successor granted, by ring: 0 FLAT, 1 package, 2 rail
  pieceOut : Tab Nat                 -- the successor's piece size by ring, in units of 4,096 elements
  loads : Nat                        -- times that own step-1 data were loaded into a local buffer
  bufs : List LocalBuf
  chunks : List Chunk
  sent : Tab Nat                     -- own step-1 chunks sent, by stage
  expSent : Tab Nat                  -- own step-1 exponent passes sent, by stage
  sums : Tab Word                    -- results of the package stage, by element
  results : Tab Word                 -- results of the rail stage, by element
  exp1 : Tab Nat                     -- exponents the package stage agreed, by block of 32 elements
  exps : Tab Nat                     -- exponents all members agreed (R222)
  readers : List CtxId
  good : Nat                         -- good fold memory in KiB
  retired : Bool
  bound : Nat                        -- cycle in which its start issued
  since : Nat                        -- cycle of the last awaited packet
  arith : BitVec 5                   -- ND_PART_ARITH as its start bound it (02 R46)
  deriving DecidableEq, Repr

/-- A comet collective in flight (R247 to R251). -/
structure Comet where
  id : Word
  ctx : CtxId
  queue : BitVec 2
  part : PartId
  entry : BitVec 4
  barrier : Bool
  op : BitVec 2
  int : Bool
  ordered : Bool
  len : Nat
  src : List Byte
  dst : Desc
  pass : Bool                        -- exponent pass running
  grid : List Nat
  values : Tab (List Byte)           -- package stage values by list index
  acc : Option (List Byte)           -- rail value
  stage : BitVec 3                   -- rail stage reached
  step : BitVec 4
  rail : List (BitVec 3 × BitVec 4 × List Byte) -- rail values received and not yet used: stage, step
  later : List CometMsg              -- messages of the value pass that came during the exponent pass (09 R248)
  since : Nat
  deriving DecidableEq, Repr

end Sys2Proof.Machine
end

