-- ==== Sys2Proof/Machine/Manage.lean ====
section
/-! DEFINITION. Manage: the records of links and edges (17), wear (19), the governor (18), the noise source
and DRBG (16), and the vault and management endpoint (20) that State is built of. -/

namespace Sys2Proof.Machine

/-! ### Links and edges -/

/-- The states of a port (R436). -/
inductive LinkSt where
  | down
  | detect
  | train
  | map
  | align
  | secure
  | up
  | recover
  deriving DecidableEq, Repr

/-- The session of a far link (R440, R443). -/
structure Session' where
  key : List Byte              -- the link key that opened it
  local' : List Byte           -- own nonce
  peer : List Byte             -- peer nonce
  txKey : List Byte
  rxKey : List Byte
  txSalt : List Byte
  rxSalt : List Byte
  txBlock : Quad
  rxBlock : Quad
  confirmed : Bool             -- own confirmation of the peer
  confirmFails : BitVec 2
  newLocal : List Byte         -- nonces of a rekey in progress
  newPeer : List Byte
  rekeyAt : Option Quad        -- own switch block
  nextTx : List Byte           -- keys waiting for the switch
  nextSalt : List Byte
  peerRekeyAt : Option Quad
  nextRx : List Byte
  nextRxSalt : List Byte
  deriving DecidableEq, Repr

/-- One direction's lane map (R438), and its count of groups (R432; log 26). -/
structure Lanes where
  active : BitVec 10
  spare : BitVec 10
  retired : BitVec 10
  next : List (BitVec 10 × BitVec 10 × Word)   -- recorded MAPs, in order: active, retired, map_group
  base : Nat                   -- groups since the port reached UP, as of `at'`
  at' : Nat                    -- cycle from which groups are counted at the present width
  deriving DecidableEq, Repr

/-- A sequenced flit as sent: header and payload with its fill (R421, R422, R425). -/
structure Sent where
  seq : BitVec 10
  hdr : Word
  payload : List Byte
  owner : Option CtxId         -- the context whose packet it carries
  hurt : List (Nat × Nat)      -- damaged words of it in the replay buffer, and the bits that flipped (log 58)
  deriving DecidableEq, Repr

/-- A flit as it is put on the wires: header, payload and CRC (R422), and of a parallel port the slice and the sideband
(R426). -/
structure Wire where
  slice : BitVec 2
  hdr : Word
  payload : List Byte
  crc : Word
  creditVc : BitVec 3
  credit : BitVec 16
  nak : Bool
  nakSeq : BitVec 10
  deriving DecidableEq, Repr

/-- A port: L0 to L5 are 0 to 5, O0 and O1 are 6 and 7, K0 to K2 are 8 to 10 (R449). -/
structure Link where
  st : LinkSt
  reason : BitVec 4
  enable : Bool
  since : Nat                  -- cycle in which the state was entered
  peer : Option (InstId × BitVec 3)
  rx : Lanes
  tx : Lanes
  sendSeq : BitVec 10
  replay : List Sent           -- flits that no ack covers yet, oldest first
  expect : BitVec 10
  acked : BitVec 10            -- seq of the last flit we acknowledge
  owed : Bool                  -- a NAK is owed
  nakSince : Nat
  naks : Nat                   -- NAKs for the expected seq without progress
  withhold : Bool              -- NAKs withheld after a lost lane
  auth : List Flit             -- flits waiting for their block's tag (R435)
  tagFailed : Option Quad      -- a block whose tag failed once (R442)
  credits : Bank 3 (BitVec 16) -- cumulative credit received per VC
  rxWords : Bank 3 Nat         -- stream words received and freed per VC; messages for COMET
  returned : Bank 3 Nat        -- as much of rxWords as credit has been returned for
  wait : List Parcel           -- what waits to be sent, oldest first
  sent : Bank 3 Nat            -- stream words sent per VC; messages for COMET
  quota : Bank 3 Nat           -- bytes a VC may still send in its turn (06 R170)
  turn : BitVec 3              -- the VC whose turn it is
  tails : Bank 3 (List Byte)   -- bytes of each VC's stream of which no whole message has come: COMET, and a die port's VCs
  line : List Wire             -- flits put on the wires, oldest first
  creditTurn : BitVec 3        -- the VC whose credit went out last (R426)
  lastCtrl : Nat
  openBlock : List Sent        -- DATA flits of the block being sent, plain
  session : Session'
  corrected : Word
  uncorrectable : Word
  crcFails : Word
  replays : Word
  tagFails : Word
  recovers : Word
  deriving DecidableEq, Repr

/-- An edge FIFO: its status and, of a link edge, its committed items and the word read last (R415 to R419). -/
structure EdgeSt where
  lost : BitVec 16
  rewinds : BitVec 8
  faultLost : Bool
  underrun : Bool
  items : List (List Word)
  last : Word
  deriving DecidableEq, Repr

/-! ### Wear -/

/-- Status of a unit index (R488). -/
structure Wear where
  used : Nat                   -- spares in use or retired
  retired : Nat                -- capacity units retired
  window : Nat                 -- corrections and passed retests of this scrub window
  rate : Word
  errRows : List Nat           -- rows with a correctable error in this window
  prevRows : List Nat          -- in the previous window
  rowsOut : List Nat           -- rows replaced
  copies : List (Nat × Nat)    -- row copies that run: row, end cycle
  retest : Option (Nat × Nat)  -- a retest that runs: physical part, end cycle
  due : List Nat               -- parts that wait for a retest
  failing : List Nat           -- parts whose residue or parity check fails (log 8)
  deriving DecidableEq, Repr

/-- Deal network stages of one direction (R145, R148, R149). -/
structure Stages where
  retired : BitVec 19
  failed : Bool
  swapEnd : Option Nat         -- a swap that runs
  waiting : Option Nat         -- a failed stage that waits for the direction to be idle
  deriving DecidableEq, Repr

/-- Wear of the instance (19). -/
structure Health where
  units : Tab Wear
  outStages : Stages
  inStages : Stages
  bank16 : Option Nat          -- logical bank that bank 16 replaces
  bankCopy : Option (Nat × Nat)  -- bank being copied to 16 and the end cycle
  banksOut : BitVec 16         -- logical banks retired
  lanesBuilt : Nat             -- vector lanes of the variant
  lanesActive : Nat
  laneSubs : Tab Nat           -- by lane, the spare that serves in its place
  laneSpares : List Nat        -- in number order
  lanesOut : List Nat
  quadDue : List Nat           -- failed lanes whose quad's retirement waits for lane-bound commands
  cause : Byte
  chipFailed : Bool
  failedAt : Quad              -- cycle of the declaration
  writeout : Bool              -- frames and index still to write (R489)
  torn : List CtxId            -- contexts torn down by the failing unit
  boostOff : Bool
  repairFull : Bool
  recordDue : List Word        -- entries not yet in the vault's repair record (R487)
  repairs : Nat                -- of this bring-up (R528)
  bad : List BadPart           -- found by SELFTEST, for REPAIR
  windowAt : Nat               -- cycle in which the present scrub window began (R478)
  scrubbed : List (Nat × Nat)  -- units and rows scrubbed in it
  deriving DecidableEq, Repr

/-! ### The governor -/

/-- Sleep states (R458). -/
inductive Sleep where
  | s0
  | s1
  | s2
  | s3
  deriving DecidableEq, Repr

/-- A domain triple: COMPUTE, MEMORY, LINKS. -/
structure Dom where
  compute : Nat
  memory : Nat
  links : Nat
  deriving DecidableEq, Repr

/-- A pacing message's payload (R461). -/
structure Pace where
  round : Word
  gen : BitVec 16
  need : BitVec 16
  floor : BitVec 16
  share : BitVec 16
  flags : Byte
  deriving DecidableEq, Repr

/-- A die's last GOV report (R467). -/
structure DieRep where
  power : Nat
  temp : Byte
  op : BitVec 3
  droop : BitVec 16
  deriving DecidableEq, Repr

/-- The supply warning rule, or an alert's release, in progress (R469, R470). -/
inductive Hold where
  | none
  | hold (rail : Nat) (from' : Quad) (above : Option Quad)
  | ramp (rail : Nat) (last : Quad)
  deriving DecidableEq, Repr

/-- The governor's state (18). Kept across a block reset (R523). -/
structure Gov where
  op : BitVec 3
  dieOp : Bank 2 (BitVec 3)
  opNext : Option (BitVec 3)   -- an upward step that waits for its PLL
  opSince : Quad               -- AONCLK count at which its VOUT_COMMAND was sent (R454)
  bubbles : Dom
  power : Dom
  shares : Dom
  est : Tab Dom                -- learned estimates by phase
  calm : Nat                   -- consecutive periods with low COMPUTE power (R466)
  period : Quad
  round : Word
  roundFrom : Quad             -- AONCLK count at the round's start
  paces : Tab Pace             -- the latest message up to this round, by ring position, the own one included
  heldPaces : Tab Pace         -- messages of later rounds
  heard : Tab Word             -- the latest round of which a CPACE came, by ring position
  sharesAll : Tab Nat          -- the last share of each ring position
  budget : Nat                 -- budget in force until all gens agree
  share : Nat                  -- pacing share
  blocks : List Nat            -- averages of the last 39 blocks of 100 ms
  blockSum : Nat
  blockCount : Nat
  binding : BitVec 3
  gain : Nat
  offset : Nat
  measured : Nat               -- measured energy of the window (R473)
  modelled : Nat               -- modelled energy of the window, 0.1 pJ
  recent : Nat                 -- modelled energy of the control period (R464)
  energyBase : Nat             -- energy of this window from before the last block reset, 2^-10 µJ
  calAt : Quad                 -- AONCLK count at the window's start
  throttle : Byte
  times : Bank 3 Word
  fixedBroken : Bool
  hold : Hold
  alerts : BitVec 4
  release : Hold
  warnNow : BitVec 6
  warnSeen : BitVec 6
  nearNow : BitVec 6           -- rails that are not 20 mV above their warning level (R469)
  orderErr : Bool
  orderHold : Bool             -- block reset is held until the host repeats the sequence (R452)
  temps : Bank 2 Byte          -- dispatcher sensor, dies 0 to 2
  hotNow : BitVec 4
  critNow : BitVec 4
  dies : Bank 2 DieRep
  droopNow : Bool              -- a cycle was stretched in this period
  sleep : Sleep
  idle : Nat                   -- cycles the S1 conditions have held
  s1Event : Option Nat         -- the cycle of the event that ends S1 (R459)
  wakeFrom : Option Nat        -- AONCLK count at which a wake from S2 or S3 started
  sleepResult : BitVec 2
  telCount : Nat
  trip : Bool
  railsUp : BitVec 6
  deriving DecidableEq, Repr

/-- Modelled energy of the dispatcher enters the window of the calibration and the control period (R464, R473). -/
def Gov.addEnergy (g : Gov) (e : Nat) : Gov := { g with modelled := g.modelled + e, recent := g.recent + e }

/-! ### Noise source and DRBG -/

/-- The states of the noise source (R409). -/
inductive NoiseSt where
  | startup
  | ok
  | retry
  | failed
  deriving DecidableEq, Repr

/-- The noise source, its tests and the DRBG (16). -/
structure Noise where
  st : NoiseSt
  retries : BitVec 2
  rctFails : Byte
  aptFails : Byte
  restarting : Bool
  last : Bool
  runLen : Nat                 -- identical samples in a row
  aptFirst : Bool
  aptCount : Nat
  aptPos : Nat
  seen0 : Bool
  seen1 : Bool
  testPos : Nat
  block : List Bool            -- samples of the conditioned block, latest first
  ready : List (List Byte)     -- conditioned blocks not yet used
  instantiated : Bool
  drbg : Drbg                  -- the working state of the CTR_DRBG (R412)
  blockDue : Bool              -- what waited as OK was entered waits for the next good block (R413)
  reseedDue : Bool
  requests : Nat               -- since the last seeding
  drawn : Nat                  -- generate requests served since AON reset
  waiting : List (Option (Site × Quad))  -- FRESH requests: a `mix.seed` at its queue's head with its word, or the CREATE
  served : List (CtxId × List Byte) -- keys supplied and not yet taken
  deriving DecidableEq, Repr

/-! ### The vault and the management endpoint -/

/-- The lifecycle (R498). -/
inductive Life' where
  | blank
  | provisioned
  | owned
  | rma
  deriving DecidableEq, Repr

/-- The fuse array (20). -/
structure Fuses where
  variant : Byte
  major : BitVec 4
  minor : BitVec 4
  lanes : Nat
  lifecycle : Life'
  makerRoot : List Byte
  owners : List (List Byte)    -- owner key hashes, oldest first, at most 4
  svn : BitVec 7               -- fuses blown of 64
  repairs : List Word          -- maker's repair fuses
  record : List Word           -- the repair record, at most 1,024
  certs : List Byte
  straps : BitVec 3            -- position straps of the package (R18)
  manufacturer : BitVec 11     -- the manufacturer code of the IDCODE (22 R548)
  deriving DecidableEq, Repr

/-- Boot state of the management firmware (R504, R521). -/
inductive Boot where
  | receive
  | running
  | restart
  deriving DecidableEq, Repr

/-- A CONFIG (R507). -/
structure Config' where
  digest : List Byte
  seq : Word
  pubs : List (Option PubKey)  -- slots 0 to 3
  regulators : List (BitVec 16)
  deriving DecidableEq, Repr

/-- A FIRMWARE image (R504). -/
structure Firm where
  digest : List Byte
  svn : Byte
  deriving DecidableEq, Repr

/-- A firmware update in progress (R505). -/
structure Update where
  count : Nat                  -- components that RequestUpdate announced
  passed : List CompId
  current : Option CompId
  size : Nat
  data : List Byte
  transferred : Bool
  verified : Bool
  firm : Option Firm           -- applied FIRMWARE, run at activation
  config : Option Config'
  step : BitVec 4              -- DSP0267 state: 1 learn components, 2 ready, 3 download, 4 verify, 5 apply
  deriving DecidableEq, Repr

/-- Roles (R493). -/
inductive Role where
  | operator
  | installer
  | maker
  deriving DecidableEq, Repr

/-- A secured session (R494). -/
structure Secured where
  finished : Bool
  bothAuth : Bool
  chain : List Byte
  role : Role
  lastBeat : Quad
  keyNo : Nat
  deriving DecidableEq, Repr

/-- An audit record (R516). -/
structure Audit where
  seq : Quad
  time : Quad
  type : Byte
  role : Byte
  path : Byte
  result : Byte
  object : Word
  old : Word
  new : Word
  detail : List Byte
  deriving DecidableEq, Repr

/-- A vault operation that runs (R515). -/
structure VaultOp where
  path : Path
  role : Role
  op : Nat
  part : PartId
  arg0 : Word
  arg1 : Word
  deriving DecidableEq, Repr

/-- The vault and the endpoint (20). -/
structure Vault where
  fuses : Fuses
  boot : Boot
  bootNonce : List Byte
  linkKeys : Bank 3 (Option (List Byte))
  fleet : Option (List Byte)
  firm : Option Firm
  config : Option Config'
  update : Option Update
  sessions : Bank 1 (Option Secured)
  negotiated : Bool
  unsignedSeen : Bool
  kat : Option Bool            -- result of the known-answer tests
  auditNext : Quad
  audit : List (Audit × List Byte)   -- records kept with their chain values, oldest first
  auditBase : List Byte        -- chain value before the oldest record kept
  chain : List Byte
  eids : Bank 1 Byte
  tid : Byte
  receiver : Option Byte
  events : List Rec            -- platform events not yet polled
  deriving DecidableEq, Repr

end Sys2Proof.Machine
end

