-- ==== Sys2Proof/Machine/Regs.lean ====
section
/-! DEFINITION. Regs: the register map (22 R556), each register's fields with their access codes and reset
values (00 R8), and the index a selector gives. A register's stored bits are its writable fields; fields
that show the state of a unit are computed where they are read (RegRead.lean). -/

namespace Sys2Proof.Machine

/-- Access codes (R8). -/
inductive Acc where
  | ro
  | rw
  | w1c
  | wo
  | rwi
  | rwm
  deriving DecidableEq, Repr

/-- A field of a register. -/
structure Fld where
  hi : Nat
  lo : Nat
  acc : Acc
  reset : Nat
  deriving DecidableEq, Repr

/-- How a register is selected: alone, by partition, by path, or by a selector register (R543). -/
inductive Ix where
  | one
  | part
  | four (n : Nat)             -- `n` registers 4 B apart
  | path
  | epoch
  | hand
  | region
  | far
  | fold
  | link
  | edge
  | throttle
  | wear
  | queue
  deriving DecidableEq, Repr

/-- A register of the window: offset, domain, index, fields. -/
structure RegDef where
  off : Nat
  aon : Bool
  ix : Ix
  flds : List Fld
  deriving DecidableEq, Repr

def ro (hi lo : Nat) (r : Nat := 0) : Fld := ⟨hi, lo, .ro, r⟩
def rw (hi lo : Nat) (r : Nat := 0) : Fld := ⟨hi, lo, .rw, r⟩
def rwi (hi lo : Nat) (r : Nat := 0) : Fld := ⟨hi, lo, .rwi, r⟩
def w1c (hi lo : Nat) (r : Nat := 0) : Fld := ⟨hi, lo, .w1c, r⟩
def wo (hi lo : Nat) : Fld := ⟨hi, lo, .wo, 0⟩
def rwm (hi lo : Nat) (r : Nat := 0) : Fld := ⟨hi, lo, .rwm, r⟩

/-- Identity, reset and partition registers. -/
def regsA : List RegDef :=
  [ ⟨0x0000, false, .one, [ro 31 0]⟩,                                              -- ND_ID
    ⟨0x0004, false, .one, [rwi 11 3, ro 2 0]⟩,                                     -- ND_TOPO
    ⟨0x0008, false, .one, [ro 31 0]⟩,                                              -- ND_CYCLE_LO
    ⟨0x000C, false, .one, [ro 31 0]⟩,                                              -- ND_CYCLE_HI
    ⟨0x0010, true, .one, [w1c 6 6, w1c 5 5, w1c 4 4, w1c 3 3, w1c 2 2, w1c 1 1, w1c 0 0 1]⟩,  -- ND_RESET_CAUSE
    ⟨0x0014, false, .one, [rwi 0 0]⟩,                                              -- ND_RESET_CTL
    ⟨0x0018, false, .one, [ro 31 0]⟩,                                              -- ND_BOOT_STATE
    ⟨0x001C, false, .one, [ro 1 1, rwi 0 0]⟩,                                      -- ND_MEM_REGIME
    ⟨0x0020, false, .one, [ro 15 8 0xFF, ro 5 5, ro 4 4, ro 1 0]⟩,                 -- ND_HEALTH
    ⟨0x0024, false, .one, [rwi 31 31, rwi 27 0]⟩,                                  -- ND_FAIL_CKPT
    ⟨0x0028, false, .one, [rwi 31 31, rwi 27 0]⟩,                                  -- ND_CTX_STORE
    ⟨0x0100, false, .part, [rwi 31 31, rwi 30 24, rwi 15 0]⟩,                      -- ND_PART_CFG_n
    ⟨0x0104, false, .part, [rwi 31 16, rwi 15 8, rwi 7 0]⟩,                        -- ND_PART_RES_n
    ⟨0x0108, false, .part, [rwi 31 24 0x10, rwi 23 14 0x00A, rwi 7 0 0x40]⟩,       -- ND_PART_SCHED_n
    ⟨0x010C, false, .part, [rw 4 4 1, rw 1 0]⟩,                                    -- ND_PART_ARITH_n
    ⟨0x0110, false, .part, [rwi 23 16, rwi 15 8, rwi 7 0]⟩,                        -- ND_MOON_BERTHS_n
    ⟨0x0114, false, .part, [rwi 28 27, rwi 26 24, rwi 23 22, rwi 21 11, rwi 10 0]⟩,  -- ND_SPLIT_n
    ⟨0x0118, false, .part, [ro 14 14, rw 13 13, rwi 12 12, rwi 11 0]⟩,             -- ND_REFRESH_n
    ⟨0x011C, false, .part, [rwi 31 31, ro 25 24 3, rw 14 12 0, rw 10 8 2, rw 6 4 3, rw 2 0 3]⟩ ]  -- ND_PWR_PHASE_n

/-- Regions, context operations, queues, epochs, hands, deal and exchange registers. -/
def regsB : List RegDef :=
  [ ⟨0x0200, false, .path, [rw 6 4, rw 3 0]⟩,                                      -- ND_REGION_SEL
    ⟨0x0204, false, .region, [rwi 31 31, rwi 30 30, rwi 27 0]⟩,                    -- ND_REGION_BASE
    ⟨0x0208, false, .region, [rwi 23 0]⟩,                                          -- ND_REGION_SIZE
    ⟨0x0210, false, .path, [ro 31 31, ro 30 28, wo 27 24, rw 23 21, rw 17 0]⟩,     -- ND_CTX_OP
    ⟨0x0214, false, .path, [rw 31 0]⟩,                                             -- ND_CTX_ARG
    ⟨0x0218, false, .path, [rw 19 2, rw 1 0]⟩,                                     -- ND_QSEL
    ⟨0x021C, false, .queue, [ro 31 0]⟩,                                            -- ND_QHEAD
    ⟨0x0220, false, .queue, [ro 31 24, ro 12 8, ro 1 0]⟩,                          -- ND_QSTATE
    ⟨0x0300, false, .path, [rw 9 8, rw 7 0]⟩,                                      -- ND_EPOCH_SEL
    ⟨0x0304, false, .epoch, [ro 31 0]⟩,                                            -- ND_EPOCH_STATE
    ⟨0x0308, false, .epoch, [rw 31 31, rw 27 0]⟩,                                  -- ND_EPOCH_BANK0
    ⟨0x030C, false, .epoch, [rw 31 31, rw 27 0]⟩,                                  -- ND_EPOCH_BANK1
    ⟨0x0310, false, .epoch, [ro 19 0]⟩,                                            -- ND_EPOCH_REF0
    ⟨0x0314, false, .epoch, [ro 19 0]⟩,                                            -- ND_EPOCH_REF1
    ⟨0x0318, false, .epoch, [rw 31 31, rw 27 0]⟩,                                  -- ND_EPOCH_MAN0
    ⟨0x031C, false, .epoch, [rw 31 31, rw 27 0]⟩,                                  -- ND_EPOCH_MAN1
    ⟨0x0320, false, .epoch, [ro 15 0]⟩,                                            -- ND_EPOCH_STAMP
    ⟨0x0324, false, .epoch, [rw 23 0]⟩,                                            -- ND_EPOCH_SIZE0
    ⟨0x0328, false, .epoch, [rw 23 0]⟩,                                            -- ND_EPOCH_SIZE1
    ⟨0x0340, false, .path, [rw 10 8, rw 7 0]⟩,                                     -- ND_HAND_SEL
    ⟨0x0344, false, .hand, [rw 28 28 1, rw 27 27, rw 26 26 1, rw 25 24 2, rw 23 20 8, rw 19 8 0x040, rw 7 5,
      rw 4 4 1, rw 3 3, rw 1 0]⟩,                                                  -- ND_HAND_CFG
    ⟨0x0348, false, .hand, [ro 31 0]⟩,                                             -- ND_EPH_STATE
    ⟨0x034C, false, .hand, [rw 27 0]⟩,                                             -- ND_EPH_BASE
    ⟨0x0350, false, .hand, [ro 10 9, ro 8 8, wo 2 0]⟩,                             -- ND_EPH_CTL
    ⟨0x0360, false, .one, [ro 23 22 2, ro 21 21, ro 18 0]⟩,                        -- ND_DEAL_STAGES_OUT
    ⟨0x0364, false, .one, [ro 23 22 2, ro 21 21, ro 18 0]⟩,                        -- ND_DEAL_STAGES_IN
    ⟨0x0368, false, .path, [rwi 8 0]⟩,                                             -- ND_FAR_ROUTE_SEL
    ⟨0x036C, false, .far, [rwi 5 0]⟩,                                              -- ND_FAR_ROUTE
    ⟨0x0370, false, .one, [rwi 23 20 4, rwi 15 0 0x0064]⟩,                         -- ND_EXCH_CFG
    ⟨0x0374, false, .one, [rwi 23 20 1, rwi 19 16 4, ro 15 12, rwi 11 8 8, rwi 7 4 8, rwi 3 0 8]⟩,  -- ND_VC_WEIGHT
    ⟨0x0380, false, .four 3, [rwi 27 0]⟩,                                          -- ND_RECV_BASEn
    ⟨0x0390, false, .four 3, [rwi 23 0]⟩,                                          -- ND_RECV_SIZEn
    ⟨0x0400, false, .path, [rw 3 0]⟩,                                              -- ND_FOLD_SEL
    ⟨0x0404, false, .fold, [rwi 31 31, rwi 30 19, rwi 18 16, rwi 15 15, rwi 14 13, rwi 12 7, rwi 6 0 0x0A]⟩,  -- ND_FOLD_GRP
    ⟨0x0408, false, .fold, [rwi 27 0]⟩,                                            -- ND_FOLD_LIST
    ⟨0x040C, false, .fold, [rwi 13 13, rwi 12 4, rwi 3 0]⟩,                        -- ND_FOLD_SHAPE
    ⟨0x0410, false, .fold, [ro 31 12, ro 11 8, ro 7 6]⟩,                           -- ND_FOLD_STATE
    ⟨0x0414, false, .fold, [ro 31 12, ro 11 10]⟩,                                  -- ND_COMET_STATE
    ⟨0x0420, false, .one, [ro 31 0]⟩ ]                                             -- ND_FUNC_CLAMPS

/-- Links, edges, power, energy. -/
def regsC : List RegDef :=
  [ ⟨0x0500, false, .path, [rw 3 0]⟩,                                              -- ND_LINK_SEL
    ⟨0x0504, false, .link, [wo 2 2, wo 1 1, rwi 0 0]⟩,                             -- ND_LINK_CTL
    ⟨0x0508, false, .link, [ro 23 20, ro 19 16, ro 15 12, ro 2 0]⟩,                -- ND_LINK_STATE
    ⟨0x050C, false, .link, [ro 29 20, ro 19 10, ro 9 0]⟩,                          -- ND_LINK_MAP
    ⟨0x0510, false, .link, [ro 31 0]⟩, ⟨0x0514, false, .link, [ro 31 0]⟩,          -- link counters
    ⟨0x0518, false, .link, [ro 31 0]⟩, ⟨0x051C, false, .link, [ro 31 0]⟩,
    ⟨0x0520, false, .link, [ro 31 0]⟩, ⟨0x0524, false, .link, [ro 31 0]⟩,
    ⟨0x0540, false, .path, [rw 5 0]⟩,                                              -- ND_EDGE_SEL
    ⟨0x0544, false, .edge, [ro 31 16, ro 15 8, w1c 1 1, w1c 0 0]⟩,                 -- ND_EDGE_STATE
    ⟨0x0600, true, .one, [w1c 16 16, w1c 13 13, w1c 12 12, w1c 11 11, w1c 10 10, w1c 9 9, w1c 8 8, ro 5 0]⟩,  -- ND_SUPPLY_STATE
    ⟨0x0604, true, .one, [rw 15 8 4, ro 5 4, ro 3 2, rwi 1 0]⟩,                    -- ND_PWR_SLEEP
    ⟨0x0608, true, .one, [rw 31 16, rw 15 0 0xFFFF]⟩,                              -- ND_PWR_BUDGET
    ⟨0x060C, true, .one, [rwi 31 16, rwi 15 0 0x0465]⟩,                            -- ND_PWR_LIMIT
    ⟨0x0610, true, .one, [rwi 29 20 0x03C, rwi 19 10 0x028, rwi 9 0 0x12C]⟩,       -- ND_PWR_FLOOR
    ⟨0x0614, true, .one, [rwi 15 8 0x69, rwi 7 0 0x5F]⟩,                           -- ND_PWR_THERM
    ⟨0x0618, true, .one, [rwi 15 8 0x28, rwi 2 2 1, rwi 1 1, rw 0 0 1]⟩,           -- ND_PWR_CFG
    ⟨0x061C, true, .one, [ro 31 24, w1c 23 23, ro 22 20, ro 19 17, ro 16 14, ro 13 11, ro 10 8]⟩,  -- ND_PWR_STATE
    ⟨0x0620, true, .one, [ro 17 12, ro 11 6, ro 5 0]⟩,                             -- ND_PWR_BUBBLES
    ⟨0x0624, true, .path, [rw 2 0]⟩,                                               -- ND_THROTTLE_SEL
    ⟨0x0628, true, .throttle, [ro 31 0]⟩,                                          -- ND_THROTTLE_TIME
    ⟨0x062C, true, .one, [ro 31 16 0x1000, ro 15 0 0x61A8]⟩,                       -- ND_ENERGY_CAL
    ⟨0x0640, false, .one, [rwm 23 0 6]⟩, ⟨0x0644, false, .one, [rwm 23 0 3]⟩,      -- ND_ENERGY_COEF_i
    ⟨0x0648, false, .one, [rwm 23 0 20]⟩, ⟨0x064C, false, .one, [rwm 23 0 100]⟩,
    ⟨0x0650, false, .one, [rwm 23 0 1000]⟩, ⟨0x0654, false, .one, [rwm 23 0 10]⟩,
    ⟨0x0658, false, .one, [rwm 23 0 40]⟩, ⟨0x065C, false, .one, [rwm 23 0 400]⟩,
    ⟨0x0660, false, .one, [rwm 23 0 80]⟩ ]

/-- Wear, noise, vault, rings and counters. -/
def regsD : List RegDef :=
  [ ⟨0x0700, false, .path, [rw 5 0]⟩,                                              -- ND_WEAR_SEL
    ⟨0x0704, false, .wear, [ro 31 20, ro 19 8, ro 7 2, ro 1 0]⟩,                   -- ND_WEAR_STATE
    ⟨0x0708, false, .wear, [ro 31 0]⟩,                                             -- ND_WEAR_RATE
    ⟨0x070C, false, .one, [rwi 23 16 0x14, rwi 15 0 0x0100]⟩,                      -- ND_WEAR_CFG
    ⟨0x0710, true, .four 5, [ro 7 0 0xFF]⟩,                                        -- ND_AGING_OPn
    ⟨0x0740, true, .one, [ro 23 16, ro 15 8, ro 5 4, ro 1 0]⟩,                     -- ND_NOISE_STATE
    ⟨0x0744, true, .one, [rwi 0 0]⟩,                                               -- ND_NOISE_CTL
    ⟨0x0800, true, .one, [ro 5 4, ro 2 2, ro 1 0]⟩,                                -- ND_ROLE
    ⟨0x0804, true, .one, [rwi 0 0]⟩,                                               -- ND_VAULT_CFG
    ⟨0x0808, true, .one, [ro 31 0]⟩,                                               -- ND_VAULT_STATE
    ⟨0x080C, false, .path, [ro 31 31, ro 30 28, wo 27 24, rw 23 21]⟩,              -- ND_VAULT_OP
    ⟨0x0810, false, .path, [rw 27 24, rw 23 0]⟩,                                   -- ND_VAULT_ARG0
    ⟨0x0814, false, .path, [rw 27 24, rw 23 0]⟩,                                   -- ND_VAULT_ARG1
    ⟨0x0900, false, .one, [rwi 31 31, rwi 30 28, rwi 27 0]⟩,                       -- ND_EVT_RING
    ⟨0x0904, false, .one, [rw 31 0]⟩, ⟨0x0908, false, .one, [ro 31 0]⟩,            -- ND_EVT_HEAD, TAIL
    ⟨0x0910, false, .one, [rwi 31 31, rwi 30 28, rwi 27 0]⟩,                       -- ND_TEL_RING
    ⟨0x0914, false, .one, [rw 31 0]⟩, ⟨0x0918, false, .one, [ro 31 0]⟩,            -- ND_TEL_HEAD, TAIL
    ⟨0x091C, false, .one, [rw 7 0]⟩,                                               -- ND_TEL_PERIOD
    ⟨0x1000, false, .path, [ro 31 31, rw 17 0]⟩ ]                                  -- ND_CNT_CTX

/-- Every register of the map but the counter areas. -/
def regDefs : List RegDef := regsA ++ regsB ++ regsC ++ regsD

/-- The bits of a field. -/
def Fld.mask (f : Fld) : Nat := (2 ^ (f.hi + 1 - f.lo) - 1) <<< f.lo

/-- The mask of the fields of a register that meet a test. -/
def RegDef.maskOf (d : RegDef) (p : Acc → Bool) : Nat :=
  d.flds.foldl (fun m f => if p f.acc then m ||| f.mask else m) 0

/-- A register's reset value. -/
def RegDef.reset (d : RegDef) : Word :=
  BitVec.ofNat 32 (d.flds.foldl (fun v f => v ||| put f.hi f.lo f.reset) 0)

/-- The register at a window offset, by its base offset, with an index for the arrays by partition or by
4 B steps; partitions stand 0x20 apart from 0x0100. -/
def regAt (a : Nat) : Option (RegDef × Nat) :=
  let base := if 0x100 ≤ a && a < 0x200 then (0x100 + a % 0x20, (a - 0x100) / 0x20)
    else if 0x380 ≤ a && a < 0x38C then (0x380, (a - 0x380) / 4)
    else if 0x390 ≤ a && a < 0x39C then (0x390, (a - 0x390) / 4)
    else if 0x710 ≤ a && a < 0x724 then (0x710, (a - 0x710) / 4)
    else (a, 0)
  (regDefs.find? (fun d => d.off = base.1)).map fun d => (d, base.2)

/-- The reset value of the register with a base offset. -/
def resetOf (off : Nat) : Word :=
  match regDefs.find? (fun d => d.off = off) with
  | some d => d.reset
  | none => 0

end Sys2Proof.Machine
end

