-- ==== Sys2Proof/Machine/State.lean ====
section
/-! DEFINITION. State: everything the spec gives one instance, as plain data, and its value after reset.
`blk` is the block domain (control and data planes, 01 R15), lost at a block reset (21 R523); `aon` is the
management plane, kept across it; `pending` is the queue of commands waiting. -/

namespace Sys2Proof.Machine

/-- Who stops the machine: nobody. The spec gives every command an effect, or says that it has none. -/
inductive Fault where
  deriving DecidableEq, Repr

/-- Who refuses.
* `notModelled`: only an arm of `exec` that has no meaning yet. Safe. -/
inductive Refusal where
  | notModelled (mnemonic : String)
  deriving DecidableEq, Repr

/-- Memories (11 R279, R280): the scratchpad by flat address (bank × 3 MiB + offset), the stack window, and
what a read meets that was damaged (log 8). -/
structure Mem where
  scratch : Memory
  stack : Memory
  flips : Tab Nat              -- scratchpad word address to the XOR mask on its 39 stored bits (R54)
  hurt : Tab Nat               -- the same of the other protected arrays, by unit index × 2^40 + word (R54, R476; log 58)
  badMac : List Nat            -- sealed lines (address / 64) whose MAC fails (R514)
  poison : List Nat            -- stack lines (address / 64) that read poisoned (R540)
  deriving DecidableEq, Repr

/-- A context operation that runs (R365). -/
structure CtxOp where
  path : Path
  op : Nat
  part : PartId
  ctx : CtxId
  arg : Word
  noKey : Bool              -- the noise source was FAILED while a CREATE with mixer FRESH asked or waited for its key (16 R413)
  deriving DecidableEq, Repr

/-- An ephemeris operation that runs (R123). -/
structure EphOp where
  path : Path
  op : Nat
  key : Nat
  unsigned : Bool            -- UNSIGNED mode as it started (R510)
  deriving DecidableEq, Repr

/-- Tables and refresh (03, 15). -/
structure Refresh where
  tables : Tab Table           -- by layer × 4 + kind
  holder : Tab CtxId           -- by layer (R338)
  flips : List Flip
  verdicts : List Verdict
  pushes : List Push
  swapDue : List (BitVec 2 × Layer)   -- swaps sent and not yet applied (R388)
  swapWait : List Swap         -- swaps held until every push is written (R446)
  resident : Tab (List (BitVec 11))   -- experts in the active bank, by layer × 4 + die (R395)
  deriving DecidableEq, Repr

/-- The exchange and the collect unit (06, 07). -/
structure Exch where
  rings : Bank 3 (List Egress)
  inDisps : List InDisp
  claimQ : List ClaimQ
  splits : List SplitJob
  held : List Packet           -- packets for a die behind a DEAL whose expert is not resident (R397)
  staging : Tab (List Byte)    -- the moon staging area, by layer × 2048 + expert (R113)
  berths : List BerthImg       -- images on their way to berths, oldest first (R113)
  deriving DecidableEq, Repr

/-- The fold units (08). -/
structure Folds where
  groups : Bank 4 FGroup
  seats : Bank 4 Seat
  early : List FoldPkt         -- FREADY table of 64 (R215)
  held : List FoldPkt          -- fold packets that wait in their port FIFOs, oldest first (R215, R222)
  starts : List (CtxId × BitVec 2 × Word × Nat)   -- starts waiting in the pending queue and since when (R214)
  deriving DecidableEq, Repr

/-- The comet engine (09). -/
structure Comets where
  live : List Comet
  early : List CometMsg
  held : List CometMsg         -- CDATA and CABORT messages that wait in their port FIFOs, oldest first (R248)
  starts : List (CtxId × BitVec 2 × Word × Nat)
  deriving DecidableEq, Repr

/-- The block's own start-up and regime state (21, 11 R287). -/
structure Start where
  stage : BitVec 4             -- R528
  held : Bool                  -- a block reset condition holds
  heldSince : Quad             -- AONCLK count at its start
  regime : Bool                -- 0 DIRECT, 1 SERVICE
  regimeNext : Option Bool     -- a change that waits (R287)
  storeInit : Option Nat       -- end of the context store's initialisation (R534)
  accesses : List (Requester × BitVec 23 × Option Word)   -- accesses held, oldest first: a write's value, none for a read (R362, R530)
  deriving DecidableEq, Repr

/-- The block domain. -/
structure Blk where
  cycle : Quad
  bubble : BitVec 3            -- bubbles this cycle carries: issue, M0 requests, credit return (R15, 18 R465)
  stretchAt : Option Nat       -- the last cycle that was stretched (R24)
  shorts : List (CtxId × Nat)  -- instructions without a flight, and the cycle in which each completes (R321)
  start : Start
  regs : Tab Word              -- by index × 0x10000 + offset (22 R556)
  latch : Tab (Nat × Word)     -- R545: by path, the offset of a latched high word and its value
  ctxs : Tab Ctx
  slots : Bank 3 Slot
  flights : List Flight
  cache : List CtxId           -- context cache, most recent first (R361)
  issueCycle : Nat             -- the last cycle in which instructions issued, and how many did (R311)
  issueCount : Nat
  bells : List Bell            -- doorbell FIFO (R362)
  bellAt : Nat                 -- first cycle in which the next doorbell may be applied (01 R15)
  heldBells : List Bell
  ctxOp : Option CtxOp
  ephOp : Option EphOp
  mem : Mem
  refresh : Refresh
  gateStore : List (Binding × Nat)   -- tables the gate store holds and their bytes, latest used first (R66)
  disps : List Dispatch
  ephs : Tab Eph               -- by partition × 256 + layer
  exch : Exch
  folds : Folds
  comets : Comets
  links : Bank 4 Link
  edges : Tab EdgeSt           -- by number in ND_EDGE_SEL
  health : Health
  counters : Tab Quad          -- instance counters by offset (R550)
  burnt : Nat                  -- activity energy that the governor's window is still to take, 0.1 pJ (18 R472)
  burns : List (CtxId × Nat)   -- and what of it, with what was left over, the contexts' counters are still to take (14 R380)
  snaps : Tab Word             -- context counter snapshots by path × 0x1000 + word (R549)
  evts : List Rec              -- edge 60 (R414)
  posted : List Rec            -- records of the command that runs, which the management plane has yet to see
  tels : List (List Byte)      -- edge 61
  out : List Out
  free : Nat
  deriving DecidableEq, Repr

/-- The always-on domain: the management plane. -/
structure Aon where
  held : Bool                  -- the AON reset input is asserted
  count : Quad                 -- AONCLK count since AON reset (R516)
  phase : Nat                  -- part of an AONCLK period, in 978,880ths
  regs : Tab Word
  gov : Gov
  noise : Noise
  vault : Vault
  vaultOp : Option VaultOp
  regBus : List (Option (BitVec 2))  -- the PMBus that answers each entry of the regulator map; none: left unread (R541)
  deriving DecidableEq, Repr

/-- The state of one instance. -/
structure State where
  blk : Blk
  aon : Aon
  pending : List Instr
  deriving DecidableEq, Repr

/-! ### Reset -/

def LoopLv.zero : LoopLv := ⟨0, 0, 0, 0, 0, 0, 0⟩

/-- A queue that no context uses. -/
def Queue.reset : Queue :=
  { base := 0, size := 0, pc := 0, tail := 0, halted := false, dead := false, tag := 0,
    sregs := Bank.all 5 0, loops := [], runLedger := 0, runVec := false, runNo := 0, vregs := [],
    waiting := false, outside := none, pairOpen := false, barrier := none, holdDue := none,
    nextAt := 0, busyTo := 0, heldAt := none, pubs := [] }

/-- A FREE context (R357, R366): its registers as CREATE clears them (log 11). -/
def Ctx.reset : Ctx :=
  { life := .free, part := 0, lanesSaved := 0, shares := 0, frame := 0, pass := 0, since := 0,
    queues := Bank.all 2 Queue.reset, preds := 1, dones := [], doneAt := 0, doneSet := 0, wroteAt := 0, wrote := [], tregs := Bank.all 4 0, eregs := Bank.all 2 0, holds := 0,
    key := 0, keySource := 0, seeds := 0, counters := [], collectives := [], away := [] }

def Slot.reset : Slot :=
  { running := none, charged := 0, incoming := none, outgoing := none, switchFrom := 0, switchQ := 0, switchD := false,
    byTrump := false, trumpFirst := none, lastTrump := none, pass := 0, idleFrom := 0 }

def TBank.reset : TBank := ⟨.free, 0, 0, 0, []⟩

def Table.reset : Table := ⟨0, false, TBank.reset, TBank.reset⟩

/-- An ephemeris that is COLD (R119). -/
def Eph.reset : Eph :=
  { seq := 0, steps := 0, warm := false, frozen := false, md := [], vd := [], mr := [], vr := [], received := [],
    lastQ := 0, lastTk := 0, experts := 0, sizes := [], plan := [], below := [],
    views := [], observing := [], prefetch := [], opens := 0 }

def FGroup.reset : FGroup := ⟨0, 0, [], none, []⟩

/-- A descriptor register that no `tset` has loaded reads all zeros (R329). -/
def Desc.zero : Desc := ⟨0, 0, 0, 0, 0, 0, 0, 0, 0, 0, 0, 0, 0, 0, 0, 0, 0⟩

def Seat.reset : Seat :=
  { entry := none, st := .free, dir := false, id := 0, ctx := 0, part := 0, kind := 0, op := false, eager := false,
    ordered := false, n := 0, src := Desc.zero, dst := Desc.zero, stage := none, credit := [], pieceOut := [],
    loads := 0, bufs := [], chunks := [], sent := [], expSent := [], sums := [], results := [], exp1 := [], exps := [], readers := [],
    good := 128, retired := false, bound := 0, since := 0, arith := 0 }

def Session'.reset : Session' :=
  { key := [], local' := [], peer := [], txKey := [], rxKey := [], txSalt := [], rxSalt := [], txBlock := 0,
    rxBlock := 0, confirmed := false, confirmFails := 0, newLocal := [], newPeer := [], rekeyAt := none, nextTx := [], nextSalt := [],
    peerRekeyAt := none, nextRx := [], nextRxSalt := [] }

def Lanes.reset : Lanes := ⟨0, 0, 0, [], 0, 0⟩

/-- A port in DOWN (R436, R449). -/
def Link.reset : Link :=
  { st := .down, reason := 0, enable := false, since := 0, peer := none, rx := Lanes.reset, tx := Lanes.reset,
    sendSeq := 0, replay := [], expect := 0, acked := 0x3FF, owed := false, nakSince := 0, naks := 0,
    withhold := false, auth := [], tagFailed := none, credits := Bank.all 3 0, rxWords := Bank.all 3 0, returned := Bank.all 3 0,
    wait := [], sent := Bank.all 3 0, quota := Bank.all 3 0, turn := 0, tails := Bank.all 3 [], line := [], creditTurn := 0,
    lastCtrl := 0, openBlock := [], session := Session'.reset, corrected := 0, uncorrectable := 0, crcFails := 0,
    replays := 0, tagFails := 0, recovers := 0 }

def Wear.reset : Wear :=
  { used := 0, retired := 0, window := 0, rate := 0, errRows := [], prevRows := [], rowsOut := [], copies := [],
    retest := none, due := [], failing := [] }

def Stages.reset : Stages := ⟨0, false, none, none⟩

/-- Wear state of a part without repairs, with its variant's lanes (R481, R483; log 7). -/
def Health.reset (lanes : Nat) : Health :=
  { units := [], outStages := Stages.reset, inStages := Stages.reset, bank16 := none, bankCopy := none,
    banksOut := 0, lanesBuilt := lanes, lanesActive := lanes, laneSubs := [],
    laneSpares := (List.range 4).map (· + lanes), lanesOut := [],
    quadDue := [], cause := 0xFF, chipFailed := false, failedAt := 0, writeout := false, torn := [], boostOff := false,
    repairFull := false, recordDue := [], repairs := 0, bad := [], windowAt := 0, scrubbed := [] }

def Dom.zero : Dom := ⟨0, 0, 0⟩

/-- The governor at AON reset (18; log 12 for the measurements not yet made). -/
def Gov.reset : Gov :=
  { op := 0, dieOp := Bank.all 2 0, opNext := none, opSince := 0, bubbles := Dom.zero, power := Dom.zero,
    shares := Dom.zero, est := [], calm := 0, period := 0, round := 0, roundFrom := 0, paces := [],
    heldPaces := [], heard := [], sharesAll := [], budget := 0xFFFF, share := 4500, blocks := [], blockSum := 0,
    blockCount := 0, binding := 0, gain := 0x1000, offset := 0x61A8, measured := 0, modelled := 0, recent := 0,
    energyBase := 0, calAt := 0, throttle := 0, times := Bank.all 3 0, fixedBroken := false, hold := .none, alerts := 0,
    release := .none, warnNow := 0, warnSeen := 0, nearNow := 0, orderErr := false, orderHold := false, temps := Bank.all 2 0, hotNow := 0,
    critNow := 0, dies := Bank.all 2 ⟨0, 0, 0, 0⟩, droopNow := false, sleep := .s0, idle := 0, s1Event := none, wakeFrom := none,
    sleepResult := 0, telCount := 0, trip := false, railsUp := 0 }

/-- The noise source in STARTUP (R409). -/
def Noise.reset : Noise :=
  { st := .startup, retries := 0, rctFails := 0, aptFails := 0, restarting := false, last := false, runLen := 0,
    aptFirst := false, aptCount := 0, aptPos := 0, seen0 := false, seen1 := false, testPos := 0,
    block := [], ready := [], instantiated := false, drbg := Drbg.zero, blockDue := false, reseedDue := false, requests := 0, drawn := 0, waiting := [],
    served := [] }

/-- The fuses of the part modelled: an ND-840, revision 1.0, owned, at ring position 0 (log 7). -/
def Fuses.part : Fuses :=
  { variant := 0x01, major := 1, minor := 0, lanes := 64, lifecycle := .owned,
    makerRoot := List.replicate 48 0x4D, owners := [List.replicate 48 0x4F], svn := 0, repairs := [], record := [],
    certs := [], straps := 0, manufacturer := 0 }

/-- The vault after an AON reset of a part with given fuses (R512, R523). -/
def Vault.reset (f : Fuses) : Vault :=
  { fuses := f, boot := .receive, bootNonce := [], linkKeys := Bank.all 3 none, fleet := none, firm := none,
    config := none, update := none, sessions := Bank.all 1 none, negotiated := false, unsignedSeen := false,
    kat := none, auditNext := 1, audit := [], auditBase := [], chain := [], eids := Bank.all 1 0, tid := 0, receiver := none,
    events := [] }

/-- The block after a block reset, in stage RESET, with memory contents and lane count that survive it
(R523, R535). -/
def Blk.reset (stack : Memory) (lanes : Nat) : Blk :=
  { cycle := 0, bubble := 0, stretchAt := none, shorts := [],
    start := { stage := 0, held := false, heldSince := 0, regime := false, regimeNext := none, storeInit := none,
               accesses := [] },
    regs := [], latch := [], ctxs := [], slots := Bank.all 3 Slot.reset, flights := [], cache := [], issueCycle := 0,
    issueCount := 0, bells := [], bellAt := 0,
    heldBells := [], ctxOp := none, ephOp := none,
    mem := { scratch := [], stack := stack, flips := [], hurt := [], badMac := [], poison := [] },
    refresh := { tables := [], holder := [], flips := [], verdicts := [], pushes := [], swapDue := [],
                 swapWait := [], resident := [] },
    gateStore := [], disps := [], ephs := [],
    exch := { rings := Bank.all 3 [], inDisps := [], claimQ := [], splits := [],
              held := [], staging := [], berths := [] },
    folds := { groups := Bank.all 4 FGroup.reset, seats := Bank.all 4 Seat.reset, early := [], held := [], starts := [] },
    comets := { live := [], early := [], held := [], starts := [] },
    links := Bank.all 4 Link.reset, edges := [], health := Health.reset lanes, counters := [], burnt := 0, burns := [], snaps := [],
    evts := [], posted := [], tels := [], out := [], free := 0 }

/-- The always-on domain after an AON reset (R522, R523, R524). -/
def Aon.reset (f : Fuses) : Aon :=
  { held := false, count := 0, phase := 0, regs := [], gov := Gov.reset, noise := Noise.reset,
    vault := Vault.reset f, vaultOp := none, regBus := [] }

/-- The instance right after an AON reset, its block reset not yet released (R522, R528). -/
def State.reset : State :=
  { blk := Blk.reset [] Fuses.part.lanes, aon := Aon.reset Fuses.part, pending := [] }

end Sys2Proof.Machine
end

