-- ==== Sys2Proof/Machine/Operands.lean ====
section
/-! DEFINITION. Operands: instruction words (13 R323, R327), tensor descriptors and their addresses
(11 R277 to R289), and the elements of rows in every format (02 R30 to R40). -/

namespace Sys2Proof.Machine

/-! ### Registers by key -/

/-- A block register: its stored bits, or its reset value. -/
def Blk.reg (b : Blk) (off : Nat) (i : Nat := 0) : Word := b.regs.get (i * 0x10000 + off) (resetOf off)

def Blk.setReg (b : Blk) (off i : Nat) (v : Word) : Blk := { b with regs := b.regs.put (i * 0x10000 + off) v }

/-- An AON register. -/
def Aon.reg (a : Aon) (off : Nat) (i : Nat := 0) : Word := a.regs.get (i * 0x10000 + off) (resetOf off)

def Aon.setReg (a : Aon) (off i : Nat) (v : Word) : Aon := { a with regs := a.regs.put (i * 0x10000 + off) v }

/-- ND_PART_CFG_n (R352). -/
def Blk.partValid (b : Blk) (n : PartId) : Bool := bit (b.reg 0x100 n.toNat).toNat 31
def Blk.partLanes (b : Blk) (n : PartId) : Nat := fld (b.reg 0x100 n.toNat) 30 24
def Blk.partBanks (b : Blk) (n : PartId) : Nat := fld (b.reg 0x100 n.toNat) 15 0

/-- Whether a layer lies in a partition's range (R356). -/
def Blk.ownsLayer (b : Blk) (n : PartId) (l : Nat) : Bool :=
  fld (b.reg 0x104 n.toNat) 7 0 ≤ l && l ≤ fld (b.reg 0x104 n.toNat) 15 8

/-- The valid partition whose layer range holds a layer. -/
def Blk.layerPart (b : Blk) (l : Nat) : Option PartId :=
  ((List.range 8).map (BitVec.ofNat 3)).find? fun n => b.partValid n && b.ownsLayer n l

/-- ND_PART_ARITH_n bits [4:0] (R45). -/
def Blk.arith (b : Blk) (n : PartId) : BitVec 5 := BitVec.ofNat 5 (b.reg 0x10C n.toNat).toNat

def ordered (a : BitVec 5) : Bool := a.toNat % 4 = 1
def saturates (a : BitVec 5) : Bool := bit a.toNat 4

/-- This instance's ID (R157). -/
def Blk.self (b : Blk) : InstId := BitVec.ofNat 12 (b.reg 0x004).toNat

/-- A stack region of a partition: valid, owned, window start and length in bytes (R280). -/
structure Region where
  valid : Bool
  owned : Bool
  start : Nat
  len : Nat
  deriving DecidableEq, Repr

def Blk.region (b : Blk) (n : PartId) (r : Nat) : Region :=
  let base := b.reg 0x204 (n.toNat * 16 + r)
  let size := b.reg 0x208 (n.toNat * 16 + r)
  ⟨bit base.toNat 31, bit base.toNat 30, fld base 27 0 * 4096, fld size 23 0 * 4096⟩

/-! ### Instruction words (R323, R327) -/

def encGuard (op : Nat) (g : Guard) : Nat :=
  put 63 56 op + put 55 55 (b01 g.ginv) + put 54 52 g.gpred.toNat + put 51 49 g.dp.toNat

def encR (op : Nat) (f : RFields) : Quad :=
  BitVec.ofNat 64 (encGuard op f.g + put 48 44 f.a.toNat + put 43 39 f.b.toNat + put 38 34 f.c.toNat
    + put 33 29 f.d.toNat + put 28 24 f.e.toNat + put 23 19 f.f.toNat + put 18 14 f.gg.toNat
    + put 13 9 f.h.toNat + put 8 4 f.i.toNat + put 3 0 f.m.toNat)

def encI (op : Nat) (f : IFields) : Quad :=
  BitVec.ofNat 64 (encGuard op f.g + put 48 44 f.a.toNat + put 43 42 f.k.toNat + put 41 32 f.b.toNat
    + put 31 0 f.imm.toNat)

def encC (op : Nat) (f : CFields) : Quad :=
  BitVec.ofNat 64 (encGuard op f.g + put 48 47 f.e.toNat + put 46 46 (b01 f.split) + put 45 44 f.mode.toNat
    + put 43 39 f.g0.toNat + put 38 34 f.ng.toNat + put 33 30 f.landing.toNat + put 29 26 f.acc.toNat
    + put 25 22 f.out.toNat + put 21 17 f.res.toNat + put 16 12 f.oidx.toNat + put 11 7 f.drops.toNat
    + put 6 2 f.dcount.toNat + put 1 0 f.rsv.toNat)

/-- The fields of an R-format word. -/
def decR (w : Quad) : RFields :=
  let n := w.toNat
  { g := ⟨bit n 55, BitVec.ofNat 3 (field n 54 52), BitVec.ofNat 3 (field n 51 49)⟩,
    a := BitVec.ofNat 5 (field n 48 44), b := BitVec.ofNat 5 (field n 43 39), c := BitVec.ofNat 5 (field n 38 34),
    d := BitVec.ofNat 5 (field n 33 29), e := BitVec.ofNat 5 (field n 28 24), f := BitVec.ofNat 5 (field n 23 19),
    gg := BitVec.ofNat 5 (field n 18 14), h := BitVec.ofNat 5 (field n 13 9), i := BitVec.ofNat 5 (field n 8 4),
    m := BitVec.ofNat 4 (field n 3 0) }

def decI (w : Quad) : IFields :=
  let n := w.toNat
  { g := ⟨bit n 55, BitVec.ofNat 3 (field n 54 52), BitVec.ofNat 3 (field n 51 49)⟩,
    a := BitVec.ofNat 5 (field n 48 44), k := BitVec.ofNat 2 (field n 43 42), b := BitVec.ofNat 10 (field n 41 32),
    imm := BitVec.ofNat 32 n }

def decC (w : Quad) : CFields :=
  let n := w.toNat
  { g := ⟨bit n 55, BitVec.ofNat 3 (field n 54 52), BitVec.ofNat 3 (field n 51 49)⟩,
    e := BitVec.ofNat 2 (field n 48 47), split := bit n 46, mode := BitVec.ofNat 2 (field n 45 44),
    g0 := BitVec.ofNat 5 (field n 43 39), ng := BitVec.ofNat 5 (field n 38 34),
    landing := BitVec.ofNat 4 (field n 33 30), acc := BitVec.ofNat 4 (field n 29 26),
    out := BitVec.ofNat 4 (field n 25 22), res := BitVec.ofNat 5 (field n 21 17),
    oidx := BitVec.ofNat 5 (field n 16 12), drops := BitVec.ofNat 5 (field n 11 7),
    dcount := BitVec.ofNat 5 (field n 6 2), rsv := BitVec.ofNat 2 (field n 1 0) }

def opcodeOf (w : Quad) : Nat := field w.toNat 63 56

/-! ### Descriptors -/

/-- The descriptor an image holds (R277). -/
def Desc.ofNat (x : Nat) : Desc :=
  let at' := fun (off len : Nat) => (x >>> (8 * off)) % 2 ^ (8 * len)
  { base := at' 0 8, space := BitVec.ofNat 8 (at' 8 1), format := BitVec.ofNat 8 (at' 9 1),
    rank := BitVec.ofNat 8 (at' 10 1), clamp := BitVec.ofNat 8 (at' 11 1), banks := BitVec.ofNat 16 (at' 12 2),
    ereg := BitVec.ofNat 8 (at' 14 1), access := BitVec.ofNat 8 (at' 15 1), n0 := at' 16 4, n1 := at' 20 4,
    n2 := at' 24 4, n3 := at' 28 4, s1 := (BitVec.ofNat 64 (at' 32 8)).toInt, s2 := (BitVec.ofNat 64 (at' 40 8)).toInt,
    s3 := (BitVec.ofNat 64 (at' 48 8)).toInt, fill := BitVec.ofNat 32 (at' 56 4), rsv := BitVec.ofNat 32 (at' 60 4) }

def Desc.fmt (d : Desc) : Nat := d.format.toNat
def Desc.e (d : Desc) : Nat := fmtBytes d.fmt
def Desc.block (d : Desc) : Bool := fmtBlock d.fmt

/-- Row bytes of `n` elements in a format (R278). -/
def rowBytesOf (fmt n : Nat) : Nat := if fmtBlock fmt then n + n / 32 else n * fmtBytes fmt

def Desc.rb (d : Desc) : Nat := rowBytesOf d.fmt d.n0
def Desc.rows (d : Desc) : Nat := d.n1 * d.n2 * d.n3
def Desc.elems (d : Desc) : Nat := d.n0 * d.rows

def minI (a b : Int) : Int := if a ≤ b then a else b
def maxI (a b : Int) : Int := if a ≤ b then b else a

/-- The extent, lowest byte (R278). -/
def Desc.lo (d : Desc) : Int :=
  (d.base : Int) + minI 0 (((d.n1 : Int) - 1) * d.s1) + minI 0 (((d.n2 : Int) - 1) * d.s2)
    + minI 0 (((d.n3 : Int) - 1) * d.s3)

/-- The extent, highest byte. -/
def Desc.hi (d : Desc) : Int :=
  (d.base : Int) + maxI 0 (((d.n1 : Int) - 1) * d.s1) + maxI 0 (((d.n2 : Int) - 1) * d.s2)
    + maxI 0 (((d.n3 : Int) - 1) * d.s3) + (d.rb : Int) - 1

/-- Byte offset of the row at (i1, i2, i3). -/
def Desc.rowAt (d : Desc) (i1 i2 i3 : Nat) : Int :=
  (d.base : Int) + (i1 : Int) * d.s1 + (i2 : Int) * d.s2 + (i3 : Int) * d.s3

/-- Byte offset of row `i`, rows numbered under R557. -/
def Desc.row (d : Desc) (i : Nat) : Int := d.rowAt (i % d.n1) (i / d.n1 % d.n2) (i / (d.n1 * d.n2))

def Desc.reads (d : Desc) : Bool := bit d.access.toNat 0
def Desc.writes (d : Desc) : Bool := bit d.access.toNat 1
def Desc.isScratch (d : Desc) : Bool := d.space = 0
def Desc.isStack (d : Desc) : Bool := d.space = 1
def Desc.isDie (d : Desc) : Bool := 2 ≤ d.space.toNat && d.space.toNat ≤ 4
def Desc.isOwned (d : Desc) : Bool := d.space = 5

/-- The bytes per cycle of a descriptor's space: 128 per bank, 400 for the stack, 1,024 for a die (R152,
R198, R290, R341). -/
def Desc.width (d : Desc) : Nat :=
  if d.isScratch then 128 * popCount 16 d.banks.toNat else if d.isStack then 400 else if d.isOwned then 512 else 1024

/-- Whether an absent or never loaded descriptor register is meant (R329). -/
def Desc.absent (d : Desc) : Bool := d.access = 0

/-! ### Faults named in one word -/

def flt (code : Nat) (a : Nat := 0) (b : Nat := 0) : Flt := ⟨BitVec.ofNat 8 code, BitVec.ofNat 32 a, BitVec.ofNat 32 b⟩

def fBadOpcode : Flt := flt 0x01
def fBadOperand : Flt := flt 0x02
def fBadFormat : Flt := flt 0x03
def fBadShape : Flt := flt 0x04
def fBadDispatch : Flt := flt 0x07
def fBadIndex : Flt := flt 0x0A
def fProtection : Flt := flt 0x0B

/-! ### Addresses (R279, R280, R282, R285) -/

/-- Scratchpad flat address of byte `x` of a bank set; none outside the set (R279). -/
def scratchAt (banks : BitVec 16) (x : Nat) : Option Nat :=
  let bs := bitsOf 16 banks.toNat
  let nb := bs.length
  if nb = 0 then none
  else
    let l := x / 128
    let off := l / nb * 128 + x % 128
    match bs[l % nb]? with
    | some bank => if off < 0x300000 then some (bank * 0x300000 + off) else none
    | none => none

/-- A byte's place: space and address there, with its check (R279, R280, R285, R286). -/
def Blk.byteAt (b : Blk) (n : PartId) (d : Desc) (x : Int) : Except Flt (Space × Nat) :=
  if x < 0 then .error fProtection
  else
    let a := x.toNat
    if d.isScratch then
      if b.start.regime && (d.banks.toNat &&& b.partBanks n) != d.banks.toNat then .error fProtection
      else match scratchAt d.banks a with
        | some f => .ok (.scratch, f)
        | none => .error fProtection
    else if d.isStack then
      let r := b.region n (field a 39 36)
      let off := field a 35 0
      if b.start.regime && !(r.valid && off < r.len && a < 2 ^ 40) then .error fProtection
      else .ok (.stack, r.start + off)
    else if d.isDie then
      let die := d.space.toNat - 2
      let base := fld (b.reg 0x380 die) 27 0 * 4096
      let len := fld (b.reg 0x390 die) 23 0 * 4096
      if b.start.regime && !(base ≤ a && a < base + len) then .error fProtection
      else .ok (.die (BitVec.ofNat 2 die), a)
    else .error fProtection

/-- A protected scratchpad word as a read meets it (R55): bytes of the word, or uncorrectable. -/
def Mem.word (m : Mem) (w : Nat) : Option (List Byte) :=
  let stored := m.scratch.rdBytes (4 * w) 4
  match m.flips.find w with
  | none => some stored
  | some mask =>
    let data := BitVec.ofNat 32 (leNat stored)
    let check := eccCheck data
    match eccRead (data ^^^ BitVec.ofNat 32 mask) (check ^^^ field mask 38 32) with
    | .clean v => some (toLe 4 v.toNat)
    | .corrected v => some (toLe 4 v.toNat)
    | .uncorrectable => none

/-- Key of a word of a protected array. -/
def hurtKey (u w : Nat) : Nat := u * 2 ^ 40 + w

/-- Damaged words of an array that meet a test, with their masks. -/
def vecLen : Nat := 1024

/-- The first word of a v register in unit 23 (log 58). -/
def vWord (p : Site) (r : BitVec 4) : Nat := ((p.ctx.toNat * 4 + p.queue.toNat) * 16 + r.toNat) * vecLen

/-- Reading v registers. -/
def readVs (p : Site) (l : List (BitVec 5)) : List Fx := l.map fun r => .read 23 (vWord p (BitVec.ofNat 4 r.toNat)) vecLen

/-- The first word of an array of unit 22 that a context uses (log 58). -/
def otherWord (k : Nat) (c : CtxId) : Nat := k * 2 ^ 38 + c.toNat * 2 ^ 20

/-- Reading an array of unit 22 that a context uses: 0 the score buffer, 1 its capacity ledger, 2 its tally set (log 58). -/
def readOther (k : Nat) (c : CtxId) : Fx := .read 22 (otherWord k c) (2 ^ 20)

def Mem.hurtOf (m : Mem) (u : Nat) (p : Nat → Bool) : List (Nat × Nat) :=
  (m.hurt.filter fun h => h.1 / 2 ^ 40 = u && p (h.1 % 2 ^ 40)).map fun h => (h.1 % 2 ^ 40, h.2)

/-- Words of an array are written: they hold no damage. -/
def Mem.freshen (m : Mem) (u : Nat) (p : Nat → Bool) : Mem :=
  { m with hurt := m.hurt.filter fun h => !(h.1 / 2 ^ 40 = u && p (h.1 % 2 ^ 40)) }

/-- A word of an array as a read meets it, where it is usable. -/
def Mem.arrayWord (m : Mem) (u w : Nat) (v : Word) : Word :=
  match m.hurt.find (hurtKey u w) with
  | some mask => v ^^^ (hurtRead mask).getD 0
  | none => v

/-- Words of an array from a word number on, as reads meet them. -/
def Mem.arrayWords (m : Mem) (u at' : Nat) (vs : List Word) : List Word :=
  if (m.hurtOf u fun w => at' ≤ w && w < at' + vs.length).isEmpty then vs
  else vs.zipIdx.map fun q => m.arrayWord u (at' + q.2) q.1

/-- Bytes of an array from a word number on, as reads meet them. -/
def Mem.arrayBytes (m : Mem) (u at' : Nat) (bs : List Byte) : List Byte :=
  if (m.hurtOf u fun w => at' ≤ w && w < at' + ceilDiv bs.length 4).isEmpty then bs
  else ((pieces 4 bs).zipIdx.flatMap fun q =>
    (toLe 4 (m.arrayWord u (at' + q.2) (BitVec.ofNat 32 (leNat q.1))).toNat).take q.1.length)

/-- Read one byte of a space (R55, R514, R540). A die space is not readable. -/
def Mem.byte (m : Mem) (sp : Space) (a : Nat) : Except Flt Byte :=
  match sp with
  | .scratch =>
    match m.word (a / 4) with
    | some bs => .ok (bs.getD (a % 4) 0)
    | none => .error (flt 0x10)
  | .stack =>
    if m.badMac.contains (a / 64) then .error (flt 0x10 0x40)
    else if m.poison.contains (a / 64) then .error (flt 0x10 0x41)
    else .ok (m.stack.rd a)
  | .die _ => .error fProtection

/-- Results of a list, or the first failure. -/
def allOk {ε α : Type} : List (Except ε α) → Except ε (List α)
  | [] => .ok []
  | .error e :: _ => .error e
  | .ok v :: rest =>
    match allOk rest with
    | .error e => .error e
    | .ok vs => .ok (v :: vs)

/-- `len` bytes of a descriptor's space from byte offset `x`. -/
def Blk.bytesAt (b : Blk) (n : PartId) (d : Desc) (x : Int) (len : Nat) : Except Flt (List Byte) :=
  allOk ((List.range len).map fun (i : Nat) =>
    match b.byteAt n d (x + (i : Int)) with
    | .error e => .error e
    | .ok (sp, a) => b.mem.byte sp a)

/-- Stack window bytes, as the dispatcher's own units read them. -/
def Blk.window (b : Blk) (a len : Nat) : Except Flt (List Byte) :=
  allOk ((List.range len).map fun (i : Nat) => b.mem.byte .stack (a + i))

/-! ### Elements -/

/-- An FP32 word of a narrow element; FP32 and INT32 words stand as stored, INT8 is sign-extended. -/
def widenElem (fmt : Nat) (bits : Nat) : Word :=
  if fmt = 4 || fmt = 8 then BitVec.ofNat 32 bits
  else if fmt = 7 then (BitVec.ofNat 8 bits).signExtend 32
  else toF32 ((fmtOf fmt).val bits)

/-- The elements of a row's bytes (R31 to R33), as 32-bit words. -/
def decodeRow (fmt n : Nat) (bs : List Byte) : List Word :=
  if fmtBlock fmt then
    (List.range n).map fun i =>
      toF32 (scaled ((fmtOf fmt).val (bs.getD i 0).toNat) (bs.getD (n + i / 32) 0).toNat)
  else
    (List.range n).map fun i => widenElem fmt (leNat ((bs.drop (i * fmtBytes fmt)).take (fmtBytes fmt)))

/-- One element narrowed to a format, and whether it saturated (R34, R35, R38). -/
def narrowElem (fmt : Nat) (sat : Bool) (w : Word) : Nat × Bool :=
  if fmt = 4 || fmt = 8 then (w.toNat, false)
  else if fmt = 7 then
    let v := sInt w
    let c : Int := if v < -128 then -128 else if 127 < v then 127 else v
    ((BitVec.ofInt 8 c).toNat, c != v)
  else (fmtOf fmt).round sat (valOf w)

/-- The bytes of a row of words in a format, and how many conversions saturated (R40). -/
def encodeRow (fmt : Nat) (sat : Bool) (xs : List Word) : List Byte × Nat :=
  if fmtBlock fmt then
    let qs := (pieces 32 xs).map (quantBlock (fmtOf fmt) sat)
    (qs.flatMap (·.1) ++ qs.map (·.2.1), sumL (qs.map (·.2.2)))
  else
    let rs := xs.map (narrowElem fmt sat)
    (rs.flatMap fun r => toLe (fmtBytes fmt) r.1, (rs.filter (·.2)).length)

/-- Conversions of a row that give NaN from an element that is none (R35, R39, R40): only OFP8 has them. -/
def encodeNans (fmt : Nat) (sat : Bool) (xs : List Word) : Nat :=
  if fmt = 2 || fmt = 3 || fmt = 5 || fmt = 6 then
    ((xs.zip (decodeRow fmt xs.length (encodeRow fmt sat xs).1)).filter fun q => isNaN32 q.2 && !isNaN32 q.1).length
  else 0

/-- A row of a descriptor by number (R557). -/
def Blk.rowBytes (b : Blk) (n : PartId) (d : Desc) (i : Nat) : Except Flt (List Byte) :=
  b.bytesAt n d (d.row i) d.rb

def Blk.rowWords (b : Blk) (n : PartId) (d : Desc) (i : Nat) : Except Flt (List Word) :=
  match b.rowBytes n d i with
  | .error e => .error e
  | .ok bs => .ok (decodeRow d.fmt d.n0 bs)

/-- The first `count` elements in element order (R558). -/
def Blk.elemWords (b : Blk) (n : PartId) (d : Desc) (count : Nat) : Except Flt (List Word) :=
  match allOk ((List.range (ceilDiv count d.n0)).map (b.rowWords n d)) with
  | .error e => .error e
  | .ok rows => .ok (rows.flatMap id |>.take count)

/-- The write effects of bytes at byte offset `x` of a descriptor's space, merged into runs. -/
def mergeRuns : List (Space × Nat × Byte) → List (Space × Nat × List Byte)
  | [] => []
  | (sp, a, v) :: rest =>
    match mergeRuns rest with
    | (sp', a', vs) :: more => if sp = sp' && a' = a + 1 then (sp, a, v :: vs) :: more else (sp, a, [v]) :: (sp', a', vs) :: more
    | [] => [(sp, a, [v])]

/-- Writing bytes through a descriptor: the runs to write, or the failure of a generated address. -/
def Blk.storeAt (b : Blk) (n : PartId) (d : Desc) (x : Int) (bs : List Byte) : List Fx :=
  match allOk (bs.zipIdx.map fun p =>
      match b.byteAt n d (x + (p.2 : Int)) with
      | .error e => .error e
      | .ok (sp, a) => .ok (sp, a, p.1)) with
  | .error e => [.fault e]
  | .ok l => (mergeRuns l).map fun r => .write r.1 r.2.1 r.2.2

/-- Writing row `i` of a descriptor. -/
def Blk.storeRow (b : Blk) (n : PartId) (d : Desc) (i : Nat) (bs : List Byte) : List Fx :=
  b.storeAt n d (d.row i) bs

/-- Writing consecutive elements in element order from element 0. -/
def Blk.storeElems (b : Blk) (n : PartId) (d : Desc) (sat : Bool) (xs : List Word) : List Fx :=
  (pieces d.n0 xs).zipIdx.flatMap fun p => b.storeRow n d p.2 (encodeRow d.fmt sat p.1).1

/-- Writing bytes at a byte offset of a descriptor's elements taken in element order. -/
def Blk.storeFlat (b : Blk) (n : PartId) (d : Desc) (off : Nat) (bs : List Byte) : List Fx :=
  if d.rb = 0 then []
  else
    let head := Nat.min bs.length (d.rb - off % d.rb)
    let first := if head = 0 then [] else b.storeAt n d (d.row (off / d.rb) + ((off % d.rb : Nat) : Int)) (bs.take head)
    first ++ (pieces d.rb (bs.drop head)).zipIdx.flatMap fun p => b.storeAt n d (d.row (off / d.rb + 1 + p.2)) p.1

/-- Reading bytes at a byte offset of a descriptor's elements taken in element order. -/
def Blk.loadFlat (b : Blk) (n : PartId) (d : Desc) (off len : Nat) : Except Flt (List Byte) :=
  if d.rb = 0 then .ok []
  else
    match allOk ((List.range (ceilDiv (off % d.rb + len) d.rb)).map fun k => b.rowBytes n d (off / d.rb + k)) with
    | .error e => .error e
    | .ok rows => .ok (((rows.flatMap id).drop (off % d.rb)).take len)

/-- Bytes that a descriptor's elements take. -/
def Desc.covers (d : Desc) : Nat := d.rows * d.rb

/-! ### Creation checks (R283 to R285) -/

/-- Sort dimension pairs by stride magnitude, smallest first. -/
def Desc.dims (d : Desc) : List (Nat × Nat) :=
  sortBy (fun a b => a.2 < b.2)
    (([(d.n1, d.s1.natAbs), (d.n2, d.s2.natAbs), (d.n3, d.s3.natAbs)]).filter fun p => 1 < p.1)

/-- The overlap test of R284. -/
def Desc.distinct (d : Desc) : Bool :=
  (d.dims.foldl (fun (st : Bool × Nat) p => (st.1 && st.2 ≤ p.2, st.2 + (p.1 - 1) * p.2)) (true, d.rb)).1

/-- Whether a range of STACK addresses lies inside one valid region of a partition (R285, R335). -/
def Blk.inRegion (b : Blk) (n : PartId) (lo hi : Int) (owned : Option Bool) : Bool :=
  if lo < 0 || (2 ^ 40 : Int) ≤ hi then false
  else
    let r := b.region n (field lo.toNat 39 36)
    r.valid && field lo.toNat 39 36 = field hi.toNat 39 36 && field hi.toNat 35 0 < r.len
      && (match owned with
          | none => true
          | some o => r.owned = o)

/-- The allocation check of DIRECT (R285). -/
def Blk.allocated (b : Blk) (n : PartId) (d : Desc) : Bool :=
  if d.isScratch then
    0 ≤ d.lo && (d.banks.toNat &&& b.partBanks n) = d.banks.toNat
      && d.hi < (popCount 16 d.banks.toNat * 0x300000 : Nat)
  else if d.isStack then b.inRegion n d.lo d.hi none
  else true

/-- Whether a DIE-space descriptor meets R282. -/
def Blk.dieOk (b : Blk) (d : Desc) : Bool :=
  let die := d.space.toNat - 2
  let base := fld (b.reg 0x380 die) 27 0 * 4096
  let len := fld (b.reg 0x390 die) 23 0 * 4096
  d.access = 2 && 1 ≤ d.rank.toNat && d.rank.toNat ≤ 2 && (base : Int) ≤ d.lo && d.hi < (base + len : Nat)

/-- The faults a descriptor image meets at `tset` (R277, R283, R285, R298). -/
def Blk.tsetFaults (b : Blk) (n : PartId) (d : Desc) : List Flt :=
  let above := fun (k : Nat) (nk : Nat) (sk : Int) => d.rank.toNat ≤ k && (nk != 1 || sk != 0)
  let shape := d.rank = 0 || 4 < d.rank.toNat || d.n0 = 0 || d.n1 = 0 || d.n2 = 0 || d.n3 = 0
    || above 1 d.n1 d.s1 || above 2 d.n2 d.s2 || above 3 d.n3 d.s3
    || (d.block && d.n0 % 32 != 0) || 2 ^ 32 < d.elems
    || [d.s1, d.s2, d.s3].any (fun s => 2 ^ 39 ≤ s.natAbs || s % 4 != 0) || d.base % 4 != 0
  let format := 5 < d.space.toNat || 8 < d.fmt || 2 < d.clamp.toNat || 2 ^ 40 ≤ d.base || 4 ≤ d.access.toNat
    || d.access = 0 || d.rsv != 0 || (if d.isOwned then 4 ≤ d.ereg.toNat else d.ereg != 0)
  let operand := (d.isScratch && d.banks = 0) || (!d.isScratch && d.banks != 0)
    || (d.writes && !d.isOwned && !d.distinct) || (d.isDie && !b.dieOk d)
  (if operand then [fBadOperand] else []) ++ (if format then [fBadFormat] else [])
    ++ (if shape || (!b.start.regime && !b.allocated n d) then [fBadShape] else [])

/-- The banks that bytes of a bank set touch (R279). -/
def spanBanks (banks : BitVec 16) (lo len : Nat) : BitVec 16 :=
  let bs := bitsOf 16 banks.toNat
  let nb := bs.length
  if nb = 0 || len = 0 then 0
  else BitVec.ofNat 16 (maskOf ((List.range (Nat.min nb ((lo + len - 1) / 128 - lo / 128 + 1))).map fun i =>
    bs.getD ((lo / 128 + i) % nb) 0))

/-- The banks that a scratchpad descriptor's rows touch. -/
def Desc.touched (d : Desc) : BitVec 16 :=
  (List.range d.rows).foldl (fun m i => m ||| spanBanks d.banks (d.row i).toNat d.rb) 0

/-- The range of bytes a descriptor covers, in its space's addresses. -/
def Blk.rangeOf (b : Blk) (n : PartId) (d : Desc) : List Range :=
  let len := (d.hi - d.lo + 1).toNat
  let moved := d.rows * d.rb
  if d.isScratch then [⟨.scratch, d.banks, d.touched, d.lo.toNat, len, moved⟩]
  else if d.isStack then
    let r := b.region n (field d.lo.toNat 39 36)
    [⟨.stack, 0, 0, r.start + field d.lo.toNat 35 0, len, moved⟩]
  else if d.isDie then [⟨.die (BitVec.ofNat 2 (d.space.toNat - 2)), 0, 0, d.lo.toNat, len, moved⟩]
  else []

/-- First byte and length, in a bank, of the bytes that a range of a bank set holds there: they are one run, since only
the range's first and last line are met in part (R279). Empty where the set lacks the bank. -/
def bankRun (banks : BitVec 16) (bank lo len : Nat) : Nat × Nat :=
  let bs := bitsOf 16 banks.toNat
  let nb := bs.length
  match findIdx (fun k => k = bank) bs with
  | none => (0, 0)
  | some j =>
    let first := lo / 128
    let last := (lo + len - 1) / 128
    let f := first + (j + nb - first % nb) % nb
    if len = 0 || last < f then (0, 0)
    else
      let g := last - (last % nb + nb - j) % nb
      let start := f / nb * 128 + (if f = first then lo % 128 else 0)
      let stop := g / nb * 128 + (if g = last then (lo + len - 1) % 128 + 1 else 128)
      (start, stop - start)

/-- Whether two ranges share a byte; bank sets that differ are compared bank by bank. -/
def Range.meets (x y : Range) : Bool :=
  x.sp = y.sp &&
    (if x.sp = .scratch && x.banks != y.banks then
      (bitsOf 16 x.banks.toNat).any fun k =>
        meet (bankRun x.banks k x.lo x.len).1 (bankRun x.banks k x.lo x.len).2
          (bankRun y.banks k y.lo y.len).1 (bankRun y.banks k y.lo y.len).2
    else meet x.lo x.len y.lo y.len)

/-- Whether two lists of ranges share a byte. -/
def rangesMeet (xs ys : List Range) : Bool := xs.any fun x => ys.any fun y => x.meets y

/-- Scratchpad banks a descriptor's extent touches (R156). -/
def Desc.bankMask (d : Desc) : BitVec 16 := if d.isScratch then d.banks else 0

end Sys2Proof.Machine
end

