-- ==== Sys2Proof/Decode.lean ====
section
/-! DEFINITION. Decode: the opcode table of the block gives no row any bits, so no word of the table spells a
command (spec/opcode_table.json). The Brodip instructions do have words, 8 B queue entries (13 R323, R327, R330):
`decodeBrodip` reads the command that presents an entry, `encodeBrodip` gives the entry of a command. -/

namespace Sys2Proof
open Machine

/-- The command a word spells by the table's bits: none, for no row has any. -/
def decodeTableWord (_nbits _w : Nat) : Option Instr := none

/-- The command that presents the queue entry `w` at the head of a queue; `next` is the entry after it, which a
`score` or `hash` is checked against (R98). A reserved opcode is a command too: it faults (R324). -/
def decodeBrodip (p : Site) (w next : Quad) : Instr :=
  match opcodeOf w with
  | 0x01 => .li p (decI w)
  | 0x02 => .mov p (decR w)
  | 0x03 => .add p (decR w)
  | 0x04 => .sub p (decR w)
  | 0x05 => .mul p (decR w)
  | 0x06 => .and p (decR w)
  | 0x07 => .or p (decR w)
  | 0x08 => .xor p (decR w)
  | 0x09 => .shl p (decR w)
  | 0x0A => .shr p (decR w)
  | 0x0B => .cmp p (decR w)
  | 0x0C => .pclr p (decI w)
  | 0x0D => .br p (decI w)
  | 0x0E => .loop p (decI w)
  | 0x0F => .loopv p (decI w)
  | 0x10 => .halt p (decI w)
  | 0x11 => .tset p (decI w)
  | 0x18 => .wait p (decI w)
  | 0x19 => .barrier p (decR w)
  | 0x1A => .epochBind p (decI w)
  | 0x1B => .epochFlip p (decR w)
  | 0x1C => .epochHold p (decR w)
  | 0x1D => .epochRelease p (decR w)
  | 0x1F => .govPhase p (decR w)
  | 0x20 => .scoreBf16 p (decR w) next
  | 0x21 => .scoreFp16 p (decR w) next
  | 0x22 => .scoreOfp8 p (decR w) next
  | 0x23 => .hash p (decR w) next
  | 0x28 => .select p (decR w)
  | 0x29 => .sample p (decR w)
  | 0x30 => .place p (decR w)
  | 0x31 => .count p (decR w)
  | 0x32 => .scan p (decR w)
  | 0x38 => .send p (decR w)
  | 0x39 => .permute p (decR w)
  | 0x3A => .gather p (decR w)
  | 0x3B => .scatter p (decR w)
  | 0x40 => .combineBf16 p (decC w)
  | 0x41 => .combineFp16 p (decC w)
  | 0x42 => .combineFp32 p (decC w)
  | 0x48 => .foldStart p (decR w)
  | 0x49 => .foldWait p (decR w)
  | 0x4A => .foldSettle p (decR w)
  | 0x4C => .cometReduce p (decR w)
  | 0x4D => .cometBarrier p (decR w)
  | 0x50 => .vld p (decR w)
  | 0x51 => .vst p (decR w)
  | 0x52 => .vbcast p (decR w)
  | 0x53 => .vadd p (decR w)
  | 0x54 => .vsub p (decR w)
  | 0x55 => .vmul p (decR w)
  | 0x56 => .vfma p (decR w)
  | 0x57 => .vmax p (decR w)
  | 0x58 => .vmin p (decR w)
  | 0x59 => .vcmp p (decR w)
  | 0x5A => .vsel p (decR w)
  | 0x5B => .vcvt p (decR w)
  | 0x60 => .exp p (decR w)
  | 0x61 => .log p (decR w)
  | 0x62 => .recip p (decR w)
  | 0x63 => .rsqrt p (decR w)
  | 0x64 => .sigmoid p (decR w)
  | 0x65 => .tanh p (decR w)
  | 0x66 => .gelu p (decR w)
  | 0x67 => .silu p (decR w)
  | 0x68 => .softplus p (decR w)
  | 0x69 => .sin p (decR w)
  | 0x6A => .cos p (decR w)
  | 0x6B => .swiglu p (decR w)
  | 0x70 => .normStat p (decR w)
  | 0x71 => .normApply p (decR w)
  | 0x72 => .normMax p (decR w)
  | 0x73 => .normSum p (decR w)
  | 0x74 => .normScale p (decR w)
  | 0x78 => .mixSeed p (decR w)
  | 0x79 => .mixDraw p (decR w)
  | _ => .reservedOpcode p w

/-- The queue entry of an instruction, for the commands that present one (R330). -/
def encodeBrodip : Instr → Option Quad
  | .li _ f => some (encI 0x01 f)
  | .mov _ f => some (encR 0x02 f)
  | .add _ f => some (encR 0x03 f)
  | .sub _ f => some (encR 0x04 f)
  | .mul _ f => some (encR 0x05 f)
  | .and _ f => some (encR 0x06 f)
  | .or _ f => some (encR 0x07 f)
  | .xor _ f => some (encR 0x08 f)
  | .shl _ f => some (encR 0x09 f)
  | .shr _ f => some (encR 0x0A f)
  | .cmp _ f => some (encR 0x0B f)
  | .pclr _ f => some (encI 0x0C f)
  | .br _ f => some (encI 0x0D f)
  | .loop _ f => some (encI 0x0E f)
  | .loopv _ f => some (encI 0x0F f)
  | .halt _ f => some (encI 0x10 f)
  | .tset _ f => some (encI 0x11 f)
  | .wait _ f => some (encI 0x18 f)
  | .barrier _ f => some (encR 0x19 f)
  | .epochBind _ f => some (encI 0x1A f)
  | .epochFlip _ f => some (encR 0x1B f)
  | .epochHold _ f => some (encR 0x1C f)
  | .epochRelease _ f => some (encR 0x1D f)
  | .govPhase _ f => some (encR 0x1F f)
  | .scoreBf16 _ f _ => some (encR 0x20 f)
  | .scoreFp16 _ f _ => some (encR 0x21 f)
  | .scoreOfp8 _ f _ => some (encR 0x22 f)
  | .hash _ f _ => some (encR 0x23 f)
  | .select _ f => some (encR 0x28 f)
  | .sample _ f => some (encR 0x29 f)
  | .place _ f => some (encR 0x30 f)
  | .count _ f => some (encR 0x31 f)
  | .scan _ f => some (encR 0x32 f)
  | .send _ f => some (encR 0x38 f)
  | .permute _ f => some (encR 0x39 f)
  | .gather _ f => some (encR 0x3A f)
  | .scatter _ f => some (encR 0x3B f)
  | .combineBf16 _ f => some (encC 0x40 f)
  | .combineFp16 _ f => some (encC 0x41 f)
  | .combineFp32 _ f => some (encC 0x42 f)
  | .foldStart _ f => some (encR 0x48 f)
  | .foldWait _ f => some (encR 0x49 f)
  | .foldSettle _ f => some (encR 0x4A f)
  | .cometReduce _ f => some (encR 0x4C f)
  | .cometBarrier _ f => some (encR 0x4D f)
  | .vld _ f => some (encR 0x50 f)
  | .vst _ f => some (encR 0x51 f)
  | .vbcast _ f => some (encR 0x52 f)
  | .vadd _ f => some (encR 0x53 f)
  | .vsub _ f => some (encR 0x54 f)
  | .vmul _ f => some (encR 0x55 f)
  | .vfma _ f => some (encR 0x56 f)
  | .vmax _ f => some (encR 0x57 f)
  | .vmin _ f => some (encR 0x58 f)
  | .vcmp _ f => some (encR 0x59 f)
  | .vsel _ f => some (encR 0x5A f)
  | .vcvt _ f => some (encR 0x5B f)
  | .exp _ f => some (encR 0x60 f)
  | .log _ f => some (encR 0x61 f)
  | .recip _ f => some (encR 0x62 f)
  | .rsqrt _ f => some (encR 0x63 f)
  | .sigmoid _ f => some (encR 0x64 f)
  | .tanh _ f => some (encR 0x65 f)
  | .gelu _ f => some (encR 0x66 f)
  | .silu _ f => some (encR 0x67 f)
  | .softplus _ f => some (encR 0x68 f)
  | .sin _ f => some (encR 0x69 f)
  | .cos _ f => some (encR 0x6A f)
  | .swiglu _ f => some (encR 0x6B f)
  | .normStat _ f => some (encR 0x70 f)
  | .normApply _ f => some (encR 0x71 f)
  | .normMax _ f => some (encR 0x72 f)
  | .normSum _ f => some (encR 0x73 f)
  | .normScale _ f => some (encR 0x74 f)
  | .mixSeed _ f => some (encR 0x78 f)
  | .mixDraw _ f => some (encR 0x79 f)
  | .reservedOpcode _ w => some w
  | _ => none

end Sys2Proof
end

