-- ==== Sys2Proof/Machine/Ops.lean ====
section
/-! DEFINITION. Ops: the named operations every meaning is written over: records of the fault and event
stream (13 R350, 17 R419), counters (14 R378, 22 R550), contexts and queues (12, 14), table references
(03 R69), and memory writes (02 R56, 03 R75). -/

namespace Sys2Proof.Machine
open Sys2Proof

/-- A block reset or an AON reset holds the block domain (21 R522, R527). -/
def Blk.inReset (b : Blk) : Bool := b.start.held || b.start.stage == 0

/-- The stages DIRECT and SERVICE, in which the block works (21 R528, R530). -/
def Blk.working (b : Blk) : Bool := b.start.stage == 6 || b.start.stage == 7

/-! ### Outputs, free values, edges and records -/

def Blk.send (b : Blk) (o : Out) : Blk := { b with out := b.out ++ [o] }

def Blk.sends (b : Blk) (l : List Out) : Blk := { b with out := b.out ++ l }

/-- `n` free bytes: contents the spec calls undefined (log 9). -/
def Blk.freeBytes (b : Blk) (n : Nat) : List Byte := (List.range n).map (Config.freeByte b.free)

def Blk.draw (b : Blk) : Blk := { b with free := b.free + 1 }

/-- An edge FIFO after reset. -/
def EdgeSt.clear : EdgeSt := ⟨0, 0, false, false, [], 0⟩

def Blk.edge (b : Blk) (n : Nat) : EdgeSt := b.edges.get n EdgeSt.clear

def Blk.setEdge (b : Blk) (n : Nat) (e : EdgeSt) : Blk := { b with edges := b.edges.put n e }

/-- Items that an edge holds (17 R414). -/
def edgeDepth (n : Nat) : Nat :=
  if n < 12 then 32 else if n < 56 then 16 else if n < 58 then 128 else if n < 60 then 16 else if n = 60 then 512 else 1024

/-- A good item is written and committed; into a full DATA edge its writer holds it (17 R415, R418). -/
def EdgeSt.commit (e : EdgeSt) (depth : Nat) (item : List Word) : EdgeSt :=
  if e.items.length < depth then { e with items := e.items ++ [item] } else e

/-- The oldest committed item is read; of an empty FIFO the word read last (17 R417). -/
def EdgeSt.read (e : EdgeSt) : List Word × EdgeSt :=
  match e.items with
  | [] => ([e.last], { e with underrun := true })
  | x :: rest => (x, { e with items := rest, last := (x.getLast?).getD e.last })

/-- An item goes through an edge: written, committed, and read upon its notice (17 R415, R417). -/
def Blk.through (b : Blk) (n : Nat) (item : List Word) : List Word × Blk :=
  let r := ((b.edge n).commit (edgeDepth n) item).read
  (r.1, b.setEdge n r.2)

/-- A record enters the fault and event stream, edge 60, of 512 records: when it is full the oldest event
is overwritten, or the oldest fault where there is nothing but faults (17 R419). -/
def Blk.post (b : Blk) (r : Rec) : Blk :=
  let b := { b with posted := b.posted ++ [r] }
  if b.evts.length < 512 then { b with evts := b.evts ++ [r] }
  else
    let e := b.edge 60
    let faultsOnly := b.evts.all fun x => !x.event
    let kept := if faultsOnly then b.evts.drop 1 else dropFirst (fun x => x.event) b.evts
    { b.setEdge 60 { e with lost := satAdd e.lost 1, faultLost := e.faultLost || faultsOnly }
      with evts := kept ++ [r] }

/-- An event that concerns no context: code, details A, B, C (R350). -/
def Blk.event (b : Blk) (code : Nat) (a : Nat := 0) (bb : Nat := 0) (c : Nat := 0) : Blk :=
  b.post { code := BitVec.ofNat 8 code, event := true, ctx := none, queue := 0, word1 := BitVec.ofNat 32 c,
           insn := 0, a := BitVec.ofNat 32 a, b := BitVec.ofNat 32 bb, cycle := b.cycle }

/-- An event that concerns a context. -/
def Blk.ctxEvent (b : Blk) (code : Nat) (c : CtxId) (q : BitVec 2 := 0) (a : Nat := 0) (bb : Nat := 0)
    (w1 : Word := 0) (insn : Quad := 0) : Blk :=
  b.post { code := BitVec.ofNat 8 code, event := true, ctx := some c, queue := q, word1 := w1,
           insn := insn, a := BitVec.ofNat 32 a, b := BitVec.ofNat 32 bb, cycle := b.cycle }

/-- The record of a fault in a context (R349, R350). -/
def Blk.faultRec (b : Blk) (c : CtxId) (q : BitVec 2) (idx : Word) (w : Quad) (f : Flt) : Blk :=
  b.post { code := f.code, event := false, ctx := some c, queue := q, word1 := idx, insn := w, a := f.a,
           b := f.b, cycle := b.cycle }

/-- The eight words of a record (R350). -/
def Rec.bytes (r : Rec) : List Byte :=
  let w0 := put 31 24 r.code.toNat + put 23 23 (b01 r.event) + put 22 22 (b01 r.ctx.isSome)
    + put 21 20 r.queue.toNat + (match r.ctx with
        | some c => c.toNat
        | none => 0)
  toLe 4 w0 ++ toLe 4 r.word1.toNat ++ toLe 8 r.insn.toNat ++ toLe 4 r.a.toNat ++ toLe 4 r.b.toNat
    ++ toLe 8 r.cycle.toNat

/-! ### Contexts and queues -/

def Blk.ctx (b : Blk) (c : CtxId) : Ctx := b.ctxs.get c.toNat Ctx.reset

def Blk.setCtx (b : Blk) (c : CtxId) (x : Ctx) : Blk := { b with ctxs := b.ctxs.put c.toNat x }

def Blk.modCtx (b : Blk) (c : CtxId) (f : Ctx → Ctx) : Blk := b.setCtx c (f (b.ctx c))

def Ctx.que (x : Ctx) (q : BitVec 2) : Queue := x.queues.rd q

def Ctx.setQue (x : Ctx) (q : BitVec 2) (u : Queue) : Ctx := { x with queues := x.queues.wr q u }

def Blk.que (b : Blk) (p : Site) : Queue := (b.ctx p.ctx).que p.queue

def Blk.modQue (b : Blk) (p : Site) (f : Queue → Queue) : Blk :=
  b.modCtx p.ctx fun x => x.setQue p.queue (f (x.que p.queue))

/-- The four queue numbers. -/
def queueNums : List (BitVec 2) := [0, 1, 2, 3]

/-- Published entries that have not issued. -/
def Queue.left (u : Queue) : Word := u.tail - u.pc

/-- The head index: the start of the outermost enclosing loop, else the next entry (R307, R313). -/
def Queue.head (u : Queue) : Word :=
  match u.loops.reverse with
  | l :: _ => l.start
  | [] => u.pc

/-- Whether a queue has a published, unissued entry that counts under R358: its head has not reached its tail (R309,
R313). -/
def Queue.ready (u : Queue) : Bool := !u.halted && !u.dead && u.tail != u.head

/-- A context whose teardown has begun: its queues are DEAD (R349). -/
def Ctx.torn (x : Ctx) : Bool := x.life == .live && queueNums.all fun q => (x.que q).dead

/-- A context that exists and may run. -/
def Ctx.alive (x : Ctx) : Bool := x.life == .live && !x.torn

/-- The state value of R358. -/
def Blk.ctxState (b : Blk) (c : CtxId) : Nat :=
  let x := b.ctx c
  match x.life with
  | .free => 0
  | .exported => 4
  | .dead => 5
  | .live =>
    if (b.slots.rd x.part).running = some c then 3
    else if queueNums.any fun q => (x.que q).ready then 2 else 1

/-- Commands of a context in flight, suspended ones included (R360). -/
def Blk.inFlight (b : Blk) (c : CtxId) : List Flight := b.flights.filter fun f => f.ctx = c

/-- The contexts the store lists, in number order. -/
def Blk.ctxIds (b : Blk) : List CtxId := b.ctxs.map fun p => BitVec.ofNat 18 p.1

/-- State of a queue as ND_QSTATE shows it (R310). -/
def Queue.state (u : Queue) : Nat :=
  if u.dead then 3 else if u.halted then 2 else if u.tail != u.head then 1 else 0

/-! ### Counters (R378, R550) -/

namespace Cnt
def ledger := 0
def actual := 1
def stretch := 2
def bubble := 3
def stack := 4
def back := 5
def issueWait := 6
def run := 7
def switches := 8
def trumps := 9
def energy := 10
def dieTx := 11
def dieRx := 12
def orbitTx := 13
def orbitRx := 14
def farTx := 15
def farRx := 16
def m0Rd := 17
def m0Wr := 18
def dropped := 19
def spilled := 20
def mooned := 21
def residual := 22
def skew := 23
def discard := 24
def stampSkew := 25
def claims := 26
def bounces := 27
def foldWait := 28
def cometWait := 29
def normClamps := 30
def sampleTrunc := 31
def tensorClamps := 32
def arithNan := 33
def arithSat := 34
def foldDiscard := 0x2200
def foldRetry := 0x2208
def foldCutup := 0x2210
def cometDiscard := 0x2218
def linkDropped := 0x2220
def schedStack := 0x2228
def pwrS1 := 0x2230
def pwrStretch := 0x2238
def dieDroop (n : Nat) := 0x2240 + 8 * n
def egressRing (q : Nat) := 0x2258 + 8 * q
def egressFar (x : Nat) := 0x2298 + 8 * x
end Cnt

/-- Add to an instance counter by offset (R550). -/
def Blk.addInst (b : Blk) (off n : Nat) : Blk :=
  { b with counters := b.counters.upd off 0 (· + BitVec.ofNat 64 n) }

/-- Add to a counter of a context alone (R550: energy and run time). -/
def Blk.addOwn (b : Blk) (c : CtxId) (i n : Nat) : Blk :=
  b.modCtx c fun x => { x with counters := x.counters.upd i 0 (· + BitVec.ofNat 64 n) }

/-- Add to a counter of a context and to its instance counterpart. -/
def Blk.addCtx (b : Blk) (c : CtxId) (i n : Nat) : Blk := (b.addOwn c i n).addInst (0x2000 + 8 * i) n

/-- Add to a context's counter where there is one, and to the instance. -/
def Blk.addFor (b : Blk) (c : Option CtxId) (i n : Nat) : Blk :=
  match c with
  | some c => b.addCtx c i n
  | none => b.addInst (0x2000 + 8 * i) n

/-- Conversions counted to a context (02 R39). -/
def Blk.countConv (b : Blk) (c : CtxId) (sats nans : Nat) : Blk :=
  let b := if sats = 0 then b else b.addCtx c Cnt.arithSat sats
  if nans = 0 then b else b.addCtx c Cnt.arithNan nans

/-- A coefficient of the energy model, in 0.1 pJ (18 R472). -/
def Blk.coef (b : Blk) (i : Nat) : Nat := fld (b.reg (0x640 + 4 * i)) 23 0

/-- Activity energy beside that of a command's own ranges and units: the governor's window and a context's counter take it up
as the cycle ends (14 R380; 18 R472). -/
def Blk.burn (b : Blk) (c : Option CtxId) (e : Nat) : Blk :=
  let rest := fun (c : CtxId) => (b.burns.filter fun q => q.1 = c).map (·.2)
  { b with burnt := b.burnt + e,
           burns := match c with
             | some c => (b.burns.filter fun q => q.1 != c) ++ [(c, e + sumL (rest c))]
             | none => b.burns }

/-- Bytes cross a port, in either direction. -/
def Blk.burnPort (b : Blk) (c : Option CtxId) (p : Port) (n : Nat) : Blk :=
  match p with
  | .l _ => b.burn c (b.coef 7 * n)
  | .here => b
  | _ => b.burn c (b.coef 6 * n)

/-- Bytes sent on a port class (R379). -/
def Blk.txBytes (b : Blk) (c : Option CtxId) (p : Port) (n : Nat) : Blk :=
  let b := b.burnPort c p n
  match p with
  | .k _ => b.addFor c Cnt.dieTx n
  | .o _ => b.addFor c Cnt.orbitTx n
  | .l _ => b.addFor c Cnt.farTx n
  | .here => b

/-- Bytes received on a port class. -/
def Blk.rxBytes (b : Blk) (c : Option CtxId) (p : Port) (n : Nat) : Blk :=
  let b := b.burnPort c p n
  match p with
  | .k _ => b.addFor c Cnt.dieRx n
  | .o _ => b.addFor c Cnt.orbitRx n
  | .l _ => b.addFor c Cnt.farRx n
  | .here => b

/-! ### Ports -/

/-- A port's number in ND_LINK_SEL (R449). -/
def Port.ix : Port → BitVec 4
  | .l n => BitVec.ofNat 4 n.toNat
  | .o n => BitVec.ofNat 4 (6 + n.toNat)
  | .k n => BitVec.ofNat 4 (8 + n.toNat)
  | .here => 15

/-- The port of a number. -/
def Port.of' (i : BitVec 4) : Port :=
  if i.toNat < 6 then .l (BitVec.ofNat 3 i.toNat)
  else if i.toNat < 8 then .o (BitVec.ofNat 1 (i.toNat - 6))
  else if i.toNat < 11 then .k (BitVec.ofNat 2 (i.toNat - 8))
  else .here

def Blk.link (b : Blk) (i : BitVec 4) : Link := b.links.rd i

def Blk.setLink (b : Blk) (i : BitVec 4) (l : Link) : Blk := { b with links := b.links.wr i l }

def Blk.modLink (b : Blk) (i : BitVec 4) (f : Link → Link) : Blk := b.setLink i (f (b.link i))

/-- Whether the crossing sends through a port: UP or RECOVER (R437). -/
def Blk.usable (b : Blk) (p : Port) : Bool :=
  match p with
  | .here => true
  | p => (b.link p.ix).st == .up || (b.link p.ix).st == .recover

/-! ### Flits (17 R421 to R425, R433, R434, R441) -/

def isFar (i : BitVec 4) : Bool := i.toNat < 6
def isOrbit (i : BitVec 4) : Bool := i.toNat = 6 || i.toNat = 7
def isDiePort (i : BitVec 4) : Bool := 8 ≤ i.toNat && i.toNat ≤ 10
def isPort (i : BitVec 4) : Bool := i.toNat < 11

/-- A flit header (R421). -/
def flitHdr (kind vc len seq ack : Nat) : Word :=
  BitVec.ofNat 32 (put 31 30 kind + put 29 27 vc + put 26 20 len + put 19 10 seq + put 9 0 ack)

/-- A CTRL flit's payload (R434). -/
def ctrlPayload (x : Ctrl) : List Byte :=
  toLe 2 x.flags.toNat ++ toLe 2 x.nakSeq.toNat ++ x.credits.flatMap (fun c => toLe 2 c.toNat) ++ toLe 8 x.block.toNat
    ++ (x.tag ++ List.replicate 16 0).take 16
    ++ toLe 4 (put 9 0 x.mapActive.toNat + put 19 10 x.mapRetired.toNat) ++ toLe 4 x.mapGroup.toNat
    ++ (x.nonce ++ List.replicate 32 0).take 32 ++ toLe 8 x.rekeyAt.toNat ++ List.replicate 156 0

/-- Cumulative credit counts returned for VCs 0 to 7 (R424): 256 B units, messages for COMET. -/
def Link.creditsOut (l : Link) : List (BitVec 16) :=
  (List.range 8).map fun v => BitVec.ofNat 16 (l.returned.rd (BitVec.ofNat 3 v) / (if v = 3 then 1 else 64))

/-- A CTRL flit of a link with nothing flagged. -/
def Link.ctrl (l : Link) : Ctrl :=
  { flags := 0, nakSeq := 0, credits := l.creditsOut, block := 0, tag := [], mapActive := 0, mapRetired := 0, mapGroup := 0,
    nonce := [], rekeyAt := 0 }

/-- Bytes of a flit's payload (R422). -/
def payloadBytes (i : BitVec 4) : Nat := if isFar i then 248 else 256

/-- A payload with its fill of zeros (R423). -/
def fillTo (n : Nat) (bs : List Byte) : List Byte := bs ++ List.replicate (n - bs.length) 0

/-- The words of bytes, little-endian. -/
def wordsOf (bs : List Byte) : List Word := (pieces 4 bs).map fun x => BitVec.ofNat 32 (leNat x)

/-- The bytes of words. -/
def bytesOfWords (ws : List Word) : List Byte := ws.flatMap fun w => toLe 4 w.toNat

/-- The words of a flit as an item of an edge: header, payload, CRC. -/
def itemOf (hdr : Word) (payload : List Byte) (crc : Word) : List Word := hdr :: wordsOf payload ++ [crc]

/-- The CRC of a flit, over its header and payload (R422). -/
def flitCrc (hdr : Word) (payload : List Byte) : Word := crc32 (toLe 4 hdr.toNat ++ payload)

/-- Slices of a port (R426); a far port sends one flit after the other. -/
def slicesOf (i : BitVec 4) : Nat := if isFar i then 1 else if isOrbit i then 2 else 4

/-- The edge of a port's slice, receive or transmit (R414). -/
def linkEdge (i : BitVec 4) (tx : Bool) (slice : Nat) : Nat :=
  let n := i.toNat
  let d := b01 tx
  if n < 6 then 6 * d + n else if n < 8 then 16 + 4 * (n - 6) + 2 * d + slice % 2 else 32 + 8 * (n - 8) + 4 * d + slice % 4

/-- The slice of the next flit: sequenced flits go from slice 0 upward (R427). -/
def Link.nextSlice (l : Link) (i : BitVec 4) : Nat :=
  match l.line.getLast? with
  | some w => (w.slice.toNat + 1) % slicesOf i
  | none => 0

/-- The credit that the next flit of a parallel port carries: the VCs that have freed units take turns (R426). -/
def Link.nextCredit (l : Link) : BitVec 3 × BitVec 16 :=
  let n := fun (v : BitVec 3) => (l.creditsOut[v.toNat]?).getD 0
  let turns := ((List.range 8).map fun k => l.creditTurn + 1 + BitVec.ofNat 3 k).filter fun v => n v != 0
  let v := turns.headD 0
  (v, n v)

/-- A flit goes through its transmit edge onto the wires of its port. -/
def Blk.putWire (b : Blk) (i : BitVec 4) (hdr : Word) (payload : List Byte) : Blk :=
  let l := b.link i
  let s := l.nextSlice i
  let c := if isFar i then (0, 0) else l.nextCredit
  let body := fillTo (payloadBytes i) payload
  let w : Wire := { slice := BitVec.ofNat 2 s, hdr := hdr, payload := body, crc := flitCrc hdr body, creditVc := c.1, credit := c.2,
                    nak := !isFar i && l.owed, nakSeq := if isFar i then 0 else l.expect }
  ((b.through (linkEdge i true s) (itemOf hdr body w.crc)).2).modLink i fun l => { l with line := l.line ++ [w], creditTurn := c.1 }

/-- IDLE flits on the next `n` slices. -/
def Blk.idles : Nat → BitVec 4 → Blk → Blk
  | 0, _, b => b
  | n + 1, i, b => Blk.idles n i (b.putWire i (flitHdr 0 0 0 0 (b.link i).acked.toNat) [])

/-- IDLE flits fill the slices that remain of a cycle (R427). -/
def Blk.fillSlices (b : Blk) (i : BitVec 4) : Blk :=
  let s := (b.link i).nextSlice i
  if s = 0 then b else Blk.idles (slicesOf i - s) i b

/-- A cycle's IDLE flits of a parallel port, with the ack, credit and NAK of their headers and sidebands (R426, R427). -/
def Blk.idleRow (b : Blk) (i : BitVec 4) : Blk := if isFar i then b else Blk.idles (slicesOf i) i b

/-- The 96-bit IV of a block (R441). -/
def blockIv (salt : List Byte) (n : Quad) : List Byte := salt ++ toBe 8 n.toNat

/-- The bytes of flit headers with ack at 0. -/
def bareHdrs (l : List Word) : List Byte := l.flatMap fun h => toLe 4 (h.toNat - fld h 9 0)

/-- The key and salt that a block is sent under: the next ones from the block named in the rekey on (R443). -/
def Session'.txAt (s : Session') (n : Quad) : List Byte × List Byte :=
  match s.rekeyAt with
  | some r => if r.toNat ≤ n.toNat && s.nextTx != [] then (s.nextTx, s.nextSalt) else (s.txKey, s.txSalt)
  | none => (s.txKey, s.txSalt)

/-- The key and salt that a block is received under. -/
def Session'.rxAt (s : Session') (n : Quad) : List Byte × List Byte :=
  match s.peerRekeyAt with
  | some r => if r.toNat ≤ n.toNat && s.nextRx != [] then (s.nextRx, s.nextRxSalt) else (s.rxKey, s.rxSalt)
  | none => (s.rxKey, s.rxSalt)

/-- Cut a text into the pieces of given lengths. -/
def cutBy : List Nat → List Byte → List (List Byte)
  | [], _ => []
  | n :: rest, bs => bs.take n :: cutBy rest (bs.drop n)

/-- The next flit in sequence. -/
def Link.flit (l : Link) (kind vc len : Nat) (owner : Option CtxId) (payload : List Byte) : Sent :=
  { seq := l.sendSeq, hdr := flitHdr kind vc len l.sendSeq.toNat l.acked.toNat, payload := payload, owner := owner, hurt := [] }

/-- Sequenced flits leave: each is kept in the replay buffer and put on the wires (R425). -/
def Blk.sendFlits (b : Blk) (i : BitVec 4) (l : List Sent) : Blk :=
  l.foldl (fun b f => (b.modLink i fun k => { k with replay := k.replay ++ [f] }).putWire i f.hdr f.payload) b

/-- The flits of a block as they are sent under a key: encrypted, and the tag (R441). -/
def sealed (key : List Byte × List Byte) (n : Quad) (l : List Sent) : List Sent × List Byte :=
  let plain := l.flatMap (·.payload)
  let out := gcmSeal key.1 (blockIv key.2 n) (bareHdrs (l.map (·.hdr))) plain
  ((l.zip (cutBy (l.map fun f => f.payload.length) (out.take plain.length))).map fun p => { p.1 with payload := p.2 },
    out.drop plain.length)

/-- Close the block being sent: its flits leave encrypted, and a CTRL flit with SEAL carries the tag (R433, R441). -/
def Blk.sealBlock (b : Blk) (i : BitVec 4) : Blk :=
  let l := b.link i
  let s := l.session
  let r := sealed (s.txAt s.txBlock) s.txBlock l.openBlock
  let x := { l.ctrl with flags := 2, block := s.txBlock, tag := r.2 }
  let close := l.flit 2 0 62 none (ctrlPayload x)
  (b.setLink i { l with sendSeq := l.sendSeq + 1, openBlock := [], session := { s with txBlock := s.txBlock + 1 } }).sendFlits i
    (r.1 ++ [close])

/-- Put up to a flit's bytes of a VC's stream into a DATA flit: on a far link it joins the open block, which closes at 99
flits and behind COMET bytes (R423, R433); on a parallel port it is sent as it is. -/
def Blk.putFlit (b : Blk) (p : Port) (owner : Option CtxId) (vc : Nat) (bytes : List Byte) : Blk :=
  match p with
  | .here => b
  | p =>
    let i := p.ix
    let l := b.link i
    let f := l.flit 1 vc (bytes.length / 4) owner (fillTo (payloadBytes i) bytes)
    let b := b.setLink i { l with sendSeq := l.sendSeq + 1 }
    if isFar i then
      let b := b.modLink i fun l => { l with openBlock := l.openBlock ++ [f] }
      if vc = 3 || 99 ≤ (b.link i).openBlock.length then b.sealBlock i else b
    else b.sendFlits i [f]

/-- Units of the receiver's buffer for a VC of a port; messages for COMET (R424). -/
def vcBuffer (i : BitVec 4) (v : Nat) : Nat :=
  if v = 3 then (if isDiePort i then 0 else 32)
  else if v = 2 then (if isFar i then 256 else if isOrbit i then 160 else 0)
  else if 6 ≤ v then 0
  else if isOrbit i then 160 else 256

/-- Flits that a port's replay buffer holds (R425). -/
def replayCap (i : BitVec 4) : Nat := if isOrbit i then 256 else 512

/-- Bytes of a parcel that its next flit carries. -/
def Parcel.piece (p : Parcel) (i : BitVec 4) : Nat := Nat.min p.left.length (payloadBytes i)

/-- Whether a parcel's next flit may be sent: the replay buffer has room for it and its block's seal, and the receiver
has granted link credit for its units, or for the message (R424, R425). -/
def Link.mayGo (l : Link) (i : BitVec 4) (p : Parcel) : Bool :=
  let sent := l.sent.rd p.vc
  let unit := if p.vc = 3 then sent else (sent + p.piece i / 4 - 1) / 64
  l.replay.length + l.openBlock.length + (if isFar i then 2 else 1) ≤ replayCap i
    && (BitVec.ofNat 16 unit - l.credits.rd p.vc).toNat < vcBuffer i p.vc.toNat

/-- The first parcel of a VC that waits. -/
def Link.first (l : Link) (v : BitVec 3) : Option Parcel := l.wait.find? fun p => p.vc = v

/-- The VCs of which a flit may be sent. -/
def Link.goers (l : Link) (i : BitVec 4) (vs : List (BitVec 3)) : List (BitVec 3) :=
  vs.filter fun v => match l.first v with
    | some p => l.mayGo i p
    | none => false

/-- The weighted VCs of R170, in the order of their turns from one on. -/
def turnsFrom (v : BitVec 3) : List (BitVec 3) :=
  let all : List (BitVec 3) := [0, 1, 2, 4, 5]
  (all.filter fun x => v.toNat ≤ x.toNat) ++ all.filter fun x => x.toNat < v.toNat

/-- The VC served next, and the link with its turn taken: COMET first; then deficit round robin by weight, in bytes of
256 B units; a VC of weight 0 only where no other weighted VC can go (R170). -/
def Link.serve (l : Link) (i : BitVec 4) (weight : BitVec 3 → Nat) : Option (Link × Parcel) :=
  let take := fun (l : Link) (v : BitVec 3) => (l.first v).map fun p => (l, p)
  if !(l.goers i [3]).isEmpty then take l 3
  else
    let goers := l.goers i (turnsFrom l.turn)
    match goers.filter fun v => weight v != 0 with
    | [] => match goers with
      | [] => none
      | v :: _ => take l v
    | v :: more =>
      let need := fun (v : BitVec 3) => ((l.first v).map fun p => p.piece i).getD 0
      if v = l.turn && need v ≤ l.quota.rd v then take { l with quota := l.quota.wr v (l.quota.rd v - need v) } v
      else
        let next := if v = l.turn then more.headD v else v
        take { l with turn := next, quota := l.quota.wr next (l.quota.rd next + 256 * weight next - need next) } next

/-- ND_VC_WEIGHT of a VC (06 R170). -/
def Blk.vcWeight (b : Blk) (v : BitVec 3) : Nat := fld (b.reg 0x374) (4 * v.toNat + 3) (4 * v.toNat)

/-- The next flit of a parcel leaves; with the last of its bytes the whole has left, and a VC of which nothing waits any
more keeps nothing of its turn. -/
def Blk.sendPiece (b : Blk) (q : Port) (p : Parcel) : Blk :=
  let i := q.ix
  let n := p.piece i
  let mine := fun (x : Parcel) => x.vc = p.vc
  let b := (b.putFlit q p.ctx p.vc.toNat (p.left.take n)).modLink i fun l =>
    { l with sent := l.sent.wr p.vc (l.sent.rd p.vc + (if p.vc = 3 then 1 else n / 4)) }
  if n < p.left.length then b.modLink i fun l => { l with wait := modFirst mine (fun x => { x with left := x.left.drop n }) l.wait }
  else
    let b := b.modLink i fun l =>
      let rest := dropFirst mine l.wait
      { l with wait := rest, quota := if rest.any mine then l.quota else l.quota.wr p.vc 0 }
    (b.txBytes p.ctx q p.size).send p.out

/-- Send what waits at a port, flit by flit, as far as it may go; a packet with damaged words waits to be read
(`Blk.transmitFar`). -/
def Blk.transmit (q : Port) : Nat → Blk → Blk
  | 0, b => b
  | fuel + 1, b =>
    match (b.link q.ix).serve q.ix b.vcWeight with
    | none => b
    | some (l, p) => if p.hurt.isEmpty then Blk.transmit q fuel ((b.setLink q.ix l).sendPiece q p) else b

/-- The flits that what waits at a port makes. -/
def Link.flitsWaiting (l : Link) (i : BitVec 4) : Nat := sumL (l.wait.map fun p => ceilDiv p.left.length (payloadBytes i))

/-- A port that is UP sends what waits; in any other state nothing leaves (R437). -/
def Blk.pumpPort (b : Blk) (q : Port) : Blk :=
  if (b.link q.ix).st == .up then (Blk.transmit q ((b.link q.ix).flitsWaiting q.ix) b).fillSlices q.ix else b

/-- Hand a packet or message to a port, padded to whole words (R423): it leaves as soon as it may. -/
def Blk.putOut (b : Blk) (q : Port) (c : Option CtxId) (vc : Nat) (bytes : List Byte) (far : Bool) (o : Out) : Blk :=
  match q with
  | .here => b.send o
  | q =>
    let p : Parcel := { ctx := c, vc := BitVec.ofNat 3 vc, size := bytes.length, far := far, hurt := [], out := o,
                        left := bytes ++ List.replicate ((4 - bytes.length % 4) % 4) 0 }
    (b.modLink q.ix fun l => { l with wait := l.wait ++ [p] }).pumpPort q

/-- A K header and what follows it (R444). -/
def KMsg.bytesOf (m : KMsg) : List Byte :=
  toLe 4 (put 31 28 m.cls.toNat + put 27 24 m.op.toNat + put 23 16 m.layer.toNat + put 15 0 m.tag.toNat)
    ++ toLe 4 m.body.length ++ toLe 4 m.addr.toNat ++ toLe 4 (put 31 16 m.stamp.toNat + put 7 0 (m.addr.toNat / 2 ^ 32)) ++ m.body

/-- The VC of a message to a die (R445). -/
def KMsg.vc (m : KMsg) : Nat := if m.cls = 5 then 5 else if m.cls = 2 && m.op != 0 then 4 else 0

/-- Send a message on a die port, with its 16 B K header (R444); through a port that is not UP it is
dropped and counted (R437). -/
def Blk.toDie (b : Blk) (c : Option CtxId) (m : KMsg) : Blk :=
  if b.usable (.k m.die) then b.putOut (.k m.die) c m.vc m.bytesOf false (.die m)
  else b.addInst Cnt.linkDropped 1

/-! ### Tables (R67 to R71) -/

def tkey (layer : Nat) (kind : Nat) : Nat := layer * 4 + kind

def Blk.table (b : Blk) (layer : Layer) (kind : BitVec 2) : Table :=
  b.refresh.tables.get (tkey layer.toNat kind.toNat) Table.reset

def Blk.setTable (b : Blk) (layer : Layer) (kind : BitVec 2) (t : Table) : Blk :=
  { b with refresh := { b.refresh with tables := b.refresh.tables.put (tkey layer.toNat kind.toNat) t } }

def Table.bank (t : Table) (k : Bool) : TBank := if k then t.bank1 else t.bank0

def Table.setBank (t : Table) (k : Bool) (x : TBank) : Table :=
  if k then { t with bank1 := x } else { t with bank0 := x }

/-- The active bank of a table. -/
def Table.live (t : Table) : TBank := t.bank t.active

/-- The shadow bank of a table: the one that is not ACTIVE, bank 0 while the epoch is 0 (R68). -/
def Table.shadow (t : Table) : Bool := if t.epoch = 0 then false else !t.active

def Blk.modBank (b : Blk) (layer : Layer) (kind : BitVec 2) (k : Bool) (f : TBank → TBank) : Blk :=
  let t := b.table layer kind
  b.setTable layer kind (t.setBank k (f (t.bank k)))

/-- The epoch that follows one (R67). -/
def nextEpoch (e : BitVec 16) : BitVec 16 := if e = 0xFFFF then 1 else e + 1

/-- The binding of a table now: its active bank and epoch (R69). -/
def Blk.bindNow (b : Blk) (layer : Layer) (kind : BitVec 2) : Binding :=
  let t := b.table layer kind
  ⟨layer, kind, t.active, t.epoch⟩

/-- Take a reference on a bound bank; epoch 0 has none (R69, R70). -/
def Blk.takeRef (b : Blk) (x : Binding) : Blk :=
  if x.epoch = 0 then b else b.modBank x.layer x.kind x.bank fun t => { t with refs := t.refs + 1 }

/-- Whether the vault has failed a known-answer test: it then serves no SEAL, verdict or link session (21 R526; 01 R17). -/
def Aon.vaultFail (a : Aon) : Bool := a.vault.kat = some false

/-- Whether a bank's state locks its bytes and the home copies its manifest names (R75, R386). -/
def TBank.locked (t : TBank) : Bool := t.st != .free && t.st != .filling

/-- Drop a reference; a DRAINING bank whose last reference goes becomes FREE (R68, R69). -/
def Blk.dropRef (b : Blk) (x : Binding) : Blk :=
  if x.epoch = 0 then b
  else b.modBank x.layer x.kind x.bank fun t =>
    if t.refs.toNat ≤ 1 then
      { t with refs := 0, st := if t.st = .draining then .free else t.st,
               extent := if t.st = .draining then 0 else t.extent,
               homes := if t.st = .draining then [] else t.homes }
    else { t with refs := t.refs - 1 }

/-- Window start and length of a table bank; none where it is not placed (R77). -/
def Blk.bankPlace (b : Blk) (layer : Layer) (kind : BitVec 2) (k : Bool) : Option (Nat × Nat) :=
  let i := tkey layer.toNat kind.toNat
  let base := b.reg (if k then 0x30C else 0x308) i
  let size := b.reg (if k then 0x328 else 0x324) i
  if bit base.toNat 31 then some (fld base 27 0 * 4096, fld size 23 0 * 4096) else none

/-- Every placed bank whose table a partition may name, with its key. -/
def Blk.placedBanks (b : Blk) : List (Layer × BitVec 2 × Bool × Nat × Nat) :=
  (List.range 1024).flatMap fun i =>
    [false, true].filterMap fun k =>
      let layer := BitVec.ofNat 8 (i / 4)
      let kind := BitVec.ofNat 2 (i % 4)
      (b.bankPlace layer kind k).map fun p => (layer, kind, k, p.1, p.2)

/-! ### Memory writes -/

/-- Write scratchpad bytes: a word that is written whole loses its damage; a word written in part whose
read is uncorrectable fails the write, and any other takes the write over what the read corrected (R56). -/
def Mem.wrScratch (m : Mem) : Nat → List Byte → Except Flt Mem
  | _, [] => .ok m
  | a, v :: rest =>
    let w := a / 4
    match m.flips.find w with
    | none => Mem.wrScratch { m with scratch := m.scratch.wr a v } (a + 1) rest
    | some _ =>
      match m.word w with
      | none =>
        if a % 4 = 0 && 3 ≤ rest.length then
          Mem.wrScratch { m with scratch := m.scratch.wr a v, flips := m.flips.drop w } (a + 1) rest
        else .error (flt 0x10)
      | some bs =>
        Mem.wrScratch { m with scratch := (m.scratch.wrBytes (4 * w) bs).wr a v, flips := m.flips.drop w } (a + 1) rest

/-- Write stack bytes; a partial write of a line that fails its MAC or is poisoned fails (R514, R540), a
whole line is written anew. -/
def Mem.wrStack (m : Mem) (a : Nat) (bs : List Byte) : Except Flt Mem :=
  let touched := (List.range (ceilDiv (a % 64 + bs.length) 64)).map (· + a / 64)
  let part := touched.filter fun l => !(a ≤ 64 * l && 64 * l + 64 ≤ a + bs.length)
  if part.any m.badMac.contains then .error (flt 0x10 0x40)
  else if part.any m.poison.contains then .error (flt 0x10 0x41)
  else .ok { m with stack := m.stack.wrBytes a bs, badMac := m.badMac.filter fun l => !touched.contains l,
                    poison := m.poison.filter fun l => !touched.contains l }

/-- The placed banks of which a byte range of the window holds a byte. -/
def Blk.bankHits (b : Blk) (a len : Nat) : List (Layer × BitVec 2 × Bool × Nat × Nat) :=
  b.placedBanks.filter fun p => meet a len p.2.2.2.1 p.2.2.2.2

/-- Whether a window range touches a locked home copy (15 R386), with the bank that names it. -/
def Blk.homeHit (b : Blk) (a len : Nat) : Option (Layer × BitVec 2) :=
  (b.refresh.tables.find? fun p =>
      [p.2.bank0, p.2.bank1].any fun t => t.locked && t.homes.any fun h => meet a len h.1 h.2).map
    fun p => (BitVec.ofNat 8 (p.1 / 4), BitVec.ofNat 2 (p.1 % 4))

def fBankLocked (layer : Layer) (kind : BitVec 2) : Flt := flt 0x0D (layer.toNat + 256 * kind.toNat)

/-- What locks a range of the window: a bank that is neither FREE nor FILLING, or a home copy (R75, R386). -/
def Blk.lockAt (b : Blk) (a len : Nat) : Option Flt :=
  let shut := (b.bankHits a len).find? fun p => ((b.table p.1 p.2.1).bank p.2.2.1).locked
  match shut with
  | some (l, k, _, _, _) => some (fBankLocked l k)
  | none => (b.homeHit a len).map fun h => fBankLocked h.1 h.2

/-- Write stack window bytes for a command or the block: banks that are FREE or FILLING take the write and are
FILLING, with their written extents; any other is locked (R68, R75, R386). -/
def Blk.wrStack (b : Blk) (a : Nat) (bs : List Byte) : Except Flt Blk :=
  let hits := b.bankHits a bs.length
  match b.lockAt a bs.length with
  | some f => .error f
  | none =>
    match b.mem.wrStack a bs with
    | .error f => .error f
    | .ok m =>
      .ok (hits.foldl (fun (b : Blk) p =>
        b.modBank p.1 p.2.1 p.2.2.1 fun t =>
          { t with st := .filling, extent := Nat.max t.extent (Nat.min p.2.2.2.2 (a + bs.length - p.2.2.2.1)) })
        { b with mem := m })

/-- Write bytes to a space. A die's bytes leave on its port (R282). -/
def Blk.wrSpace (b : Blk) (c : Option CtxId) (sp : Space) (a : Nat) (bs : List Byte) : Except Flt Blk :=
  match sp with
  | .scratch =>
    match b.mem.wrScratch a bs with
    | .error f => .error f
    | .ok m => .ok { b with mem := m }
  | .stack => b.wrStack a bs
  | .die n =>
    .ok (b.toDie c { cls := 2, op := 0, die := n, layer := 0, tag := 0, stamp := 0, addr := BitVec.ofNat 40 a,
                        body := bs })

/-- Write window bytes for the block's own units, whatever lies there. -/
def Blk.poke (b : Blk) (a : Nat) (bs : List Byte) : Blk :=
  { b with mem := { b.mem with stack := b.mem.stack.wrBytes a bs } }

end Sys2Proof.Machine
end

