-- ==== Sys2Proof/Machine/Audit.lean ====
section
/-! DEFINITION. Audit: the audit log (20 R516), signature blocks (20 R508), the hash tree (15 R384), and the
lifts of a meaning from a domain to the state. -/

namespace Sys2Proof.Machine
open Sys2Proof

/-! ### Audit records (R516) -/

/-- The 64 bytes of a record. -/
def Audit.bytesOf (r : Audit) : List Byte :=
  toLe 8 r.seq.toNat ++ toLe 8 r.time.toNat ++ [r.type, r.role, r.path, r.result] ++ toLe 4 r.object.toNat
    ++ toLe 4 r.old.toNat ++ toLe 4 r.new.toNat ++ (r.detail ++ List.replicate 32 0).take 32

/-- Append a record; the oldest beyond 4,096 is dropped and the chain goes on (R516, R517). -/
def Aon.audit (a : Aon) (type role path : Nat) (refused : Bool) (object : Nat) (old new : Word := 0)
    (detail : List Byte := []) : Aon :=
  let v := a.vault
  let r : Audit :=
    { seq := v.auditNext, time := a.count, type := BitVec.ofNat 8 type, role := BitVec.ofNat 8 role,
      path := BitVec.ofNat 8 path, result := BitVec.ofNat 8 (b01 refused), object := BitVec.ofNat 32 object, old := old,
      new := new, detail := detail }
  let c := sha384 (v.chain ++ r.bytesOf)
  let full := 4096 ≤ v.audit.length
  { a with vault := { v with
      auditNext := v.auditNext + 1, audit := (if full then v.audit.drop 1 else v.audit) ++ [(r, c)], chain := c,
      auditBase := if full then ((v.audit.head?).map (·.2)).getD v.auditBase else v.auditBase } }

/-- A record of the vault's own. -/
def Aon.auditVault (a : Aon) (type : Nat) (refused : Bool) (object : Nat) (old new : Word := 0)
    (detail : List Byte := []) : Aon := a.audit type 3 2 refused object old new detail

/-! ### Lifts -/

/-- The management plane sees a record: a MAC failure that ended a command writes an audit record (R514, R516), and an
event that concerns no context is sent as a PlatformEventMessage, or kept for a poll where no receiver is set (R520). -/
def seeRec (r : Rec) (x : Aon × Blk) : Aon × Blk :=
  let (a, b) := x
  if !r.event then (if r.code = 0x10 && r.a = 0x40 then a.auditVault 11 true 0 else a, b)
  else if r.ctx.isSome then (a, b)
  else if a.vault.receiver.isSome then (a, b.send (.platformEvent r.bytes))
  else ({ a with vault := { a.vault with events := a.vault.events ++ [r] } }, b)

/-- The management plane sees the records of a command. -/
def seePosted (x : Aon × Blk) : Aon × Blk :=
  x.2.posted.foldl (fun y r => seeRec r y) (x.1, { x.2 with posted := [] })

/-- A command whose effect lies in the block domain: the queue stays, and of the management plane all but what its
records bring about. -/
def State.block (s : State) (f : Aon → Blk → Blk) : Host.Outcome State Fault Refusal :=
  .next { s with aon := (seePosted (s.aon, f s.aon s.blk)).1, blk := (seePosted (s.aon, f s.aon s.blk)).2 }

/-- A command whose effect lies in the always-on domain. -/
def State.always (s : State) (f : Aon → Aon) : Host.Outcome State Fault Refusal :=
  .next { s with aon := f s.aon }

/-- A command that acts on both domains. -/
def State.both (s : State) (f : Aon × Blk → Aon × Blk) : Host.Outcome State Fault Refusal :=
  .next { s with aon := (seePosted (f (s.aon, s.blk))).1, blk := (seePosted (f (s.aon, s.blk))).2 }

/-! ### Signature blocks (R508) -/

/-- A signature block. -/
structure SigBlock where
  alg : Nat
  slot : Nat
  sig : List Byte
  deriving DecidableEq, Repr

/-- The well-formed block that bytes begin with. -/
def SigBlock.parse (bs : List Byte) : Option SigBlock :=
  let alg := (bs.getD 0 0).toNat
  let len := leNat ((bs.drop 4).take 4)
  let want := if alg = 1 then 96 else if alg = 2 then 3309 else 0
  if want != 0 && len = want && leNat ((bs.drop 2).take 2) = 0 && 8 + len ≤ bs.length then
    some ⟨alg, (bs.getD 1 0).toNat, (bs.drop 8).take len⟩
  else none

/-- Whether a signature verifies under a key of its algorithm. -/
def SigBlock.verifies (s : SigBlock) (key covered : List Byte) : Bool :=
  if s.alg = 1 then Config.ecdsaVerify key covered s.sig else Config.mldsaVerify key covered s.sig

/-- The vault's signature check of a manifest (R509). -/
def signedBy (keys : List (Option PubKey)) (covered block : List Byte) : Bool :=
  match SigBlock.parse block with
  | none => false
  | some s =>
    match (keys[s.slot]?).join with
    | none => false
    | some k => s.slot ≤ 3 && !k.revoked && k.alg.toNat = s.alg && s.verifies k.key covered

/-! ### The hash tree (R384) -/

/-- One level of the tree: pairs are hashed, an unpaired node passes up. -/
def hashLevel : List (List Byte) → List (List Byte)
  | x :: y :: rest => sha384 ([1] ++ x ++ y) :: hashLevel rest
  | l => l

/-- The root over byte strings, each cut into 64 KiB pieces. -/
def hashRoot (parts : List (List Byte)) : List Byte :=
  let leaves := (parts.flatMap (pieces 65536)).map fun p => sha384 ([0] ++ p)
  match Nat.rec leaves (fun _ l => hashLevel l) 40 with
  | r :: _ => r
  | [] => []

end Sys2Proof.Machine
end

