-- ==== Sys2Proof/Machine/Crossing.lean ====
section
/-! DEFINITION. Crossing: instance IDs and routes (06 R157 to R161), exchange packets (06 R166 to R168),
and sending them (06 R173, R174, 17 R437). A packet for this instance itself leaves on the port `here`
and comes back as a command (log 2). -/

namespace Sys2Proof

def PktHdr.zero : PktHdr :=
  { kind := 0, ttl := 0, fmt := 0, moon := false, bytes := 0, src := 0, dst := 0, die := 0, part := 0, slot := 0,
    position := 0, expert := 0, localIx := 0, layer := 0, row := 0, hand := 0, group := 0, gidx := 0, stamp := 0,
    seq := 0, crc := 0, rsv := 0 }

/-- The eight words of a packet header (R166). -/
def PktHdr.bytesOf (h : PktHdr) : List Byte :=
  toLe 4 (put 31 28 h.kind.toNat + put 27 24 h.ttl.toNat + put 23 21 h.fmt.toNat + put 20 20 (b01 h.moon)
    + put 19 17 (h.rsv.toNat / 32) + put 16 0 h.bytes.toNat)
    ++ toLe 4 (put 31 20 h.src.toNat + put 19 8 h.dst.toNat + put 7 6 h.die.toNat + put 5 3 h.part.toNat
      + put 2 0 (h.rsv.toNat / 4 % 8))
    ++ toLe 4 (put 31 20 h.slot.toNat + put 19 0 h.position.toNat)
    ++ toLe 4 (put 31 21 h.expert.toNat + put 20 10 h.localIx.toNat + put 9 2 h.layer.toNat + put 1 0 (h.rsv.toNat % 4))
    ++ toLe 4 (put 31 12 h.row.toNat + put 11 8 h.hand.toNat + put 7 0 h.group.toNat)
    ++ toLe 4 h.gidx.toNat ++ toLe 4 (put 31 16 h.stamp.toNat + put 15 0 h.seq.toNat) ++ toLe 4 h.crc.toNat

/-- A packet header from its bytes (R166). -/
def PktHdr.ofBytes (bs : List Byte) : PktHdr :=
  let w := fun (i : Nat) => BitVec.ofNat 32 (leNat ((bs.drop (4 * i)).take 4))
  let f := fun (i hi lo : Nat) => fld (w i) hi lo
  { kind := BitVec.ofNat 4 (f 0 31 28), ttl := BitVec.ofNat 4 (f 0 27 24), fmt := BitVec.ofNat 3 (f 0 23 21),
    moon := bit (w 0).toNat 20, bytes := BitVec.ofNat 17 (f 0 16 0), src := BitVec.ofNat 12 (f 1 31 20),
    dst := BitVec.ofNat 12 (f 1 19 8), die := BitVec.ofNat 2 (f 1 7 6), part := BitVec.ofNat 3 (f 1 5 3),
    slot := BitVec.ofNat 12 (f 2 31 20), position := BitVec.ofNat 20 (f 2 19 0), expert := BitVec.ofNat 11 (f 3 31 21),
    localIx := BitVec.ofNat 11 (f 3 20 10), layer := BitVec.ofNat 8 (f 3 9 2), row := BitVec.ofNat 20 (f 4 31 12),
    hand := BitVec.ofNat 4 (f 4 11 8), group := BitVec.ofNat 8 (f 4 7 0), gidx := w 5, stamp := BitVec.ofNat 16 (f 6 31 16),
    seq := BitVec.ofNat 16 (f 6 15 0), crc := w 7,
    rsv := BitVec.ofNat 8 (f 0 19 17 * 32 + f 1 2 0 * 4 + f 3 1 0) }

/-- The bytes of a packet (R166). -/
def Packet.bytesOf (k : Packet) : List Byte := k.hdr.bytesOf ++ k.payload

/-- A packet from its bytes. -/
def Packet.ofBytes (bs : List Byte) : Packet := ⟨PktHdr.ofBytes bs, bs.drop 32⟩

/-- The VC of a packet (R167). -/
def Packet.vc (k : Packet) : Nat :=
  if k.hdr.kind = 3 || k.hdr.kind = 6 || k.hdr.kind = 8 || k.hdr.kind = 9 then 1 else 0

/-- Bytes of a packet on a port. -/
def Packet.size (k : Packet) : Nat := 32 + k.payload.length

end Sys2Proof

namespace Sys2Proof.Machine
open Sys2Proof

def pkgOf (i : InstId) : Nat := i.toNat / 8
def posOf (i : InstId) : Nat := i.toNat % 8

/-- The orbit port from ring position `p` towards `q`; none where they are one (R159). -/
def orbitTo (p q : Nat) : Option (BitVec 1) :=
  let d := (q + 8 - p) % 8
  if d = 0 then none
  else if d < 4 || (d = 4 && p % 2 = 0) then some 1 else some 0

/-- The far port that a route mask gives a source's ring position (R159). -/
def farOf (mask srcPos : Nat) : Option (BitVec 3) :=
  let ports := bitsOf 6 mask
  if ports.isEmpty then none else (ports[srcPos % ports.length]?).map (BitVec.ofNat 3)

/-- Where the crossing sends what is for an instance. -/
inductive Route where
  | out (p : Port)
  | here
  | unreachable
  deriving DecidableEq, Repr

/-- The route of traffic from a source's ring position to an instance, at this instance (R159, R160). -/
def Blk.routeTo (b : Blk) (srcPos : Nat) (dst : InstId) : Route :=
  match orbitTo (posOf b.self) (posOf dst) with
  | some o => .out (.o o)
  | none =>
    if pkgOf dst = pkgOf b.self then .here
    else match farOf (fld (b.reg 0x36C (pkgOf dst)) 5 0) srcPos with
      | some x => .out (.l x)
      | none => .unreachable

/-- ND_EXCH_CFG.ttl_init. -/
def Blk.ttlInit (b : Blk) : BitVec 4 := BitVec.ofNat 4 (fld (b.reg 0x370) 23 20)

/-- ND_EXCH_CFG.timeout in cycles: units of 100 µs, each counted as 100,000 cycles. -/
def Blk.exchTimeoutCycles (b : Blk) : Nat := fld (b.reg 0x370) 15 0 * 100000

/-- Units of credit a payload takes (06, "Destination credits"). -/
def unitsOf (p : Nat) : Nat := ceilDiv (p + 32) 256

/-- A header from this instance. -/
def Blk.header (b : Blk) (kind : Nat) (dst : InstId) (die : BitVec 2) (part : PartId) (layer : Layer)
    (seq : BitVec 16) : PktHdr :=
  { PktHdr.zero with kind := BitVec.ofNat 4 kind, ttl := b.ttlInit, src := b.self, dst := dst, die := die,
                     part := part, layer := layer, seq := seq }

/-- The BOUNCE of a refused packet (R167), with no payload and, so that it is itself well formed, no reserved bits (log 31). -/
def Blk.bounceOf (b : Blk) (k : Packet) (reason : Nat) : Packet :=
  ⟨{ k.hdr with kind := 9, ttl := b.ttlInit, bytes := 0, src := b.self, dst := k.hdr.src,
                crc := BitVec.ofNat 32 reason, rsv := 0 }, []⟩

/-- What a far port's far queue holds (R173). -/
def Blk.farQueue (b : Blk) (x : BitVec 3) : List Parcel := (b.link (Port.ix (.l x))).wait.filter (·.far)

/-- Bytes waiting in a far queue. -/
def Blk.farBytes (b : Blk) (x : BitVec 3) : Nat := sumL ((b.farQueue x).map fun p => p.left.length)

/-- Whether a far queue has no room for a packet: where the port does not take it at once, of 32 KiB (R173, R174). -/
def Blk.farFull (b : Blk) (x : BitVec 3) (k : Packet) : Bool :=
  let l := b.link (Port.ix (.l x))
  (l.st == .recover || !l.wait.isEmpty) && 32768 < b.farBytes x + k.size

def Blk.ringBytes (b : Blk) (q : BitVec 3) : Nat := sumL ((b.exch.rings.rd q).map fun e => e.k.size)

/-- Put a packet on a far port, by the far queue or not: its bytes in the far queue are counted (R173, R186). -/
def Blk.onFar (b : Blk) (c : Option CtxId) (x : BitVec 3) (queued : Bool) (k : Packet) : Blk :=
  let k := ⟨{ k.hdr with ttl := k.hdr.ttl - 1 }, k.payload⟩
  let b := if queued then b.addInst (Cnt.egressFar x.toNat) k.size else b
  b.putOut (.l x) c k.vc k.bytesOf queued (.packet (.l x) k)

/-- Why a packet cannot go on, or the port it takes (R161, R437). -/
def Blk.onward (b : Blk) (k : Packet) : Except Nat Port :=
  match b.routeTo (posOf k.hdr.src) k.hdr.dst with
  | .here => .ok .here
  | .unreachable => .error 1
  | .out p =>
    match p with
    | .l x => if k.hdr.ttl = 0 then .error 2 else if b.usable (.l x) then .ok (.l x) else .error 1
    | p => if b.usable p then .ok p else .error 1

/-- Send a packet on a port. -/
def Blk.onPort (b : Blk) (c : Option CtxId) (p : Port) (queued : Bool) (k : Packet) : Blk :=
  match p with
  | .l x => b.onFar c x queued k
  | p => b.putOut p c k.vc k.bytesOf false (.packet p k)

/-- A packet that cannot be bounced further is dropped. -/
def Blk.txLast (b : Blk) (k : Packet) : Blk :=
  match b.onward k with
  | .ok p => b.onPort none p false k
  | .error _ => b.addInst Cnt.linkDropped 1

/-- Return a packet to its source as a BOUNCE; a BOUNCE that cannot go on is dropped, a malformed one is returned
(R161, R167). -/
def Blk.bounce (b : Blk) (k : Packet) (reason : Nat) : Blk :=
  if k.hdr.kind = 9 && reason != 5 then b.addInst Cnt.linkDropped 1 else b.txLast (b.bounceOf k reason)

/-- Send a packet on its way, charged to a context or to none (R159, R379). -/
def Blk.txBy (b : Blk) (queued : Bool) (c : Option CtxId) (k : Packet) : Blk :=
  match b.onward k with
  | .ok p => b.onPort c p queued k
  | .error r => b.bounce k r

/-- Send a packet of this instance that no queue holds. -/
def Blk.tx (b : Blk) (c : Option CtxId) (k : Packet) : Blk := b.txBy false c k

/-- Whether the far queue on a packet's way has no room for it. -/
def Blk.heldFar (b : Blk) (k : Packet) : Bool :=
  match b.onward k with
  | .ok (.l x) => b.farFull x k
  | _ => false

/-- Send header-only packets in order. -/
def Blk.txAll (b : Blk) (c : Option CtxId) (hs : List PktHdr) : Blk :=
  hs.foldl (fun b h => b.tx c ⟨h, []⟩) b

/-- Low half of a dispatch's sequence number (R166). -/
def seqLow (s : Word) : BitVec 16 := BitVec.ofNat 16 s.toNat

/-- Whether a dispatch still owes a last-group END or has rows outstanding, or is open (R184). -/
def Dispatch.allEnded (d : Dispatch) : Bool :=
  d.lastPlaced && d.groups.all fun g => g.ended && g.ready.all fun r => r.2.2.isSome

def Dispatch.needsAbort (d : Dispatch) (fetching : Bool) : Bool :=
  !d.aborted && (d.isOpen || (d.sendFmt.isSome && !d.allEnded) || fetching)

/-- Whether a flight fetches rows of a dispatch. -/
def Flight.fetches (f : Flight) (d : Dispatch) : Bool :=
  match f.job with
  | .combine x => f.ctx = d.ctx && x.layer = d.layer && x.seq = d.seq && x.awaits.any fun a => a.sent.isSome && a.landed.isNone
  | _ => false

/-- Send ABORT for a dispatch to every member (R184). -/
def Blk.abortDispatch (b : Blk) (d : Dispatch) : Blk :=
  b.txAll (some d.ctx) (d.members.map fun m => b.header 0xA m 3 d.part d.layer (seqLow d.seq))

/-- Send the ABORTs a context's dispatches need, and mark them aborted. -/
def Blk.abortDispatches (b : Blk) (c : CtxId) : Blk :=
  let hit := fun (d : Dispatch) => d.ctx = c && d.needsAbort (b.flights.any fun f => f.fetches d)
  let out := (b.disps.filter hit).foldl Blk.abortDispatch b
  { out with disps := out.disps.map fun d => if hit d then { d with aborted := true } else d }

end Sys2Proof.Machine
end

