-- ==== Sys2Proof/Machine/Groups.lean ====
section
/-! DEFINITION. Groups: the group table, its rings and ports, the packets of folds and comets, and the
aborts of both (08 R202 to R207, R220, R231; 09 R244, R250, R256). -/

namespace Sys2Proof

/-- Bytes of a fold packet on a port: header, payload, and the trailer of an FDATA (R220). -/
def FoldPkt.size (k : FoldPkt) : Nat := 32 + k.payload.length + (if k.hdr.kind = 1 then 8 else 0)

/-- The bytes of a fold packet (R220). -/
def FoldPkt.bytesOf (k : FoldPkt) : List Byte :=
  let h := k.hdr
  toLe 4 (put 31 28 h.kind.toNat + put 27 26 h.stage.toNat + put 25 25 (b01 h.dir) + put 24 23 h.piece.toNat
      + put 22 20 h.wire.toNat + put 19 19 (b01 h.mode) + put 18 18 (b01 h.op) + put 17 17 (b01 h.phase) + put 16 0 h.bytes.toNat)
    ++ toLe 4 h.id.toNat ++ toLe 4 (put 31 20 h.src.toNat + put 19 8 h.dst.toNat + put 7 5 h.part.toNat)
    ++ toLe 4 (put 31 8 h.chunk.toNat) ++ toLe 4 (put 31 22 h.step.toNat + put 21 16 h.rev.toNat + put 15 0 h.check.toNat)
    ++ toLe 4 h.count.toNat ++ toLe 4 (put 31 23 h.nMinus1.toNat + put 22 21 h.kindc.toNat + put 20 20 (b01 h.dirs)) ++ toLe 4 0
    ++ k.payload ++ (if h.kind = 1 then toLe 4 (put 31 22 k.verified.toNat) ++ toLe 4 k.crc.toNat else [])

/-- The bytes of a comet message (R244). -/
def CometMsg.bytesOf (k : CometMsg) : List Byte :=
  toLe 4 (put 31 28 k.kind.toNat + put 27 24 k.ttl.toNat + put 23 22 k.op.toNat + put 21 21 (b01 k.int) + put 20 20 (b01 k.mode)
      + put 19 19 (b01 k.pass) + put 18 16 k.stage.toNat + put 15 12 k.step.toNat + put 6 0 k.len.toNat)
    ++ toLe 4 k.id.toNat ++ toLe 4 (put 31 20 k.src.toNat + put 19 8 k.dst.toNat + put 7 5 k.part.toNat)
    ++ toLe 4 (put 31 16 k.check.toNat + put 15 0 k.crc.toNat) ++ k.payload

/-- Bytes of a comet message (R244). -/
def CometMsg.size (k : CometMsg) : Nat := 16 + k.payload.length

end Sys2Proof

namespace Sys2Proof.Machine
open Sys2Proof

/-- A group table entry's registers (R202). -/
structure GEntry where
  valid : Bool
  group : Nat
  seats : Nat
  tiered : Bool
  wire : Nat
  farMask : Nat
  timeout : Nat
  base : Nat
  gray : Bool
  n : Nat
  m : Nat
  deriving DecidableEq, Repr

/-- The fields of three group register values. -/
def GEntry.of (g l s : Word) : GEntry :=
  { valid := bit g.toNat 31, group := fld g 30 19, seats := fld g 18 16, tiered := bit g.toNat 15,
    wire := fld g 14 13, farMask := fld g 12 7, timeout := fld g 6 0, base := fld l 27 0 * 4096,
    gray := bit s.toNat 13, n := fld s 12 4 + 1, m := fld s 3 0 }

def Blk.grp (b : Blk) (e : BitVec 4) : GEntry :=
  GEntry.of (b.reg 0x404 e.toNat) (b.reg 0x408 e.toNat) (b.reg 0x40C e.toNat)

def Blk.fgroup (b : Blk) (e : BitVec 4) : FGroup := b.folds.groups.rd e

def Blk.setFgroup (b : Blk) (e : BitVec 4) (g : FGroup) : Blk :=
  { b with folds := { b.folds with groups := b.folds.groups.wr e g } }

def entries : List (BitVec 4) := (List.range 16).map (BitVec.ofNat 4)

/-- Group ID and sequence number of a collective ID. -/
def groupId (id : Word) : Nat := fld id 31 20
def seqOf (id : Word) : BitVec 20 := BitVec.ofNat 20 id.toNat

/-- The valid entry that names a group. -/
def Blk.entryOf (b : Blk) (id : Word) : Option (BitVec 4) :=
  entries.find? fun e => (b.grp e).valid && (b.grp e).group = groupId id

/-- The valid entry of a partition's mask that names a group (R356). -/
def Blk.entryFor (b : Blk) (n : PartId) (id : Word) : Option (BitVec 4) :=
  entries.find? fun e =>
    (b.grp e).valid && (b.grp e).group = groupId id && bit (fld (b.reg 0x104 n.toNat) 31 16) e.toNat

/-- The configuration check (R205). -/
def Blk.checkOf (b : Blk) (e : BitVec 4) : BitVec 16 :=
  let g := b.grp e
  BitVec.ofNat 16 (crc32c ((b.fgroup e).members.flatMap (fun i => toLe 2 i.toNat)
    ++ [BitVec.ofNat 8 (g.seats * 8 + b01 g.tiered * 4 + g.wire), BitVec.ofNat 8 (b01 g.gray)])).toNat

/-- The group timeout in cycles: units of 1 ms, 1,000,000 cycles. -/
def GEntry.cycles (g : GEntry) : Nat := g.timeout * 1000000

/-! ### Rings -/

/-- Members of the package ring, in list order; of a FLAT group, all members. -/
def Blk.pkgRing (b : Blk) (e : BitVec 4) : List InstId :=
  let ms := (b.fgroup e).members
  if (b.grp e).tiered then ms.filter fun i => pkgOf i = pkgOf b.self else ms

/-- Members at this ring position, by package index a. -/
def Blk.railByA (b : Blk) (e : BitVec 4) : List InstId :=
  (b.fgroup e).members.filter fun i => posOf i = posOf b.self

/-- The rail ring by rail ring index ρ (R206). -/
def Blk.railRing (b : Blk) (e : BitVec 4) : List InstId :=
  let l := b.railByA e
  if (b.grp e).gray then (List.range l.length).filterMap fun r => l[r ^^^ (r / 2)]? else l

/-- The ring of a stage of R220: 0 FLAT, 1 and 3 package, 2 rail. -/
def Blk.ringOf (b : Blk) (e : BitVec 4) (stage : Nat) : List InstId :=
  if stage = 2 then b.railRing e else b.pkgRing e

/-- This member's index in a ring. -/
def Blk.ixIn (b : Blk) (l : List InstId) : Nat := (findIdx (fun i => i = b.self) l).getD 0

/-- The neighbour of a ring index in a direction: successor, or backward the predecessor. -/
def neighbour (l : List InstId) (i : Nat) (back : Bool) : Option InstId :=
  l[(if back then i + l.length - 1 else i + 1) % l.length]?

/-- Directions a collective of a group runs (R207). -/
def GEntry.dirs (g : GEntry) : List Bool := if g.seats ≤ 1 then [false] else [false, true]

/-- The forward or backward ports: ports of far_mask that are UP or RECOVER whose peer is the neighbour. -/
def Blk.railPorts (b : Blk) (e : BitVec 4) (aim : InstId) : List (BitVec 3) :=
  ((bitsOf 6 (b.grp e).farMask).map (BitVec.ofNat 3)).filter fun x =>
    b.usable (.l x) && (match (b.link (Port.ix (.l x))).peer with
      | some p => p.1 = aim
      | none => false)

/-! ### Fold packets -/

/-- The port by which rail traffic of a chunk goes to a neighbour, or comes from it: the forward, or backward, ports take the
chunks in turn (R206, log 69). -/
def Blk.railPort (b : Blk) (e : BitVec 4) (peer : InstId) (chunk : BitVec 24) : Option (BitVec 3) :=
  let ps := b.railPorts e peer
  ps[chunk.toNat % ps.length]?

/-- Send a fold packet: rail traffic straight to the neighbour, any other by the routes of R159 (R206);
what no usable port can take is dropped and counted (R437). -/
def Blk.sendFold (b : Blk) (c : Option CtxId) (e : BitVec 4) (k : FoldPkt) : Blk :=
  let port : Option Port :=
    if k.hdr.stage = 2 then (b.railPort e k.hdr.dst k.hdr.chunk).map .l
    else match b.routeTo (posOf k.hdr.src) k.hdr.dst with
      | .out p => if b.usable p then some p else none
      | .here => some .here
      | .unreachable => none
  match port with
  | some p => b.putOut p c 2 k.bytesOf false (.fold p k)
  | none => b.addInst Cnt.linkDropped 1

def Blk.seat (b : Blk) (n : BitVec 4) : Seat := b.folds.seats.rd n

def Blk.setSeat (b : Blk) (n : BitVec 4) (s : Seat) : Blk :=
  { b with folds := { b.folds with seats := b.folds.seats.wr n s } }

/-- A seat that runs a collective: neither FREE nor FAULTED (R208). -/
def Seat.live (s : Seat) : Bool := s.st != .free && s.st != .faulted

def seatNums : List (BitVec 4) := (List.range 16).map (BitVec.ofNat 4)

/-- A header of a seat's collective, for a ring stage (R220). -/
def Blk.foldHdr (b : Blk) (s : Seat) (kind stage : Nat) (dst : InstId) : FoldHdr :=
  let e := s.entry.getD 0
  let g := b.grp e
  { kind := BitVec.ofNat 4 kind, stage := BitVec.ofNat 2 stage, dir := s.dir, piece := 0,
    wire := if s.ordered then 4 else if stage = 2 then BitVec.ofNat 3 g.wire else 0, mode := s.ordered, op := s.op,
    phase := false, bytes := 0, id := s.id, src := b.self, dst := dst, part := s.part, chunk := 0, step := 0, rev := 0,
    check := b.checkOf e, count := BitVec.ofNat 32 s.n, nMinus1 := BitVec.ofNat 9 (g.n - 1), kindc := s.kind,
    dirs := 1 < g.dirs.length }

/-- The stages whose rings a collective uses. -/
def GEntry.stages (g : GEntry) : List Nat := if g.tiered then [1, 2] else [0]

/-- A seat back to FREE: its reservation and its memory stay (R208). -/
def Seat.freed (s : Seat) : Seat := { Seat.reset with entry := s.entry, good := s.good, retired := s.retired }

/-- The rings of a group that have a neighbour to speak to. -/
def Blk.liveStages (b : Blk) (e : BitVec 4) : List Nat :=
  (b.grp e).stages.filter fun st => 1 < (b.ringOf e st).length

/-- The first bytes of a tensor's elements become undefined: free bytes (log 9). -/
def Blk.spoil (b : Blk) (n : PartId) (d : Desc) (len : Nat) : Blk :=
  (((b.storeFlat n d 0 (b.freeBytes len)).foldl (fun (b : Blk) x =>
    match x with
    | .write sp a bs => (match b.wrSpace none sp a bs with
        | .ok c => c
        | .error _ => b)
    | _ => b) b)).draw

/-- Send FABORT from a seat to its neighbour on every ring it uses; it is FAULTED until its abort handling is complete (log 61),
and holds nothing any more; what dst holds of an unsettled collective is undefined (R208, R231). -/
def Blk.abortSeat (b : Blk) (n : BitVec 4) : Blk :=
  let s := b.seat n
  let e := s.entry.getD 0
  let b := (b.liveStages e).foldl (fun b st =>
    let ring := b.ringOf e st
    match neighbour ring (b.ixIn ring) s.dir with
    | some aim => b.sendFold (some s.ctx) e ⟨b.foldHdr s 5 st aim, [], 0, 0⟩
    | none => b) b
  let b := if s.st == .settled then b else b.spoil s.part s.dst (Nat.min s.dst.covers (s.n * s.dst.e))
  b.setSeat n { s.freed with st := .faulted, part := s.part }

/-- Abort the collectives of seats that meet a test. -/
def Blk.abortSeats (b : Blk) (p : Seat → Bool) : Blk :=
  (seatNums.filter fun n => (b.seat n).live && p (b.seat n)).foldl Blk.abortSeat b

/-- Send FABORT for a collective that holds no seat here, in every direction on every ring of its group (R213, R231). -/
def Blk.abortUnbound (b : Blk) (c : Option CtxId) (part : PartId) (id : Word) : Blk :=
  match b.entryOf id with
  | none => b
  | some e =>
    (b.grp e).dirs.foldl (fun b d => (b.liveStages e).foldl (fun b st =>
      let ring := b.ringOf e st
      match neighbour ring (b.ixIn ring) d with
      | some aim => b.sendFold c e ⟨b.foldHdr { Seat.reset with entry := some e, dir := d, id := id, part := part } 5 st aim, [], 0, 0⟩
      | none => b) b) b

/-! ### Comet messages -/

/-- Send a comet message by the routes of R159; what no usable port can take is dropped (R437). -/
def Blk.sendComet (b : Blk) (c : Option CtxId) (k : CometMsg) : Blk :=
  match b.routeTo (posOf k.src) k.dst with
  | .here => b.send (.comet .here k)
  | .unreachable => b.addInst Cnt.linkDropped 1
  | .out p =>
    let k' := match p with
      | .l _ => { k with ttl := k.ttl - 1 }
      | _ => k
    let spent := match p with
      | .l _ => k.ttl = 0
      | _ => false
    if b.usable p && !spent then b.putOut p c 3 k'.bytesOf false (.comet p k') else b.addInst Cnt.linkDropped 1

/-- A message of a comet collective. -/
def Blk.cometMsg (b : Blk) (x : Comet) (kind stage step : Nat) (dst : InstId) (payload : List Byte) : CometMsg :=
  { kind := BitVec.ofNat 4 kind, ttl := b.ttlInit, op := x.op, int := x.int, mode := x.ordered, pass := x.pass,
    stage := BitVec.ofNat 3 stage, step := BitVec.ofNat 4 step, rsv := 0, rsv8 := 0, len := BitVec.ofNat 7 payload.length, id := x.id,
    src := b.self, dst := dst, part := x.part, check := b.checkOf x.entry,
    crc := BitVec.ofNat 16 (crc32c payload).toNat, payload := payload }

/-- Largest power of two not above a count. -/
def pow2Below (n : Nat) : Nat := 2 ^ Nat.log2 n

/-- The rail partners still to be messaged from DOUBLE step `from'` on: stage, step, package index (R250). -/
def railPlan (p a from' : Nat) : List (Nat × Nat × Nat) :=
  let p' := pow2Below p
  if p' ≤ a then [(1, 0, a - p')]
  else
    ((List.range (Nat.log2 p')).filter (fun s => from' ≤ s)).map (fun s => (2, s, a ^^^ 2 ^ s))
      ++ (if a + p' < p then [(3, 0, a + p')] else [])

/-- The rail partners still to be messaged at a stage and step reached (R250). -/
def railRest (p a stage step : Nat) : List (Nat × Nat × Nat) :=
  if stage = 3 then [] else railPlan p a (step + b01 (stage == 2))

/-- Send CABORT to every member that a collective would message in the rest of the algorithm: round the package unless its
values of the last pass are summed, and along the rail from where it stands; in the exponent pass the value pass is still to
come (R256). -/
def Blk.tellAbort (b : Blk) (c : Option CtxId) (x : Comet) : Blk :=
  let ring := b.pkgRing x.entry
  let i := b.ixIn ring
  let near := if (x.acc.isNone || x.pass) && 1 < ring.length
    then [neighbour ring i false, neighbour ring i true].filterMap id else []
  let rail := b.railByA x.entry
  let far := if (b.grp x.entry).tiered
    then (if x.pass then railPlan rail.length (b.ixIn rail) 0
      else railRest rail.length (b.ixIn rail) x.stage.toNat x.step.toNat).filterMap fun t => rail[t.2.2]? else []
  ((near ++ far).eraseDups).foldl (fun b aim => b.sendComet c (b.cometMsg x 3 0 0 aim [])) b

/-- A collective as it stands before its start. -/
def Comet.unstarted (id : Word) (c : CtxId) (part : PartId) (e : BitVec 4) : Comet :=
  { id := id, ctx := c, queue := 0, part := part, entry := e, barrier := true, op := 0, int := false, ordered := false,
    len := 0, src := [], dst := Desc.zero, pass := false, grid := [], values := [], acc := none, stage := 0, step := 0,
    rail := [], later := [], since := 0 }

/-- Send CABORT for a collective that this member has not started (R256). -/
def Blk.abortUnstarted (b : Blk) (c : CtxId) (part : PartId) (id : Word) : Blk :=
  match b.entryOf id with
  | none => b
  | some e => b.tellAbort (some c) (Comet.unstarted id c part e)

/-- Abort a collective that runs here: the members it would still message are told, and dst is undefined (R256). -/
def Blk.abortComet (b : Blk) (x : Comet) : Blk :=
  let b := b.tellAbort (some x.ctx) x
  let b := if x.barrier then b else b.spoil x.part x.dst x.len
  { b with comets := { b.comets with live := b.comets.live.filter fun y => !(y.id = x.id && y.entry = x.entry) } }

/-- Abort the comet collectives that meet a test. -/
def Blk.abortComets (b : Blk) (p : Comet → Bool) : Blk := (b.comets.live.filter p).foldl Blk.abortComet b

end Sys2Proof.Machine
end

