-- ==== Sys2Proof/Machine/FoldBase.lean ====
section
/-! DEFINITION. FoldBase: the segments, parts and chunks of a fold collective (08 R211, R235), which chunks
are released (R223, R224), and what a fold or comet holds back of other commands (R225, R226; 09 R247). -/

namespace Sys2Proof.Machine
open Sys2Proof

/-- Elements of a whole chunk. -/
def chunkElems : Nat := 16384

/-- Segment length of `total` elements over a ring of `n` (R211). -/
def segLen (total n : Nat) : Nat := 32 * ceilDiv total (32 * n)

/-- Start and length of a run of `len` elements from `start` cut to `limit`. -/
def cutRun (start len limit : Nat) : Nat × Nat := (start, Nat.min len (limit - start))

/-- Local index of this member in its package ring. -/
def Blk.localIx (b : Blk) (e : BitVec 4) : Nat := b.ixIn (b.pkgRing e)

/-- Length of a shard of a TIERED group: that of R235 in an ALL_REDUCE; where a member owns a segment of its own, the P
segments of R211 that a package's members own side by side (log 60). -/
def Blk.shardLen (b : Blk) (e : BitVec 4) (kind : BitVec 2) (total : Nat) : Nat :=
  let g := b.grp e
  if kind = 0 then segLen total g.m else g.n / g.m * segLen total g.n

/-- First element and elements of segment `x` of a stage: the shards of a TIERED group over the package
ring, and the parts of the own shard over the rail ring (R211, R235). -/
def Blk.segment (b : Blk) (e : BitVec 4) (kind : BitVec 2) (total stage x : Nat) : Nat × Nat :=
  let g := b.grp e
  if stage = 0 then cutRun (x * segLen total g.n) (segLen total g.n) total
  else
    let q1 := b.shardLen e kind total
    if stage = 2 then
      let shard := cutRun (b.localIx e * q1) q1 total
      let q2 := segLen q1 (g.n / g.m)
      cutRun (shard.1 + x * q2) q2 (shard.1 + shard.2)
    else cutRun (x * q1) q1 total

/-- The part of a segment that a direction carries (R211). -/
def Blk.segPart (b : Blk) (e : BitVec 4) (kind : BitVec 2) (total stage x : Nat) (back : Bool) : Nat × Nat :=
  let g := b.grp e
  let s := b.segment e kind total stage x
  if g.dirs.length = 1 then s
  else
    let q1 := b.shardLen e kind total
    let q := if stage = 0 then segLen total g.n else if stage = 2 then segLen q1 (g.n / g.m) else q1
    let h := Nat.min (32 * ceilDiv q 64) s.2
    if back then (s.1 + h, s.2 - h) else (s.1, h)

/-- Index of chunk `j` of a segment part. -/
def chunkIx (x : Nat) (back : Bool) (j : Nat) : BitVec 24 := BitVec.ofNat 24 (x * 2 ^ 15 + b01 back * 2 ^ 14 + j)

/-- Segment and chunk number of an index. -/
def ixSeg (i : BitVec 24) : Nat := i.toNat / 2 ^ 15
def ixNum (i : BitVec 24) : Nat := i.toNat % 2 ^ 14

/-- First element and elements of a chunk. -/
def Blk.chunkRun (b : Blk) (s : Seat) (stage : Nat) (i : BitVec 24) : Nat × Nat :=
  let p := b.segPart (s.entry.getD 0) s.kind s.n stage (ixSeg i) s.dir
  cutRun (p.1 + ixNum i * chunkElems) chunkElems (p.1 + p.2)

/-- Chunks of a segment part. -/
def Blk.partChunks (b : Blk) (s : Seat) (stage x : Nat) : Nat :=
  ceilDiv (b.segPart (s.entry.getD 0) s.kind s.n stage x s.dir).2 chunkElems

/-- The stage and segment pairs whose chunks a member writes to dst (R211, R218, R235). -/
def Blk.resultParts (b : Blk) (s : Seat) : List (Nat × Nat) :=
  let e := s.entry.getD 0
  let g := b.grp e
  if g.tiered then
    let rail := b.railRing e
    let own := b.ixIn rail
    if s.kind = 1 then [(2, own)]
    else (List.range rail.length).map (fun x => (2, x))
      ++ ((List.range g.m).filter (· != b.localIx e)).map fun x => (3, x)
  else if s.kind = 1 then [(0, b.ixIn (b.pkgRing e))]
  else (List.range g.n).map fun x => (0, x)

/-- The result chunks of a seat: stage and index; with a bound, only the first of every part. -/
def Blk.resultChunks (b : Blk) (s : Seat) (bound : Option Nat) : List (Nat × BitVec 24) :=
  (b.resultParts s).flatMap fun p =>
    let n := b.partChunks s p.1 p.2
    (List.range (match bound with
      | some c => Nat.min c n
      | none => n)).map fun j => (p.1, chunkIx p.2 s.dir j)

/-- The record of a result chunk. -/
def Seat.result (s : Seat) (stage : Nat) (i : BitVec 24) : Option Chunk :=
  s.chunks.find? fun c => c.final && c.stage.toNat = stage && c.index = i

def Seat.isSettled (s : Seat) (stage : Nat) (i : BitVec 24) : Bool :=
  match s.result stage i with
  | some c => c.written && c.settled
  | none => false

/-- Whether a result chunk is released (R224). -/
def Seat.isReleased (s : Seat) (stage : Nat) (i : BitVec 24) : Bool :=
  match s.result stage i with
  | some c => c.written && (s.eager || c.settled)
  | none => false

/-- Pieces of a chunk that are released: under EAGER as soon as they are written (R224, R234). -/
def Seat.released (s : Seat) (c : Chunk) : List Piece := c.pieces.filter fun p => s.eager || p.settled

/-- The parts of 4,096 elements of a run that no piece covers. -/
def uncovered (len : Nat) (done : List Piece) : List (Nat × Nat) :=
  ((List.range (ceilDiv len 4096)).map fun u => (4096 * u, Nat.min 4096 (len - 4096 * u))).filter fun r =>
    !(done.any fun p => p.first ≤ r.1 && r.1 + r.2 ≤ p.first + p.len)

/-- The seats that run a collective. -/
def Blk.seatsOf (b : Blk) (id : Word) : List (BitVec 4) :=
  seatNums.filter fun n => (b.seat n).live && (b.seat n).id = id

/-- Whether the chunks a `fold.wait` names are released, or with no count every seat is SETTLED (R208, R209,
R224). -/
def Blk.foldDone (b : Blk) (id : Word) (count : Option Nat) : Bool :=
  (b.seatsOf id).all fun n =>
    let s := b.seat n
    match count with
    | some _ => (b.resultChunks s count).all fun p => s.isReleased p.1 p.2
    | none => s.st == .settled

/-- Element offset of a chunk in dst: REDUCE_SCATTER's dst covers the own segment only (R211). -/
def Blk.dstElem (b : Blk) (s : Seat) (elem : Nat) : Nat :=
  if s.kind = 1 then
    let e := s.entry.getD 0
    let stage := if (b.grp e).tiered then 2 else 0
    elem - (b.segment e s.kind s.n stage (b.ixIn (b.ringOf e stage))).1
  else elem

/-- Element offset in src: ALL_GATHER's src covers the own segment only. -/
def Blk.srcElem (b : Blk) (s : Seat) (elem : Nat) : Nat :=
  if s.kind = 2 then
    let e := s.entry.getD 0
    let stage := if (b.grp e).tiered then 2 else 0
    elem - (b.segment e s.kind s.n stage (b.ixIn (b.ringOf e stage))).1
  else elem

/-- The byte ranges of elements of a descriptor, row by row. -/
def Blk.elemRanges (b : Blk) (n : PartId) (d : Desc) (first count : Nat) : List Range :=
  if d.n0 = 0 || count = 0 then []
  else
    (List.range (ceilDiv (first % d.n0 + count) d.n0)).flatMap fun k =>
      let row := first / d.n0 + k
      let lo := if k = 0 then first % d.n0 else 0
      let hi := Nat.min d.n0 (first % d.n0 + count - k * d.n0)
      let at' := (d.row row).toNat + lo * d.e
      let len := (hi - lo) * d.e
      if d.isScratch then [⟨.scratch, d.banks, spanBanks d.banks at' len, at', len, len⟩]
      else if d.isStack then [⟨.stack, 0, 0, (b.region n (field at' 39 36)).start + field at' 35 0, len, len⟩]
      else []

/-- Unreleased dst ranges of a running collective's seat. -/
def Blk.unreleased (b : Blk) (s : Seat) : List Range :=
  (b.resultChunks s none).flatMap fun p =>
    let run := b.chunkRun s p.1 p.2
    let done := match s.result p.1 p.2 with
      | some c => s.released c
      | none => []
    (uncovered run.2 done).flatMap fun r => b.elemRanges s.part s.dst (b.dstElem s (run.1 + r.1)) r.2

/-- The ranges a seat holds for writing (R225). -/
def Blk.seatHolds (b : Blk) (s : Seat) : List Range :=
  b.rangeOf s.part s.src ++ b.rangeOf s.part s.dst ++ (match s.stage with
    | some d => b.rangeOf s.part d
    | none => [])

/-- A seat whose collective is not settled. -/
def Seat.busy (s : Seat) : Bool := s.st == .bound || s.st == .running || s.st == .gathered

/-- Pieces of result chunks, written and not settled, that reads touch under EAGER (R226, R234): stage, index and
number. -/
def Blk.provisional (b : Blk) (s : Seat) (reads : List Range) : List (Nat × BitVec 24 × Nat) :=
  if s.eager then
    (b.resultChunks s none).flatMap fun p =>
      match s.result p.1 p.2 with
      | none => []
      | some c =>
        (c.pieces.filter fun q => !q.settled &&
          rangesMeet reads (b.elemRanges s.part s.dst (b.dstElem s ((b.chunkRun s p.1 p.2).1 + q.first)) q.len)).map
          fun q => (p.1, p.2, q.no)
  else []

/-- Whether a fold holds a command back: it reads dst not yet released, writes a held range, or reads a
provisional chunk with the reader table full (R224 to R226). -/
def Blk.foldBlocks (b : Blk) (c : CtxId) (reads writes : List Range) : Bool :=
  seatNums.any fun n =>
    let s := b.seat n
    s.busy && (rangesMeet reads (b.unreleased s) || rangesMeet writes (b.seatHolds s)
      || (!(b.provisional s reads).isEmpty && !s.readers.contains c && 4 ≤ s.readers.length))

/-- Mark the provisional pieces that a command of a context reads (R226). -/
def Blk.markReads (b : Blk) (c : CtxId) (reads : List Range) : Blk :=
  seatNums.foldl (fun b n =>
    let s := b.seat n
    let hit := if s.busy then b.provisional s reads else []
    if hit.isEmpty then b
    else
      let readers := if s.readers.contains c then s.readers else s.readers ++ [c]
      let bitNo := (findIdx (fun x => x = c) readers).getD 0
      b.setSeat n { s with
        readers := readers,
        chunks := s.chunks.map fun k =>
          if !k.final then k
          else { k with pieces := k.pieces.map fun q =>
            if hit.contains (k.stage.toNat, k.index, q.no) then
              { q with consumed := q.consumed ||| BitVec.ofNat 4 (2 ^ bitNo) } else q } }) b

/-- Whether a collective of a group that is not settled holds one of the areas (R212). -/
def Blk.groupHolds (b : Blk) (e : BitVec 4) (areas : List Range) : Bool :=
  seatNums.any fun n =>
    let s := b.seat n
    s.busy && s.entry = some e && rangesMeet areas (b.seatHolds s)

/-- The dst bytes of a comet collective, which hold commands back until it completes here (R247). -/
def Blk.cometRanges (b : Blk) (x : Comet) : List Range :=
  if x.barrier then [] else b.elemRanges x.part x.dst 0 (x.len / x.dst.e)

def Blk.cometBlocks (b : Blk) (reads writes : List Range) : Bool :=
  b.comets.live.any fun x => rangesMeet (reads ++ writes) (b.cometRanges x)

end Sys2Proof.Machine
end

