-- ==== Sys2Proof/Machine/Sched.lean ====
section
/-! DEFINITION. Sched: eligibility (14 R560), strides and passes (R370), switch points (R371, R372), and
teardown (13 R349; 14 R381). -/

namespace Sys2Proof.Machine
open Sys2Proof

/-! ### Register values -/

def Ctx.s (x : Ctx) (q : BitVec 2) (n : BitVec 5) : Word := (x.que q).sregs.rd n

def Ctx.pred (x : Ctx) (n : BitVec 3) : Bool := n = 0 || bit x.preds.toNat n.toNat

/-- Set a predicate; p0 ignores writes (R301). -/
def Ctx.setPred (x : Ctx) (n : BitVec 3) (v : Bool) : Ctx :=
  if n = 0 then x
  else { x with preds := if v then x.preds ||| BitVec.ofNat 8 (2 ^ n.toNat)
                         else x.preds &&& ~~~(BitVec.ofNat 8 (2 ^ n.toNat)) }

/-- The layer an e register holds. -/
def Ctx.layerE (x : Ctx) (f : BitVec 5) : Layer := x.eregs.rd (BitVec.ofNat 2 f.toNat)

/-- The descriptor a t register holds. -/
def Ctx.desc (x : Ctx) (n : BitVec 4) : Desc := Desc.ofNat (x.tregs.rd n).toNat

/-- The descriptor a 5-bit field names; none where the field means absent (R328). -/
def Ctx.descF (x : Ctx) (f : BitVec 5) : Option Desc := if f = 0 then none else some (x.desc (BitVec.ofNat 4 f.toNat))

/-- The guard's value (R325). -/
def Ctx.guard (x : Ctx) (g : Guard) : Bool := x.pred g.gpred != g.ginv

/-! ### The context cache (R357, R359, R361) -/

/-- A descriptor (R359). -/
def Blk.descriptor (b : Blk) (c : CtxId) : List Byte :=
  let x := b.ctx c
  toLe 4 (put 31 29 (b.ctxState c) + put 28 26 x.part.toNat + put 25 19 x.lanesSaved.toNat + put 15 0 x.shares.toNat)
    ++ toLe 4 x.frame.toNat ++ toLe 8 x.pass.toNat ++ toLe 8 x.since.toNat ++ toLe 4 (b.inFlight c).length ++ toLe 4 0
    ++ queueNums.flatMap (fun q => toLe 4 (x.que q).head.toNat) ++ queueNums.flatMap fun q => toLe 4 (x.que q).tail.toNat

/-- Where the context store holds a descriptor (R357). -/
def Blk.storeAddr (b : Blk) (c : CtxId) : Nat := fld (b.reg 0x028) 27 0 * 4096 + 64 * c.toNat

/-- Every partition number. -/
def parts : List PartId := (List.range 8).map (BitVec.ofNat 3)

def Blk.slot (b : Blk) (n : PartId) : Slot := b.slots.rd n
def Blk.setSlot (b : Blk) (n : PartId) (s : Slot) : Blk := { b with slots := b.slots.wr n s }

/-- A pinned context cache entry (R361). -/
def Blk.pinned (b : Blk) (c : CtxId) : Bool :=
  (parts.any fun n => (b.slot n).running = some c || (b.slot n).incoming = some c || (b.slot n).outgoing = some c)
    || !(b.inFlight c).isEmpty || b.bells.any fun x => x.ctx = c

/-- A context's descriptor is in the cache, its latest entry: of unpinned entries the least recently used makes
room and is written back. None where every entry is pinned. -/
def Blk.touch (b : Blk) (c : CtxId) : Option Blk :=
  if b.cache.contains c then some { b with cache := c :: b.cache.filter (· != c) }
  else
    let b := { b with mem := b.mem.freshen 19 fun w => w / 16 = c.toNat }
    if b.cache.length < 4096 then some { b with cache := c :: b.cache }
    else match (b.cache.reverse.filter fun x => !b.pinned x) with
      | [] => none
      | old :: _ => some { b.poke (b.storeAddr old) (b.descriptor old) with cache := c :: b.cache.filter (· != old) }

/-- A change of a context's descriptor is made in its cache entry, which is fetched where it has been replaced (R361). -/
def Blk.touched (b : Blk) (c : CtxId) : Blk := (b.touch c).getD b

/-! ### Waits outside the context (R318, R560) -/

/-- The dispatch of a context and layer with a sequence number: the last one opened, where a RESET has repeated it. -/
def Blk.dispOf (b : Blk) (c : CtxId) (layer : Layer) (seq : Word) : Option Dispatch :=
  (b.disps.filter fun d => d.ctx = c && d.layer = layer && d.seq = seq).getLast?

/-- Whether every READY of groups `g0` to `g0 + ng - 1` is in (R189). -/
def Dispatch.groupsReady (d : Dispatch) (g0 ng : Nat) : Bool :=
  (List.range ng).all fun i =>
    match d.groups[g0 + i]? with
    | some g => g.ended && g.ready.isEmpty
    | none => false

/-- A sequence number lies ahead of the next one, by less than half of their range (08 R212). -/
def isAhead (next seq : BitVec 20) : Bool := 1 ≤ (seq - next).toNat && (seq - next).toNat < 2 ^ 19

/-- Whether a wait outside the context still holds (R318). -/
def Blk.stillOut (b : Blk) (c : CtxId) (left : Word) (w : OutWait) : Bool :=
  match w with
  | .doorbell need => left.toNat < need
  | .ready layer seq g0 ng =>
    match b.dispOf c layer seq with
    | some d => !d.groupsReady g0 ng
    | none => false
  | .held layer => (b.refresh.holder.find layer.toNat).isSome
  | .verdict layer => b.refresh.flips.any fun f => f.ctx = c && f.layer = layer && (f.due != [] || f.toCheck != [])
  | .fold id count => !b.foldDone id count
  | .foldTurn id => match b.entryOf id with
    | some e => isAhead (b.fgroup e).nextSeq (seqOf id)
    | none => false
  | .cometTurn id => match b.entryOf id with
    | some e => isAhead (b.fgroup e).cometSeq (seqOf id)
    | none => false
  | .comet q => b.comets.live.any fun x => x.barrier && x.ctx = c && x.queue = q
  | .foldHeld e areas => b.groupHolds e areas
  | .areas reads writes => b.foldBlocks c reads writes || b.cometBlocks reads writes

/-- The entry a queue's ring holds at an index, as memory stands (R307). -/
def Blk.entryWord (b : Blk) (p : Site) (idx : Word) : Quad :=
  let u := b.que p
  let at' := u.base.toNat + 8 * (idx.toNat % 2 ^ u.size.toNat)
  let r := b.region (b.ctx p.ctx).part (field at' 39 36)
  BitVec.ofNat 64 (leNat (b.mem.stack.rdBytes (r.start + field at' 35 0) 8))

/-- The innermost loop's back-edge comes next (R316). -/
def Queue.atBackEdge (u : Queue) : Bool :=
  match u.loops with
  | l :: _ => u.pc == l.start + BitVec.ofNat 32 l.body.toNat
  | [] => false

/-- Entries that must lie before the tail for a head to issue: a `loop` or `loopv` and its body (R313), a `score` or
`hash` and its `select` (R98). -/
def entriesNeeded (w : Quad) : Nat :=
  let op := opcodeOf w
  if op = 0x0E || op = 0x0F then 1 + field w.toNat 41 32
  else if 0x20 ≤ op && op ≤ 0x23 then 2 else 1

/-- A `comet.barrier` of the queue has not completed: what follows it waits (09 R247). -/
def Blk.behindBarrier (b : Blk) (p : Site) : Bool :=
  b.comets.live.any fun x => x.barrier && x.ctx = p.ctx && x.queue = p.queue

/-- ND_REFRESH_n.gate (15 R392). -/
def Blk.stepGate (b : Blk) (n : PartId) : Bool := bit (b.reg 0x118 n.toNat).toNat 13

/-- The descriptor fields, of nine in order, that a command of an opcode reads, and those it writes (13 R330). -/
def descRoles (op : Nat) : List Nat × List Nat :=
  if op = 0x20 || op = 0x21 then ([0, 3], []) else if op = 0x22 || op = 0x23 then ([0], [])
  else if op = 0x28 then ([3], [2, 3, 4, 5, 6])
  else if op = 0x29 then ([0, 1, 2], [3])
  else if op = 0x30 then ([], [1, 2]) else if op = 0x31 || op = 0x32 then ([0], [1])
  else if op = 0x38 then ([1, 2], []) else if op = 0x39 then ([0], [1])
  else if op = 0x3A || op = 0x3B then ([0, 2], [1])
  else if op = 0x48 then ([2], [3, 4]) else if op = 0x4C then ([1], [2])
  else if op = 0x50 then ([1], []) else if op = 0x51 then ([], [1])
  else if 0x60 ≤ op && op < 0x70 then ([0, 2], [1])
  else if op = 0x71 then ([0, 1, 3, 4], [2]) else if op = 0x74 then ([0, 1], [2])
  else if 0x70 ≤ op && op < 0x74 then ([0], [1])
  else if op = 0x78 then ([0], []) else if op = 0x79 then ([], [0]) else ([], [])

/-- The descriptors that an entry names, those it reads and those it writes; a `combine` names some of its by 4 bits, and a
command with the source FRESH none. -/
def Ctx.named (x : Ctx) (w : Quad) : List Desc × List Desc :=
  let op := opcodeOf w
  if 0x40 ≤ op && op ≤ 0x42 then
    let c := decC w
    let area := [x.desc c.landing, x.desc c.acc]
    (area ++ (x.descF c.res).toList ++ (x.descF c.oidx).toList, area ++ [x.desc c.out] ++ (x.descF c.drops).toList)
  else if op = 0x78 && (decR w).m = 1 then ([], [])
  else
    let f := decR w
    let at' := fun (i : Nat) => x.descF ([f.a, f.b, f.c, f.d, f.e, f.f, f.gg, f.h, f.i].getD i 0)
    ((descRoles op).1.filterMap at', (descRoles op).2.filterMap at')

/-- What the areas and the layers that an entry names would keep it waiting for: a fold or comet collective that holds the areas
(08 R224 to R226; 09 R247), and a held layer of an OWNED descriptor (13 R338). -/
def Blk.peekAreas (b : Blk) (n : PartId) (x : Ctx) (w : Quad) : List OutWait :=
  let ds := x.named w
  .areas (ds.1.flatMap (b.rangeOf n)) (ds.2.flatMap (b.rangeOf n))
    :: ((ds.1 ++ ds.2).filter (·.isOwned)).map fun d => .held (x.eregs.rd (BitVec.ofNat 2 d.ereg.toNat))

/-- What an entry at a queue's head may wait on outside its context, were it presented: its body's entries, a
`comet.barrier` before it, READY, a collective, areas that one holds, or a held layer (R318). -/
def Blk.peekOut (b : Blk) (p : Site) (w : Quad) : List OutWait :=
  let x := b.ctx p.ctx
  let u := x.que p.queue
  let op := opcodeOf w
  let f := decR w
  let need := entriesNeeded w
  if u.left.toNat < need then [.doorbell need]
  else if b.behindBarrier p then [.comet p.queue]
  else if !x.guard f.g then []
  else b.peekAreas x.part x w ++
    (if 0x40 ≤ op && op ≤ 0x42 then
      let c := decC w
      (((b.disps.filter (fun d => d.ctx = p.ctx && d.layer = x.eregs.rd c.e)).getLast?).map fun d =>
        OutWait.ready d.layer d.seq (x.s p.queue c.g0).toNat (x.s p.queue c.ng).toNat).toList
    else if (op = 0x49 || op = 0x4A) && x.away.contains (x.s p.queue f.a) then []
    else if op = 0x49 then [.fold (x.s p.queue f.a) (some (x.s p.queue f.b).toNat)]
    else if op = 0x4A then [.fold (x.s p.queue f.a) none]
    else if op = 0x48 then
      let ds := x.named w
      .foldTurn (x.s p.queue f.a) :: ((b.entryFor x.part (x.s p.queue f.a)).map fun e =>
        OutWait.foldHeld e ((ds.1 ++ ds.2).flatMap (b.rangeOf x.part))).toList
    else if op = 0x4C || op = 0x4D then [.cometTurn (x.s p.queue f.a)]
    else if op = 0x1C then
      (match b.refresh.holder.find (x.layerE f.a).toNat with
        | some c => if c = p.ctx then [] else [.held (x.layerE f.a)]
        | none => [])
    else if 0x20 ≤ op && op ≤ 0x23 then
      let next := b.entryWord p (u.pc + 1)
      b.peekAreas x.part x next ++ (if (decR next).m.toNat % 4 ≤ 1 then [.held (x.layerE f.b)] else [])
    else [])

/-- Whether a queue's head waits on something outside the context: what it was found to wait on when it was
presented, or else what the entry that its ring holds would wait on (R560). -/
def Blk.headOutside (b : Blk) (c : CtxId) (q : BitVec 2) : Bool :=
  let u := (b.ctx c).que q
  if u.waiting then
    match u.outside with
    | some w => b.stillOut c u.left w
    | none => false
  else !u.pairOpen && !u.atBackEdge && (b.peekOut ⟨c, q⟩ (b.entryWord ⟨c, q⟩ u.pc)).any (b.stillOut c u.left)

/-- An EXPORT has taken the context out of scheduling (R367). -/
def Blk.exporting (b : Blk) (c : CtxId) : Bool :=
  match b.ctxOp with
  | some o => o.op = 3 && o.ctx = c
  | none => false

/-- Whether a context is eligible (R560). -/
def Blk.eligible (b : Blk) (c : CtxId) : Bool :=
  let x := b.ctx c
  x.alive && b.ctxState c == 2 && !b.exporting c && queueNums.any fun q => (x.que q).ready && !b.headOutside c q

def Blk.eligibles (b : Blk) (n : PartId) : List CtxId :=
  b.ctxIds.filter fun c => (b.ctx c).part = n && b.eligible c

/-- The eligible context with the lowest pass, ties to the lower number (R371). -/
def Blk.nextCtx (b : Blk) (n : PartId) : Option CtxId :=
  bestBy (fun x y => (b.ctx x).pass.toNat < (b.ctx y).pass.toNat) (b.eligibles n)

/-- The pass of a context that becomes eligible, is created or restored (R370). -/
def Blk.startPass (b : Blk) (n : PartId) (c : CtxId) (own : Quad) : Quad :=
  match (b.eligibles n).filter (· != c) with
  | [] => own
  | l =>
    let least := l.foldl (fun m x => Nat.min m (b.ctx x).pass.toNat) (2 ^ 64 - 1)
    if own.toNat < least then BitVec.ofNat 64 least else own

/-- Contexts that became eligible since a state take their pass and age anew (R370, R375). -/
def Blk.noteEligible (old b : Blk) : Blk :=
  (b.ctxIds.filter fun c => b.eligible c && !old.eligible c).foldl (fun b c =>
    (b.touched c).modCtx c fun x => { x with pass := b.startPass x.part c x.pass, since := b.cycle }) b

/-- Stride of a number of shares (R370). -/
def strideOf (shares : Nat) : Nat := if shares = 0 then 0 else 2 ^ 24 / shares

/-- ND_PART_SCHED_n fields. -/
def Blk.partShares (b : Blk) (n : PartId) : Nat := fld (b.reg 0x108 n.toNat) 31 24
def Blk.trumpCycles (b : Blk) (n : PartId) : Nat := fld (b.reg 0x108 n.toNat) 23 14 * 100000
def Blk.quantum (b : Blk) (n : PartId) : Nat := fld (b.reg 0x108 n.toNat) 7 0 * 1024

/-- Commands that a switch suspends at a tile boundary: all but folds, comets and lane runs (R314, R346). -/
def Flight.suspends (f : Flight) : Bool :=
  let op := opcodeOf f.word
  !(op < 0x20 || (0x48 ≤ op && op ≤ 0x5F))

/-- Flights of a context that still run a tile. -/
def Blk.tilesRun (b : Blk) (c : CtxId) : List Flight :=
  b.flights.filter fun f => f.ctx = c && f.suspends && f.suspended.isNone

/-- Opcodes that a lane run holds: the vec and the control class, but `halt` ends it (R306, R330). -/
def runOpcode (op : Nat) : Bool := (0x01 ≤ op && op ≤ 0x11 && op != 0x10) || (0x50 ≤ op && op ≤ 0x5B)

/-- Whether a lane run stands in the way of a switch: a run that holds a vec instruction and whose next entry, or
back-edge, belongs to it (R306). At the tail the run has ended (log 54). -/
def Blk.inLaneRun (b : Blk) (c : CtxId) : Bool :=
  queueNums.any fun q =>
    let u := (b.ctx c).que q
    u.runVec && u.ready && (u.atBackEdge || runOpcode (opcodeOf (b.entryWord ⟨c, q⟩ u.pc)))

/-- The lane run of a queue that is switched out is over (R306, R315). -/
def Queue.endRun (u : Queue) : Queue :=
  if u.runVec then { u with runLedger := 0, runVec := false, runNo := u.runNo + 1, vregs := [] } else u

/-- A switch point: the outgoing context stops issuing, and an incoming one is named (R371). -/
def Blk.switchPoint (b : Blk) (n : PartId) (inc : CtxId) (trump : Bool) : Blk :=
  let s := b.slot n
  let b := match s.running with
    | some c => b.modCtx c fun x => { x with since := b.cycle, queues := x.queues.map Queue.endRun }
    | none => b
  b.setSlot n { s with running := none, outgoing := s.running.or s.outgoing, incoming := some inc,
                       switchFrom := b.cycle.toNat, switchD := false, byTrump := trump,
                       switchQ := (queueNums.filter fun q => ((b.ctx inc).que q).ready).length }

/-- Switch to the next eligible context, where the slot is empty and no switch runs (R371, R372). -/
def Blk.fillSlot (b : Blk) (n : PartId) : Blk :=
  let s := b.slot n
  if s.running.isNone && s.incoming.isNone then
    match b.nextCtx n with
    | some c => b.switchPoint n c false
    | none => b
  else b

def Blk.fillSlots (b : Blk) : Blk := parts.foldl Blk.fillSlot b

/-- Whether a partition's run slot can issue: a head of its running context waits on nothing outside. -/
def Blk.slotCan (b : Blk) (n : PartId) : Bool :=
  match (b.slot n).running with
  | some c => (b.ctx c).alive && queueNums.any fun q => ((b.ctx c).que q).ready && !b.headOutside c q
  | none => false

/-- The pass of a partition whose run slot becomes able to issue (R370). -/
def Blk.slotPass (b : Blk) (n : PartId) : Quad :=
  let others := (parts.filter fun m => m != n && b.slotCan m).map fun m => (b.slot m).pass.toNat
  match others with
  | [] => (b.slot n).pass
  | x :: rest => BitVec.ofNat 64 (Nat.max (b.slot n).pass.toNat (rest.foldl Nat.min x))

/-- Run slots that became able to issue since a state take their pass anew (R370). -/
def Blk.noteSlots (old b : Blk) : Blk :=
  (parts.filter fun n => b.slotCan n && !old.slotCan n).foldl (fun c n => c.setSlot n { c.slot n with pass := b.slotPass n }) b

/-- What may follow a change that ends waits: contexts become eligible, empty slots take them, and run slots become able
to issue. -/
def Blk.settle (old b : Blk) : Blk := Blk.noteSlots old (Blk.noteEligible old b).fillSlots

/-- The running context leaves its slot; the switch that follows has D = 0 (R371, R381). -/
def Blk.leaveSlot (b : Blk) (c : CtxId) : Blk :=
  let n := (b.ctx c).part
  let s := b.slot n
  let s := if s.running = some c then { s with running := none, charged := 0 } else s
  let s := if s.outgoing = some c then { s with outgoing := none, switchD := false } else s
  let s := if s.incoming = some c then { s with incoming := none } else s
  b.setSlot n s

/-! ### Teardown -/

/-- A context stops: its queues read DEAD, and its dispatches and collectives abort (R349 steps 1 and 4). -/
def Blk.stopCtx (b : Blk) (c : CtxId) : Blk :=
  let b := b.modCtx c fun x => { x with queues := x.queues.map fun u => { u with dead := true, waiting := false, outside := none, pairOpen := false } }
  let b := ((b.abortDispatches c).abortSeats fun s => s.ctx = c).abortComets fun x => x.ctx = c
  { b with folds := { b.folds with starts := b.folds.starts.filter fun t => t.1 != c },
           comets := { b.comets with starts := b.comets.starts.filter fun t => t.1 != c } }

/-- The collective of a FOLD_FAULT or COMET_FAULT that does not run in the context: the member that raises it sends FABORT or
CABORT all the same, unless another member has aborted it (08 R213, R231; 09 R256). -/
def Blk.abortFaulted (b : Blk) (c : CtxId) (f : Flt) : Blk :=
  let id := f.b
  if f.code = 0x16 && f.a != 9 && !((b.seatsOf id).any fun n => (b.seat n).ctx = c) then
    b.abortUnbound (some c) (b.ctx c).part id
  else if f.code = 0x17 && f.a != 9 && !(b.comets.live.any fun x => x.id = id && x.ctx = c) then
    b.abortUnstarted c (b.ctx c).part id
  else b

/-- A fault in a context: one record, and its teardown begins (R349). A context already torn takes no
second fault. -/
def Blk.fault (b : Blk) (p : Site) (idx : Word) (w : Quad) (f : Flt) : Blk :=
  if (b.ctx p.ctx).alive then ((b.faultRec p.ctx p.queue idx w f).abortFaulted p.ctx f).stopCtx p.ctx else b

/-- A fault that names no instruction. -/
def Blk.ctxFault (b : Blk) (c : CtxId) (f : Flt) : Blk := b.fault ⟨c, 0⟩ 0 0 f

/-- A fault in the context of a command in flight. -/
def Blk.flightFault (b : Blk) (fl : Flight) (f : Flt) : Blk := b.fault ⟨fl.ctx, fl.queue⟩ fl.qidx fl.word f

/-- The rank of a flip's kind in the vault's verdict queue: the order in which flips become ready, those of one cycle by
context and queue, and of one flip GATE, SLOT, OWNER (R387, R74). -/
def Flip.rank (f : Flip) (k : BitVec 2) : Nat :=
  f.since * 2 ^ 22 + f.ctx.toNat * 16 + f.queue.toNat * 4 + k.toNat

/-- The verdict that the vault is at: the first of its queue, unless a bank that goes before it is still to be checked
(R387). -/
def Blk.verdictNow (b : Blk) : Option Verdict :=
  b.refresh.verdicts.head?.filter fun v => !(b.refresh.flips.any fun f => f.toCheck.any fun k => f.rank k < v.rank)

/-- A verdict that has its turn now and had none before is taken up in a given cycle. -/
def Blk.takeTurn (old b : Blk) (at' : Nat) : Blk :=
  match b.verdictNow with
  | none => b
  | some v =>
    if (old.verdictNow.map (·.rank)) = some v.rank then b
    else { b with refresh := { b.refresh with
      verdicts := modFirst (fun _ => true) (fun x => { x with from' := at' }) b.refresh.verdicts } }

/-- A GATE flip that will not flip takes its pushes along: those not sent are not sent, and those sent make no expert
resident (R395). -/
def Blk.cancelPushes (b : Blk) (f : Flip) : Blk :=
  if !bit f.kinds.toNat 0 then b
  else
    let mine := fun (x : Push) => x.layer = f.layer && !x.active && x.epoch = nextEpoch (b.table f.layer 0).epoch
    { b with refresh := { b.refresh with
      pushes := (b.refresh.pushes.filter fun x => !mine x || (x.sent && !x.written)).map fun x =>
        if mine x then { x with dead := true } else x } }

/-- A flip ends with its context: the banks that the vault accepted for it go back to FILLING with their content. -/
def Blk.endFlip (b : Blk) (f : Flip) : Blk :=
  let b := f.accepted.foldl (fun b k =>
    b.modBank f.layer k (b.table f.layer k).shadow fun t => if t.st = .checking then { t with st := .filling } else t) b
  b.cancelPushes f

/-- A context's commands end, and its references, ledgers, tally sets, flips and holds are released
(R349 steps 2 and 3; R69, R88, R130, R339). -/
def Blk.releaseAll (b : Blk) (c : CtxId) : Blk :=
  let gone := b.flights.filter fun f => f.ctx = c
  let b := (gone.flatMap fun f => f.binds).foldl Blk.dropRef b
  let b := ((b.disps.filter fun d => d.ctx = c && d.refHeld).map fun d => d.binding).foldl Blk.dropRef b
  let b := (b.refresh.flips.filter fun f => f.ctx = c).foldl Blk.endFlip b
  Blk.takeTurn b
    { b.modCtx c fun x => { x with holds := 0, collectives := [], away := [] } with
      flights := b.flights.filter fun f => f.ctx != c,
      disps := b.disps.filter fun d => d.ctx != c,
      refresh := { b.refresh with holder := b.refresh.holder.filter fun h => h.2 != c,
                                  flips := b.refresh.flips.filter fun f => f.ctx != c } } b.cycle.toNat

end Sys2Proof.Machine
end

