-- ==== Sys2Proof/Machine/Issue.lean ====
section
/-! DEFINITION. Issue: what every instruction's issue has in common: the guard (13 R325), field rules (R326
to R329), waits (12 R303, R311, 14 R360), the lowest fault (13 R348), charges (12 R316, R317; 14 R370),
lane runs (12 R306) and the start of a command in flight. -/

namespace Sys2Proof.Machine
open Sys2Proof

/-- Instruction classes as the issue rules tell them apart (R330). -/
inductive Cls where
  | control
  | vec
  | other
  deriving DecidableEq, Repr

/-! ### Registers that a command in flight will write (R303) -/

def regS (p : Site) (n : BitVec 5) : Nat := p.queue.toNat * 32 + n.toNat
def regP (n : BitVec 3) : Nat := 128 + n.toNat
def regT (n : BitVec 4) : Nat := 136 + n.toNat
def regE (n : BitVec 2) : Nat := 152 + n.toNat
def regV (p : Site) (n : BitVec 4) : Nat := 156 + p.queue.toNat * 16 + n.toNat

/-- The t register a descriptor field names, as a pending register; none where absent. -/
def regD (f : BitVec 5) : List Nat := if f = 0 then [] else [regT (BitVec.ofNat 4 f.toNat)]

def regEf (f : BitVec 5) : Nat := regE (BitVec.ofNat 2 f.toNat)

/-- The pending registers of a context. -/
def Blk.pending (b : Blk) (c : CtxId) : List Nat :=
  ((b.inFlight c).flatMap fun f => f.pend) ++ (b.ctx c).dones.map fun d => regP d.2

/-! ### Writes of shared registers in one cycle (R304) -/

/-- Writes of a shared register in one cycle stand in the order of R304: predicates that issuing commands clear, then
results of instructions in queue order, then done predicates. Whether a register was written in cycle `now` by a done
predicate, or by an instruction of a queue above `q`. -/
def Ctx.overruled (x : Ctx) (now : Nat) (q : Nat) (r : Nat) : Bool :=
  (x.doneAt = now && 128 < r && r < 136 && bit x.doneSet.toNat (r - 128))
    || (x.wroteAt = now && x.wrote.any fun w => w.1 = r && q < w.2.toNat)

/-- An instruction of queue `q` has written a register in cycle `now`. -/
def Ctx.noteWrite (x : Ctx) (now : Nat) (q : BitVec 2) (r : Nat) : Ctx :=
  { x with wroteAt := now, wrote := (if x.wroteAt = now then x.wrote else []) ++ [(r, q)] }

/-- A command completes in cycle `now`: its done predicate is set, over what an instruction writes in that cycle
(R304, R305). -/
def Ctx.donePred (x : Ctx) (now : Nat) (n : BitVec 3) : Ctx :=
  if n = 0 then x
  else { x.setPred n true with
    doneAt := now,
    doneSet := (if x.doneAt = now then x.doneSet else 0) ||| BitVec.ofNat 8 (2 ^ n.toNat) }

/-- The result of an instruction of queue `q` in cycle `now`, a predicate (R304). -/
def Ctx.resultPred (x : Ctx) (now : Nat) (q : BitVec 2) (n : BitVec 3) (v : Bool) : Ctx :=
  if x.overruled now q.toNat (regP n) then x else (x.setPred n v).noteWrite now q (regP n)

/-- A command issues in cycle `now`: its done predicate is cleared, under what else is written in that cycle (R304,
R305). -/
def Ctx.clearPred (x : Ctx) (now : Nat) (n : BitVec 3) : Ctx :=
  if x.overruled now 0 (regP n) || (x.wroteAt = now && x.wrote.any fun w => w.1 = regP n) then x else x.setPred n false

/-- The result of an instruction of queue `q` in cycle `now`, an e register (R304, R336). -/
def Ctx.resultE (x : Ctx) (now : Nat) (q : BitVec 2) (n : BitVec 2) (l : Layer) : Ctx :=
  if x.overruled now q.toNat (regE n) then x else { x with eregs := x.eregs.wr n l }.noteWrite now q (regE n)

/-- The done predicates whose cycle has come. -/
def Ctx.dueDones (x : Ctx) (now : Nat) : Ctx :=
  (x.dones.filter fun d => d.1 ≤ now).foldl (fun x d => x.donePred d.1 d.2)
    { x with dones := x.dones.filter fun d => !(d.1 ≤ now) }

def Ctx.setS (x : Ctx) (q : BitVec 2) (n : BitVec 5) (v : Word) : Ctx :=
  x.setQue q { x.que q with sregs := (x.que q).sregs.wr n v }

/-! ### Field rules: true where a field breaks its rule (R328, R329) -/

def badE (f : BitVec 5) : Bool := 4 ≤ f.toNat
def badP (f : BitVec 5) : Bool := 8 ≤ f.toNat
def badV (f : BitVec 5) : Bool := 16 ≤ f.toNat
def used (f : BitVec 5) : Bool := f != 0

/-- Fields of an R-format word that an instruction leaves unused: true where one is not 0. -/
def anyUsed (l : List (BitVec 5)) : Bool := l.any used

/-- What a command does with a descriptor operand. -/
structure Need where
  opt : Bool
  rd : Bool
  wr : Bool
  owned : Bool
  deriving DecidableEq, Repr

def needR : Need := ⟨false, true, false, false⟩
def needW : Need := ⟨false, false, true, false⟩
def needRW : Need := ⟨false, true, true, false⟩
def optR : Need := ⟨true, true, false, false⟩
def optW : Need := ⟨true, false, true, false⟩

/-- Whether a descriptor operand breaks R328, R329, or R298 and R356 for an OWNED one. -/
def Blk.badD (b : Blk) (x : Ctx) (f : BitVec 5) (n : Need) : Bool :=
  if f = 0 then !n.opt
  else if f.toNat < 16 then true
  else
    let d := x.desc (BitVec.ofNat 4 f.toNat)
    d.absent || (n.rd && !d.reads) || (n.wr && !d.writes)
      || (d.isOwned && (!n.owned || d.rank != 2 || d.s1 != 0 || !b.start.regime || !b.ownsLayer x.part (x.eregs.rd (BitVec.ofNat 2 d.ereg.toNat)).toNat))

/-- As badD, for a bare 4-bit descriptor number of format C (R327). -/
def Blk.badD4 (b : Blk) (x : Ctx) (f : BitVec 4) (n : Need) : Bool := b.badD x (BitVec.ofNat 5 (16 + f.toNat)) n

/-- Whether an e operand names a layer outside the partition's range (R356). -/
def Blk.badLayer (b : Blk) (x : Ctx) (f : BitVec 5) : Bool := !b.ownsLayer x.part (x.layerE f).toNat

/-- The lowest of the faults met (R348). -/
def lowest (l : List Flt) : Option Flt := bestBy (fun x y => x.code.toNat < y.code.toNat) l

/-! ### Whether an entry may be looked at -/

/-- A flip's ledger has passed and its banks have not flipped yet: nothing issues before they have (R73). -/
def Blk.flipDue (b : Blk) : Bool :=
  b.flights.any fun f => f.issued + 16 ≤ b.cycle.toNat && (b.ctx f.ctx).alive && (match f.job with
    | .flip _ _ => true
    | _ => false)

/-- The sequencer may look at a queue: the context runs, no switch, regime change, sleep, failure, missing
firmware or lifecycle stops issue, and the queue has a published entry (R287, R309, R371, R489; 20 R498, R504). -/
def Blk.looks (a : Aon) (b : Blk) (p : Site) : Bool :=
  let s := b.slot (b.ctx p.ctx).part
  let u := b.que p
  b.working && !b.flipDue && !b.health.chipFailed && b.start.regimeNext.isNone && a.gov.sleep == .s0 && a.vault.boot != .receive
    && (a.vault.fuses.lifecycle == .provisioned || a.vault.fuses.lifecycle == .owned)
    && (b.ctx p.ctx).alive && s.running == some p.ctx && s.incoming.isNone && u.ready
    && (u.pairOpen || u.nextAt ≤ b.cycle.toNat)

/-- The sequencer looks at the entry at the head of a queue: it may look at the queue, and no back-edge comes first. -/
def Blk.open (a : Aon) (b : Blk) (p : Site) : Bool := b.looks a p && (b.que p).left != 0 && !(b.que p).atBackEdge

/-- Issue slots left in this cycle (R311); a bubble leaves none (R15, R17). -/
def Blk.slotsLeft (b : Blk) : Nat :=
  if bit b.bubble.toNat 0 then 0 else if b.issueCycle = b.cycle.toNat then 4 - b.issueCount else 4

/-- A run slot whose context entered by a trump less than 2,048 cycles ago (R373). -/
def Blk.trumpsNow (b : Blk) (n : PartId) : Bool :=
  match (b.slot n).trumpFirst with
  | some t => b.cycle.toNat < t
  | none => false

/-- Partition `m` claims issue slots before `n`: a trump first, then the lower pass, then the lower number (R373). -/
def Blk.claimsBefore (b : Blk) (m n : PartId) : Bool :=
  if b.trumpsNow m != b.trumpsNow n then b.trumpsNow m
  else (b.slot m).pass.toNat < (b.slot n).pass.toNat || ((b.slot m).pass = (b.slot n).pass && m.toNat < n.toNat)

/-- Issue slots that queues with an earlier claim may still take in this cycle: heads of run slots that claim before, and
of lower queues of the context, that were not found to wait in this cycle (R311, R373). -/
def Blk.ahead (a : Aon) (b : Blk) (p : Site) : Nat :=
  let n := (b.ctx p.ctx).part
  sumL (parts.flatMap fun m =>
    match (b.slot m).running with
    | none => []
    | some c =>
      (queueNums.filter fun q => if m = n then q.toNat < p.queue.toNat else b.claimsBefore m n).map fun q =>
        let u := (b.ctx c).que q
        if b.open a ⟨c, q⟩ && !u.pairOpen && u.heldAt != some b.cycle.toNat then
          (let op := opcodeOf (b.entryWord ⟨c, q⟩ u.pc)
           if 0x20 ≤ op && op ≤ 0x23 then 2 else 1)
        else 0)

/-- Issue slots that a queue may claim in this cycle (R311, R373). -/
def Blk.slotsFor (a : Aon) (b : Blk) (p : Site) : Nat := b.slotsLeft - b.ahead a p

/-- An instruction takes `k` issue slots; the next entry of its queue may issue in the next cycle (R311). -/
def Blk.takeSlot (b : Blk) (p : Site) (k : Nat) : Blk :=
  let b := b.modQue p fun u => { u with nextAt := b.cycle.toNat + 1 }
  { b with issueCycle := b.cycle.toNat, issueCount := (if b.issueCycle = b.cycle.toNat then b.issueCount else 0) + k }

/-- A flip of the queue is in flight: what follows it waits (R73). -/
def Blk.behindFlip (b : Blk) (p : Site) : Bool :=
  b.flights.any fun f => f.ctx = p.ctx && f.queue = p.queue && opcodeOf f.word = 0x1B

/-- The head waits to issue (R303, R322), for something inside or outside the context. -/
def Blk.hold (b : Blk) (p : Site) (o : Option OutWait := none) : Blk :=
  b.modQue p fun u => { u with waiting := true, outside := o, heldAt := some b.cycle.toNat }

/-! ### Charges -/

/-- The caps of the enclosing `loopv` levels that a charge would carry beyond (R317). -/
def Queue.overCap (u : Queue) (n : Nat) : Option LoopLv :=
  u.loops.find? fun l => l.test != 0 && l.cap.toNat < n

/-- LOOP_CAP; detail A holds the cap as the loop declared it (R351). -/
def fLoopCap (l : LoopLv) : Flt := flt 0x0F l.cap0.toNat

/-- Whether a charge carries the lane run beyond 2,048 cycles (R306). -/
def Queue.runOver (u : Queue) (k : Cls) (n : Nat) : Bool :=
  match k with
  | .other => false
  | .control => u.runVec && 2048 < u.runLedger + n
  | .vec => 2048 < u.runLedger + n

/-- The lane run after an instruction (R306): v registers do not outlive it. -/
def Queue.runNext (u : Queue) (k : Cls) (n : Nat) : Queue :=
  match k with
  | .other => { u with runLedger := 0, runVec := false, runNo := u.runNo + 1, vregs := [] }
  | .control => { u with runLedger := u.runLedger + n }
  | .vec => { u with runLedger := u.runLedger + n, runVec := true }

/-- Charge an issued instruction's ledger to the passes, the quantum and the caps (R317, R370, R371). -/
def Blk.charge (b : Blk) (p : Site) (n : Nat) : Blk :=
  let x := b.ctx p.ctx
  let s := b.slot x.part
  let b := b.setSlot x.part { s with charged := s.charged + n, idleFrom := b.cycle.toNat,
                                     pass := s.pass + BitVec.ofNat 64 (n * strideOf (b.partShares x.part)) }
  b.modCtx p.ctx fun x =>
    { x with pass := x.pass + BitVec.ofNat 64 (n * strideOf x.shares.toNat),
             queues := x.queues.wr p.queue { x.que p.queue with
               loops := (x.que p.queue).loops.map fun l => if l.test = 0 then l else { l with cap := BitVec.ofNat 32 (l.cap.toNat - n) } } }

/-- Count a completed instruction: CTX_LEDGER and CTX_ACTUAL (R322). -/
def Blk.account (b : Blk) (c : CtxId) (ledger actual : Nat) : Blk :=
  (b.addCtx c Cnt.ledger ledger).addCtx c Cnt.actual actual

/-- An instruction without a flight takes its ledger: it is charged and counted, and it completes `n` cycles on. A cycle
that is stretched counts half a cycle more (R24, R316, R321). -/
def Blk.passTime (b : Blk) (p : Site) (n : Nat) : Blk :=
  let now := b.cycle.toNat
  let s := b01 (n != 0 && b.stretchAt = some now)
  let b := (b.charge p n).account p.ctx n (2 * n + s)
  let b := if s = 0 then b else b.addCtx p.ctx Cnt.stretch s
  let b := b.modQue p fun u => { u with busyTo := Nat.max u.busyTo (now + n) }
  { b with shorts := (b.shorts.filter fun x => now < x.2) ++ if n = 0 then [] else [(p.ctx, now + n)] }

/-- A queue goes on to an entry: nothing waits any more. -/
def Queue.goto (u : Queue) (pc : Word) : Queue := 
  { u with pc := pc, waiting := false, outside := none, barrier := none, holdDue := none }

/-- A guarded-off instruction: no effect, 1 cycle, the done predicate set at once (R305). It is checked for nothing but
BAD_OPCODE (R325). A guarded-off loop skips its body (R333). -/
def Blk.guardedOff (b : Blk) (p : Site) (g : Guard) (k : Cls) (skip : Nat) : Blk :=
  let b := (b.passTime p 1).takeSlot p 1
  let b := b.modQue p fun u => ((u.runNext k 1).goto (u.pc + 1 + BitVec.ofNat 32 skip))
  b.modCtx p.ctx fun x => x.resultPred b.cycle.toNat p.queue g.dp true

/-- The registers of an instruction are free: neither its guard, its done predicate nor what it names is
pending (R303). -/
def Blk.regsFree (b : Blk) (c : CtxId) (g : Guard) (regs : List Nat) : Bool :=
  let pend := b.pending c
  !(pend.contains (regP g.gpred)) && (g.dp = 0 || !(pend.contains (regP g.dp))) && !regs.any pend.contains

/-! ### Instructions that complete as they issue (log 17) -/

/-- What an instruction that completes at once does: its ledger, its further waits, its faults, and its
effect after the queue has moved on. -/
structure Now where
  ledger : Nat := 1
  wait : Bool := false
  out : Option OutWait := none
  faults : List Flt := []
  skip : Nat := 0                     -- entries passed over when guarded off
  act : Blk → Blk := id

/-- What every instruction at the head of its queue meets before its own conditions: its guard's registers, a `comet.barrier`
before it, the guard, the registers it names, a flip before it, and its field rules (R325, R303, R73, R328; 09 R247). `bad`: a field breaks its rule; `skip`: entries passed over when guarded off. -/
def Blk.arrive (a : Aon) (b : Blk) (p : Site) (w : Quad) (g : Guard) (k : Cls) (bad : Bool) (regs : List Nat)
    (skip : Nat) (go : Blk → Blk) : Blk :=
  let u := b.que p
  if !b.open a p || u.pairOpen then b
  else if !b.regsFree p.ctx g [] then b.hold p
  else if b.behindBarrier p then b.hold p (some (.comet p.queue))
  else if !(b.ctx p.ctx).guard g then
    (if skip != 0 && u.left.toNat ≤ skip then b.hold p (some (.doorbell (skip + 1)))
      else if b.slotsFor a p = 0 then b.hold p
      else b.guardedOff p g k skip)
  else if !b.regsFree p.ctx g regs || b.behindFlip p then b.hold p
  else if bad then b.fault p u.pc w fBadOperand
  else go b

/-- BAD_OPERAND where a field breaks its rule (R328). -/
def operandFaults (bad : Bool) : List Flt := if bad then [fBadOperand] else []

/-- The faults of an instruction's charge: a full lane run and a spent cap (R306, R317). -/
def Queue.chargeFaults (u : Queue) (k : Cls) (ledger : Nat) : List Flt :=
  (if u.runOver k ledger then [fBadShape] else []) ++ ((u.overCap ledger).map fLoopCap).toList

/-- The lowest fault stops an instruction at issue (R348); otherwise it goes on. -/
def Blk.checked (b : Blk) (p : Site) (w : Quad) (k : Cls) (ledger : Nat) (faults : List Flt) (go : Blk → Blk) : Blk :=
  match lowest (faults ++ (b.que p).chargeFaults k ledger) with
  | some e => b.fault p (b.que p).pc w e
  | none => go b

/-- An instruction that completes as it issues has issued: it is charged and counted, it takes its slot, its queue goes
on, and its done predicate is clear until its ledger has passed (R305, R316, R311). -/
def Blk.passNow (b : Blk) (p : Site) (g : Guard) (k : Cls) (ledger : Nat) : Blk :=
  let b := b.passTime p ledger
  let b := if ledger = 0 then b else b.takeSlot p 1
  let b := b.modQue p fun u => (u.runNext k ledger).goto (u.pc + 1)
  if g.dp = 0 then b
  else b.modCtx p.ctx fun x => { x.clearPred b.cycle.toNat g.dp with dones := x.dones ++ [(b.cycle.toNat + ledger, g.dp)] }

/-- Issue an instruction that completes as it issues. -/
def Blk.issueNow (a : Aon) (b : Blk) (p : Site) (w : Quad) (g : Guard) (k : Cls) (bad : Bool) (regs : List Nat)
    (f : Blk → Ctx → Queue → Now) : Blk :=
  b.arrive a p w g k false regs (f b (b.ctx p.ctx) (b.que p)).skip fun b =>
    let n := f b (b.ctx p.ctx) (b.que p)
    if n.wait then b.hold p n.out
    else if n.ledger != 0 && b.slotsFor a p = 0 then b.hold p
    else b.checked p w k n.ledger (operandFaults bad ++ n.faults) fun b => n.act (b.passNow p g k n.ledger)

/-- An instruction that completes as it issues: its word, guard and class, whether a field breaks its rule, the
registers it names, and what it does. -/
structure Quick where
  w : Quad
  g : Guard
  k : Cls
  bad : Bool
  regs : List Nat
  now : Blk → Ctx → Queue → Now

def Blk.issueQuick (a : Aon) (b : Blk) (p : Site) (q : Quick) : Blk := b.issueNow a p q.w q.g q.k q.bad q.regs q.now

/-! ### Commands in flight -/

/-- Work tiles that end at row or square boundaries of `per` ledger cycles, at most 2,048 cycles apart (R346). -/
def tileOf (per : Nat) : List Nat := [if per = 0 || 2048 ≤ per then 2048 else 2048 / per * per]

/-- Ledger cycles of the first `k` of a command's tiles, whose lengths repeat. -/
def tileEnd (l : List Nat) (k : Nat) : Nat :=
  if l.isEmpty then 0 else k / l.length * sumL l + sumL (l.take (k % l.length))

/-- What a command needs and will do, decided at issue (R302). -/
structure Plan where
  ledger : Nat := 1
  wait : Bool := false
  out : Option OutWait := none
  faults : List Flt := []
  units : List Unit' := []
  binds : List Binding := []
  tag : Word := 0
  pend : List Nat := []
  reads : List Range := []
  writes : List Range := []
  fx : List Fx := []
  job : Job := .plain
  energy : Nat := 0
  tile : List Nat := [2048]           -- ledger cycles of the work tiles in turn (R346)
  at' : Option Nat := none            -- the cycle of issue, where it is not the present one (R98)
  act : Blk → Blk := id               -- what happens at issue beyond the command's own start

/-- The block as a command sees it that bound an arithmetic word (R46). -/
def Blk.withArith (b : Blk) (n : PartId) (arith : BitVec 5) : Blk :=
  b.setReg 0x10C n.toNat (setFld (b.reg 0x10C n.toNat) 4 0 arith.toNat)

/-- The scratchpad banks that ranges touch. -/
def banksOf (l : List Range) : BitVec 16 := l.foldl (fun m r => if r.sp = .scratch then m ||| r.touch else m) 0

/-- Whether a unit is held by a command, of any context or partition; lanes are a partition's own. -/
def Blk.unitBusy (b : Blk) (n : PartId) (u : Unit') : Bool :=
  b.flights.any fun f => f.units.contains u && (u != .lanes || (b.ctx f.ctx).part = n)

/-! ### Units that a suspended command released (R346, R374) -/

/-- Units an opcode holds while it runs (R346). -/
def opUnits (op : Nat) : List Unit' :=
  if 0x20 ≤ op && op ≤ 0x23 then [.gate] else if op = 0x29 then [.hand, .pipes]
  else if 0x30 ≤ op && op ≤ 0x32 then [.tally] else if op = 0x38 then [.outbound]
  else if 0x39 ≤ op && op ≤ 0x3B then [.outbound, .inbound] else if 0x40 ≤ op && op ≤ 0x42 then [.collect, .inbound]
  else if 0x60 ≤ op && op ≤ 0x74 then [.lanes] else if op = 0x79 then [.mixer] else []

/-- Units a suspended command needs and does not hold. -/
def Flight.lacks (f : Flight) : List Unit' := (opUnits (opcodeOf f.word)).filter fun u => !f.units.contains u

/-- Units of the deal directions that an instruction waiting at a head needs (R374). -/
def dirsOf (op : Nat) : List Unit' := if 0x40 ≤ op && op ≤ 0x42 then [.inbound] else
  if 0x38 ≤ op && op ≤ 0x3B then opUnits op else []

/-- Partitions, other than one, in whose run slot a head waits for one of some deal directions. -/
def Blk.dirWaiters (b : Blk) (n : PartId) (us : List Unit') : List PartId :=
  parts.filter fun m => m != n && (match (b.slot m).running with
    | none => false
    | some c => queueNums.any fun q =>
        let u := (b.ctx c).que q
        u.ready && u.waiting && u.outside.isNone
          && (dirsOf (opcodeOf (b.entryWord ⟨c, q⟩ u.pc))).any us.contains)

/-- A deal direction that a suspended command released passes to the waiting command whose partition has the lowest
pass: those of other partitions leave it (R374). -/
def Blk.unitPromised (b : Blk) (n : PartId) (us : List Unit') : Bool :=
  us.any fun u =>
    (b.flights.any fun f => f.suspended.isSome && f.lacks.contains u
        && (b.slot (b.ctx f.ctx).part).running = some f.ctx)
      && (b.dirWaiters n [u]).any fun m => (b.slot m).pass.toNat < (b.slot n).pass.toNat

/-- A bank hazard within the context (R156). -/
def Blk.bankHazard (b : Blk) (c : CtxId) (rd wr : BitVec 16) : Bool :=
  b.flights.any fun f => f.ctx = c && ((f.bankRd &&& wr) != 0 || (f.bankWr &&& rd) != 0)

/-- Bytes that ranges move through M0, and lines that they move in scratchpad. -/
def m0Bytes (l : List Range) : Nat := sumL ((l.filter fun r => r.sp = .stack).map (·.bytes))
def scratchLines (l : List Range) : Nat := sumL ((l.filter fun r => r.sp = .scratch).map fun r => ceilDiv r.bytes 128)

/-- Energy of the memory traffic of ranges (18 R472). -/
def Blk.traffic (b : Blk) (l : List Range) : Nat := b.coef 4 * scratchLines l + b.coef 8 * m0Bytes l

/-- The flight a plan starts. -/
def Plan.flight (n : Plan) (b : Blk) (p : Site) (idx : Word) (w : Quad) (dp : BitVec 3) : Flight :=
  { ctx := p.ctx, queue := p.queue, qidx := idx, word := w, issued := n.at'.getD b.cycle.toNat, ledger := n.ledger,
    suspended := none, suspTotal := 0, tiles := 0, stretch := b01 (b.stretchAt = some b.cycle.toNat), bubbled := 0, units := n.units, binds := n.binds,
    arith := b.arith (b.ctx p.ctx).part, tag := n.tag, dp := dp,
    pend := (if dp = 0 then [] else [regP dp]) ++ n.pend, bankRd := banksOf n.reads, bankWr := banksOf n.writes,
    reads := n.reads, writes := n.writes, fx := n.fx, job := n.job,
    energy := n.energy + b.traffic (n.reads ++ n.writes), tile := n.tile, stale := false, moved := none, before := 0, tiles0 := 0 }

/-- A fold or comet collective still holds bytes that a planned command reads or writes (08 R224 to R226; 09
R247). -/
def Blk.areaWaits (b : Blk) (p : Site) (n : Plan) : Bool :=
  b.foldBlocks p.ctx n.reads n.writes || b.cometBlocks n.reads n.writes

/-- Wear state of a unit index (19 R476). -/
def Blk.wear (b : Blk) (u : Nat) : Wear := b.health.units.get u Wear.reset

/-- The residue- and parity-checked units that a command of an opcode uses, by unit index (19 R476). -/
def wearUnits (op : Nat) : List Nat :=
  if 0x20 ≤ op && op ≤ 0x23 then [25] else if op = 0x28 then [26] else if op = 0x29 then [24, 26]
  else if 0x30 ≤ op && op ≤ 0x32 then [26] else if op = 0x38 then [28] else if 0x39 ≤ op && op ≤ 0x3B then [28, 29]
  else if 0x40 ≤ op && op ≤ 0x42 then [26, 29] else if (0x60 ≤ op && op ≤ 0x6B) || op = 0x70 then [23, 24]
  else if 0x50 ≤ op && op ≤ 0x74 then [23] else []

/-- A unit that a command needs is being retested, its stages are being swapped, or a quad waits to be retired
(05 R148; 19 R477, R484). -/
def Blk.unitOut (b : Blk) (op : Nat) : Bool :=
  (wearUnits op).any fun u =>
    (b.wear u).retest.isSome || (u = 23 && b.health.quadDue != []) || (u = 28 && b.health.outStages.swapEnd.isSome)
      || (u = 29 && b.health.inStages.swapEnd.isSome)

/-- Commands of a context in flight, with the `select` of a pair that has issued (R98, R360). -/
def Blk.flying (b : Blk) (c : CtxId) : Nat :=
  (b.inFlight c).length + (queueNums.filter fun q => ((b.ctx c).que q).pairOpen).length

/-- A `mix.seed` of a context is in flight: a command that would bind the key waits for the one it sets (16 R405; log 68). -/
def Blk.seeding (b : Blk) (c : CtxId) : Bool := (b.inFlight c).any fun f => opcodeOf f.word = 0x78

/-- What else holds a planned command back besides its own conditions. -/
def Blk.planWaits (a : Aon) (b : Blk) (p : Site) (w : Quad) (n : Plan) : Bool :=
  b.slotsFor a p = 0 || 16 ≤ b.flying p.ctx || b.unitPromised (b.ctx p.ctx).part n.units || n.units.any (b.unitBusy (b.ctx p.ctx).part)
    || b.bankHazard p.ctx (banksOf n.reads) (banksOf n.writes) || b.unitOut (opcodeOf w)

/-- Start a planned command: it is in flight, its bindings are counted, its done predicate is clear. -/
def Blk.start' (b : Blk) (p : Site) (w : Quad) (g : Guard) (k : Cls) (n : Plan) : Blk :=
  let fl := n.flight b p (b.que p).pc w g.dp
  let b := n.binds.foldl Blk.takeRef (b.charge p n.ledger)
  let b := b.modQue p fun u => (u.runNext k n.ledger).goto (u.pc + 1)
  let b := b.modCtx p.ctx fun x => x.clearPred b.cycle.toNat g.dp
  n.act { (b.markReads p.ctx n.reads) with flights := b.flights ++ [fl] }

/-- A planned command issues: it takes a slot and starts. -/
def Blk.launch (b : Blk) (p : Site) (w : Quad) (g : Guard) (k : Cls) (n : Plan) : Blk :=
  (b.takeSlot p 1).start' p w g k n

/-- Whether a held layer, or a closed step gate, stops new work of a layer (13 R338; 15 R393). -/
def Blk.heldFor (b : Blk) (n : PartId) (l : Layer) : Bool := (b.refresh.holder.find l.toNat).isSome || b.stepGate n

/-- The layer on account of which an instruction waits that names an OWNED descriptor of a held layer among its
registers (13 R338). -/
def Blk.ownedHeld (b : Blk) (x : Ctx) (regs : List Nat) : Option Layer :=
  (regs.filterMap fun r =>
    if 136 ≤ r && r < 152 then
      let d := x.desc (BitVec.ofNat 4 (r - 136))
      let l := x.eregs.rd (BitVec.ofNat 2 d.ereg.toNat)
      if d.isOwned && b.heldFor x.part l then some l else none
    else none).head?

/-- What a head waits for that a hold or a closed step gate stops. -/
def Blk.heldOut (b : Blk) (l : Layer) : Option OutWait := if (b.refresh.holder.find l.toNat).isSome then some (.held l) else none

/-- Issue an instruction that starts a command. -/
def Blk.issueCmd (a : Aon) (b : Blk) (p : Site) (w : Quad) (g : Guard) (k : Cls) (bad : Bool) (regs : List Nat)
    (f : Blk → Ctx → Queue → Plan) : Blk :=
  b.arrive a p w g k false regs 0 fun b =>
    let n := f b (b.ctx p.ctx) (b.que p)
    let held := if k = .control then none else b.ownedHeld (b.ctx p.ctx) regs
    if let some l := held then b.hold p (b.heldOut l)
    else if n.wait then b.hold p n.out
    else if b.areaWaits p n then b.hold p (some (.areas n.reads n.writes))
    else if b.planWaits a p w n then b.hold p
    else b.checked p w k n.ledger (operandFaults bad ++ n.faults) fun b => b.launch p w g k n

/-- An instruction that starts a command, described as a `Quick` is, with its plan. -/
structure Req where
  w : Quad
  g : Guard
  k : Cls
  bad : Bool
  regs : List Nat
  plan : Blk → Ctx → Queue → Plan

def Blk.issueReq (a : Aon) (b : Blk) (p : Site) (r : Req) : Blk := b.issueCmd a p r.w r.g r.k r.bad r.regs r.plan

end Sys2Proof.Machine
end

