-- ==== Sys2Proof/Machine/WearBase.lean ====
section
/-! DEFINITION. WearBase: spares, retirement and floors (19 R476 to R489; 05 R148), and the errors that running
commands meet (02 R55; 19 R477, R479). -/

namespace Sys2Proof.Machine
open Sys2Proof

def Blk.setWear (b : Blk) (u : Nat) (w : Wear) : Blk :=
  { b with health := { b.health with units := b.health.units.put u w } }

def Blk.modWear (b : Blk) (u : Nat) (f : Wear → Wear) : Blk := b.setWear u (f (b.wear u))

def Blk.modHealth (b : Blk) (f : Health → Health) : Blk := { b with health := f b.health }

/-- Spares a unit was built with (R481). -/
def spareTotal (u : Nat) : Nat :=
  if u ≤ 16 then 492 else if u = 17 then 336 else if u = 18 then 1311 else if u = 19 then 41 else if u = 20 then 318
  else if u ≤ 22 then Config.spareRows u else if u = 23 then 4 else if u = 28 || u = 29 then 2
  else if 30 ≤ u && u ≤ 35 then 4 else 0

/-! ### Records of repairs (R487) -/

/-- A spare brought in or capacity retired: an entry is due, and bring-up counts it (21 R528). -/
def Blk.repair (b : Blk) (u kind num : Nat) : Blk :=
  b.modHealth fun h =>
    { h with recordDue := h.recordDue ++ [BitVec.ofNat 32 (put 31 26 u + put 25 24 kind + put 23 0 num)],
             repairs := if b.start.stage.toNat < 6 then Nat.min 0xFFF (h.repairs + 1) else h.repairs }

def Blk.spareUsed (b : Blk) (u kind num : Nat) : Blk :=
  ((b.repair u kind num).modWear u fun w => { w with used := w.used + 1 }).event 0x8E u num

def Blk.capacityRetired (b : Blk) (u num detail : Nat) : Blk :=
  ((b.repair u 2 num).modWear u fun w => { w with retired := w.retired + 1 }).event 0x8F u detail

/-! ### CHIP_FAILED (R489) -/

/-- The units with residue or parity checks that a command in flight runs on, lowest first; the sequencer and its registers
serve all. -/
def Flight.wearUnits (f : Flight) : List Nat :=
  (match f.job with
    | .select x => if x.pipes then [24] else []
    | _ => []) ++ Machine.wearUnits (opcodeOf f.word) ++ [27]

/-- Whether a command runs on a unit. -/
def Flight.onUnit (f : Flight) (u : Nat) : Bool :=
  if u ≤ 15 then bit (f.bankRd ||| f.bankWr).toNat u else f.wearUnits.contains u

/-- A unit crosses its floor: the event, the state FAILED, and the commands on the unit end. -/
def Blk.chipFail (b : Blk) (u left : Nat) : Blk :=
  if b.health.chipFailed then b
  else
    let running := b.start.stage.toNat == 6 || b.start.stage.toNat == 7
    let b := (b.event 0x1A u left).modHealth fun h =>
      { h with chipFailed := true, cause := BitVec.ofNat 8 u, failedAt := b.cycle, writeout := running }
    let b := { b with start := { b.start with stage := 8 } }
    let hit := b.flights.filter fun f => f.onUnit u && (b.ctx f.ctx).alive
    let b := hit.foldl (fun b f => b.flightFault f (flt 0x1A)) b
    b.modHealth fun h => { h with torn := (hit.map (·.ctx)).foldl (fun l c => if l.contains c then l else l ++ [c]) h.torn }

/-! ### Rows and banks (R479, R481, R482) -/

/-- A logical bank is retired: no partition owns it any more. -/
def Blk.retireBank (b : Blk) (k : Nat) : Blk :=
  let b := parts.foldl (fun b n =>
    let v := b.reg 0x100 n.toNat
    if bit v.toNat k then b.setReg 0x100 n.toNat (v &&& ~~~(BitVec.ofNat 32 (2 ^ k))) else b) b
  let b := b.modHealth fun h => { h with banksOut := h.banksOut ||| BitVec.ofNat 16 (2 ^ k) }
  let out := popCount 16 b.health.banksOut.toNat
  if 2 < out then ((b.repair k 2 k).modWear k fun w => { w with retired := w.retired + 1 }).chipFail k (16 - out)
  else b.capacityRetired k k (48 - 3 * out)

/-- A logical bank has no spare rows left: bank 16 takes its place after a copy, or it is retired. -/
def Blk.loseBank (b : Blk) (k : Nat) : Blk :=
  if b.health.bank16 = none && b.health.bankCopy = none && (b.wear 16).retired = 0 then
    (if b.start.stage.toNat < 6 then (b.modHealth fun h => { h with bank16 := some k }).spareUsed k 1 k
      else b.modHealth fun h => { h with bankCopy := some (k, b.cycle.toNat + 24576) })
  else b.retireBank k

/-- Rows of one seat's fold memory, and spare rows of a seat. -/
def seatRows : Nat := 1024
def seatSpares : Nat := 21

/-- A row of fold memory is lost: the seat's spare rows, then a smaller seat (08 R233). -/
def Blk.loseFoldRow (b : Blk) (row : Nat) : Blk :=
  let k := BitVec.ofNat 4 (row / seatRows)
  let out := ((b.wear 17).rowsOut.filter fun r => r / seatRows = row / seatRows).length
  let b := b.modWear 17 fun w => { w with rowsOut := w.rowsOut ++ [row] }
  if out < seatSpares then b.spareUsed 17 0 row
  else
    let s := b.seat k
    let good := 128 - ceilDiv (out + 1 - seatSpares) 8
    (b.setSeat k { s with good := good, retired := good < 32 }).capacityRetired 17 row k.toNat

/-- Rows left of an array with no degraded size. -/
def Blk.rowsLeft (b : Blk) (u : Nat) : Nat :=
  if u = 18 then 65535 else if u = 19 then 2047 else if u = 20 then 15871 else Config.freeNat b.free

/-- A row is lost, its contents copied: a spare row takes its place, or what R481 says follows. -/
def Blk.loseRow (b : Blk) (u row : Nat) : Blk :=
  if b.health.chipFailed then b.repair u 2 row
  else if u = 17 then b.loseFoldRow row
  else if (b.wear u).rowsOut.length < spareTotal u then
    (b.modWear u fun w => { w with rowsOut := w.rowsOut ++ [row] }).spareUsed u 0 row
  else if u ≤ 15 then b.loseBank u
  else if u = 16 then
    match b.health.bank16 with
    | some k => b.retireBank k
    | none => (b.repair 16 2 row).modWear 16 fun w => { w with retired := 1 }
  else (b.repair u 2 row).chipFail u (b.rowsLeft u)

/-! ### Lanes (R483, R484) -/

/-- The lane that a physical lane serves as. -/
def Health.servesAs (h : Health) (x : Nat) : Nat := ((h.laneSubs.find? fun s => s.2 = x).map (·.1)).getD x

/-- The good lanes that remain of the quad of a lane. -/
def Health.quadLeft (h : Health) (x : Nat) : List Nat :=
  let q := h.servesAs x / 4
  ((List.range 4).map fun j => h.laneSubs.get (4 * q + j) (4 * q + j)).filter (· != x)

/-- Take lanes from the partitions until they fit (R484). -/
def Blk.shrinkParts : Nat → Blk → Blk
  | 0, b => b
  | n + 1, b =>
    let valid := parts.filter b.partValid
    if sumL (valid.map b.partLanes) ≤ b.health.lanesActive then b
    else match bestBy (fun (x y : PartId) => b.partLanes y < b.partLanes x || (b.partLanes x = b.partLanes y && y.toNat < x.toNat)) valid with
      | none => b
      | some x =>
        let l := b.partLanes x
        Blk.shrinkParts n (b.setReg 0x100 x.toNat (setFld (b.reg 0x100 x.toNat) 30 24 (if l ≤ 16 then 0 else l - 4)))

/-- A quad is retired: its good lanes become spares, and partitions shrink. -/
def Blk.retireQuad (b : Blk) (x : Nat) : Blk :=
  let old := b
  let b := b.modHealth fun h =>
    { h with lanesActive := h.lanesActive - 4, laneSpares := sortBy (fun (p q : Nat) => p < q) (h.laneSpares ++ h.quadLeft x),
             lanesOut := h.lanesOut ++ [x], laneSubs := h.laneSubs.filter fun s => s.1 / 4 != h.servesAs x / 4 }
  let b := ((b.repair 23 2 x).modWear 23 fun w => { w with retired := w.retired + 1 }).shrinkParts 64
  let changed := parts.filter fun n => b.partLanes n != old.partLanes n
  changed.foldl (fun b n => b.event 0x8F 23 (n.toNat * 2 ^ 24 + b.partLanes n)) b

/-- A vector lane is lost: the lowest spare takes its place, else its quad is retired. -/
def Blk.loseLane (b : Blk) (x : Nat) : Blk :=
  let h := b.health
  if h.chipFailed then b.repair 23 2 x
  else if h.lanesOut.contains x then b
  else if h.laneSpares.contains x then
    ((b.repair 23 2 x).modWear 23 fun w => { w with used := w.used + 1 }).modHealth fun h =>
      { h with laneSpares := h.laneSpares.filter (· != x), lanesOut := h.lanesOut ++ [x] }
  else match h.laneSpares with
    | y :: rest =>
      (b.modHealth fun h => { h with laneSpares := rest, lanesOut := h.lanesOut ++ [x],
                                     laneSubs := h.laneSubs.put (h.servesAs x) y }).spareUsed 23 1 x
    | [] =>
      if 4 * (h.lanesActive - 4) < 3 * h.lanesBuilt then (b.repair 23 2 x).chipFail 23 (h.lanesActive - 4)
      else if b.start.stage.toNat < 6 then b.retireQuad x
      else b.modHealth fun h => { h with quadDue := h.quadDue ++ [x] }

/-! ### Deal network stages (05 R148) -/

def Health.stages (h : Health) (inbound : Bool) : Stages := if inbound then h.inStages else h.outStages

def Health.setStages (h : Health) (inbound : Bool) (x : Stages) : Health :=
  if inbound then { h with inStages := x } else { h with outStages := x }

/-- A stage is retired: a spare takes its place in a swap of 64 cycles, or the direction has failed. -/
def Blk.loseStage (b : Blk) (inbound : Bool) (st : Nat) : Blk :=
  let u := if inbound then 29 else 28
  if b.health.chipFailed then b.repair u 2 st
  else
    let x := b.health.stages inbound
    let out := x.retired ||| BitVec.ofNat 19 (2 ^ st)
    if popCount 19 out.toNat ≤ 2 then
      let till := if b.start.stage.toNat < 6 then none else some (b.cycle.toNat + 64)
      (b.modHealth fun h => h.setStages inbound { x with retired := out, waiting := none, swapEnd := till }).spareUsed u 1 st
    else
      ((b.modHealth fun h => h.setStages inbound { x with retired := out, waiting := none, failed := true }).repair u 2 st).chipFail u
        (19 - popCount 19 out.toNat)

/-! ### A failing part, whatever its unit -/

/-- A part of a unit is lost after a failed test. -/
def Blk.losePart (b : Blk) (u num : Nat) : Blk :=
  if u ≤ 22 then b.loseRow u num
  else if u = 23 then b.loseLane num
  else if u = 28 || u = 29 then b.loseStage (u = 29) num
  else if b.health.chipFailed then b.repair u 2 num
  else (b.repair u 2 num).chipFail u (if u = 24 then 15 else 0)

/-! ### Errors met while running (02 R55; 05 R148; 19 R477, R479) -/

/-- The unit index of the array that holds a logical bank (R482). -/
def Blk.bankUnit (b : Blk) (bank : Nat) : Nat := if b.health.bank16 = some bank then 16 else bank

/-- A row starts its copy to a spare row (R479). -/
def Wear.startCopy (w : Wear) (row now : Nat) : Wear :=
  if w.copies.any (fun c => c.1 = row) then w
  else { w with copies := w.copies ++ [(row, now + 32)] }

/-- A row is to be replaced: by a copy to a spare row, or at once where no spare row remains. -/
def Blk.rowFails (b : Blk) (u row : Nat) : Blk :=
  let w := b.wear u
  if w.rowsOut.length + w.copies.length < spareTotal u then b.setWear u (w.startCopy row b.cycle.toNat) else b.loseRow u row

/-- A damaged word is read: a correctable error is counted, an uncorrectable one replaces the row. -/
def Blk.noteWord (b : Blk) (w : Nat) : Blk :=
  let u := b.bankUnit (4 * w / 0x300000)
  let row := 4 * w % 0x300000 / 128
  match b.mem.word w with
  | some _ => b.modWear u fun x =>
      { x with window := x.window + 1, errRows := if x.errRows.contains row then x.errRows else x.errRows ++ [row] }
  | none => b.rowFails u row

/-- Whether a range of a bank set holds a byte of the word at a flat word address. -/
def Range.holdsWord (r : Range) (w : Nat) : Bool :=
  let bank := 4 * w / 0x300000
  let off := 4 * w % 0x300000
  match findIdx (fun k => k = bank) (bitsOf 16 r.banks.toNat) with
  | some j => r.sp = .scratch && meet ((off / 128 * popCount 16 r.banks.toNat + j) * 128 + off % 128) 4 r.lo r.len
  | none => false

/-- Count the damaged words that a write into the scratchpad reads, since it covers them in part (R56). -/
def Blk.noteWrite (b : Blk) (sp : Space) (a len : Nat) : Blk :=
  match sp with
  | .scratch =>
    ((b.mem.flips.map (·.1)).filter fun w => meet (4 * w) 4 a len && !(a ≤ 4 * w && 4 * w + 4 ≤ a + len)).foldl Blk.noteWord b
  | _ => b

/-- The physical lane that holds a word of the v registers (log 58). -/
def Health.laneOf (h : Health) (w : Nat) : Nat :=
  let n := w % vecLen % Nat.max 1 h.lanesActive
  h.laneSubs.get n n

/-- A damaged word of an array other than the scratchpad is read: counted, or its row is replaced (R55, R476, R479); of a v
register, whose lanes have no rows, the lane is due for a retest (R477, R481). -/
def Blk.noteArray (b : Blk) (u : Nat) (h : Nat × Nat) : Blk :=
  let row := h.1 / 32
  if u = 23 then
    match hurtRead h.2 with
    | some _ => b.modWear u fun x => { x with window := x.window + 1 }
    | none =>
      let n := b.health.laneOf h.1
      b.modWear u fun x => { x with due := if x.due.contains n then x.due else x.due ++ [n] }
  else match hurtRead h.2 with
  | some _ => b.modWear u fun x =>
      { x with window := x.window + 1, errRows := if x.errRows.contains row then x.errRows else x.errRows ++ [row] }
  | none => b.rowFails u row

/-- Words of an array are read: their damage is noted, and whether one of them is uncorrectable. -/
def Blk.readArray (b : Blk) (u : Nat) (p : Nat → Bool) : Blk × Bool :=
  let hs := b.mem.hurtOf u p
  (hs.foldl (fun b h => b.noteArray u h) b, hs.any fun h => (hurtRead h.2).isNone)

/-- Words that hold damage of their own, as a read meets them: corrected, or with the bits that R55 leaves wrong. -/
def hurtWords (hs : List (Nat × Nat)) (ws : List Word) : List Word :=
  if hs.isEmpty then ws
  else ws.zipIdx.map fun q => match hs.find? fun h => h.1 = q.2 with
    | some h => q.1 ^^^ (hurtRead h.2).getD 0
    | none => q.1

/-- Bytes of whole words, as a read meets them. -/
def hurtBytes (hs : List (Nat × Nat)) (bs : List Byte) : List Byte :=
  if hs.isEmpty then bs else bytesOfWords (hurtWords hs (wordsOf bs))

/-- Whether a word cannot be corrected. -/
def hurtLost (hs : List (Nat × Nat)) : Bool := hs.any fun h => (hurtRead h.2).isNone

/-- Words with those that cannot be corrected at 0, as a replacement writes them (R479). -/
def hurtZero (hs : List (Nat × Nat)) (ws : List Word) : List Word :=
  (hurtWords hs ws).zipIdx.map fun q => if hs.any fun h => h.1 = q.2 && (hurtRead h.2).isNone then 0 else q.1

/-- Damage that a read meets in an array of a unit, its words numbered from `base` on. -/
def Blk.noteHurt (b : Blk) (u base : Nat) (hs : List (Nat × Nat)) : Blk :=
  hs.foldl (fun b h => b.noteArray u (base + h.1, h.2)) b

/-- The first word of a port's far queue, replay buffer and auth buffer in units 20 and 22 (log 58). -/
def farWord (i : BitVec 4) : Nat := 8 * 57344 + i.toNat * 8192

def replayWord (i : BitVec 4) (seq : BitVec 10) : Nat := 3 * 2 ^ 38 + i.toNat * 2 ^ 20 + seq.toNat % 512 * 128

def authWord (i : BitVec 4) (seq : BitVec 10) : Nat := 3 * 2 ^ 38 + i.toNat * 2 ^ 20 + 2 ^ 19 + seq.toNat % 512 * 128

/-- Count the damaged words that a command's reads meet. -/
def Blk.noteReads (b : Blk) (l : List Range) : Blk :=
  ((b.mem.flips.map (·.1)).filter fun w => l.any fun r => r.holdsWord w).foldl Blk.noteWord b

/-- The lowest unit of a command with a failing part. -/
def Blk.failingUnit (b : Blk) (f : Flight) : Option Nat :=
  f.wearUnits.find? fun u => (b.wear u).failing != []

/-- A residue or parity check fails: the command ends, and its unit is due for a retest or a swap; where a register of the
sequencer fails, the instance has (R476). -/
def Blk.checkFail (b : Blk) (f : Flight) (u : Nat) : Blk :=
  let w := b.wear u
  if u = 28 || u = 29 then
    let x := b.health.stages (u = 29)
    (b.modHealth fun h => h.setStages (u = 29) { x with waiting := w.failing.head? }).flightFault f (flt 0x11)
  else if u = 27 then b.losePart 27 (w.failing.headD 0)
  else (b.setWear u { w with due := w.due ++ w.failing.filter fun x => !w.due.contains x }).flightFault f (flt 0x10 u)

end Sys2Proof.Machine
end

