-- ==== Sys2Proof/Machine/Images.lean ====
section
/-! DEFINITION. Images: the table images and manifests in the stack (03 R64, R65; 06 R162 to R165; 11 R296, R297;
15 R383, R385) and their header validation (03 R72). -/

namespace Sys2Proof.Machine
open Sys2Proof

/-- An unsigned little-endian field of an image. -/
def le (bs : List Byte) (off len : Nat) : Nat := leNat ((bs.drop off).take len)

/-- Whether bytes are all zero. -/
def zeros (bs : List Byte) : Bool := bs.all (· == 0)

/-- The magic of table images (R64). -/
def tableMagic : Nat := 0x4C425447

/-! ### Gate tables -/

/-- A gate table's header (R64). -/
structure GateHdr where
  hash : Bool
  fmt : Nat
  experts : Nat
  d : Nat
  transform : Nat
  bias : Nat
  noise : Nat
  rtau : Word
  amp : Word
  rowBytes : Nat
  biasOff : Nat
  salt : BitVec 128
  rowsOff : Nat
  imageBytes : Nat
  deriving DecidableEq, Repr

def GateHdr.of (bs : List Byte) : GateHdr :=
  { hash := le bs 4 1 = 2, fmt := le bs 5 1, experts := le bs 8 2, d := 128 * le bs 0x0A 2, transform := le bs 0x0C 1,
    bias := le bs 0x0D 1, noise := le bs 0x0E 1, rtau := BitVec.ofNat 32 (le bs 0x10 4),
    amp := BitVec.ofNat 32 (le bs 0x14 4), rowBytes := le bs 0x18 4, biasOff := le bs 0x1C 4,
    salt := BitVec.ofNat 128 (le bs 0x20 16), rowsOff := le bs 0x30 4, imageBytes := le bs 0x34 4 }

/-- A finite FP32 word that is at least 0, or above 0. -/
def finite32 (w : Word) (above : Bool) : Bool :=
  match valOf w with
  | .fin s m _ => if m = 0 then !above else !s
  | _ => false

/-- Row pitch of a ROUTER table: the row's length rounded up to 64 B (R65). -/
def GateHdr.pitch (h : GateHdr) : Nat := 64 * ceilDiv (rowBytesOf h.fmt h.d) 64

/-- Whether a gate header is in range for a layer (R64, R65). -/
def gateOk (bs : List Byte) (layer : Nat) : Bool :=
  let h := GateHdr.of bs
  let common := le bs 0 4 = tableMagic && le bs 6 2 = layer && 1 ≤ h.experts && h.experts ≤ 2048
    && le bs 0x0F 1 = 0 && zeros ((bs.drop 0x38).take 8) && h.imageBytes ≤ 68157440
  if le bs 4 1 = 1 then
    let last := 64 + h.experts * h.rowBytes
    common && h.fmt ≤ 3 && 256 ≤ h.d && h.d ≤ 16384 && h.transform ≤ 2 && h.bias ≤ 2 && h.noise ≤ 2
      && finite32 h.rtau true && finite32 h.amp false && h.rowBytes = h.pitch && h.salt = 0 && h.rowsOff = 64
      && (if h.bias = 0 then h.biasOff = 0 && last ≤ h.imageBytes
          else h.biasOff = last && last + 4 * h.experts ≤ h.imageBytes)
  else
    le bs 4 1 = 2 && common && h.fmt = 0 && h.d = 0 && h.transform = 0 && h.bias = 0 && h.noise = 0 && h.rtau = 0
      && h.amp = 0 && h.rowBytes = 0 && h.biasOff = 0 && h.rowsOff = 0 && 64 ≤ h.imageBytes

/-! ### Slot tables -/

/-- Slot entry `s` of a SLOT image (R163). -/
def slotEnt (bs : List Byte) (s : Nat) : SlotEnt :=
  let w := le bs (64 + 8 * s) 8
  { expert := BitVec.ofNat 11 (field w 10 0), owner := BitVec.ofNat 12 (field w 27 16), die := BitVec.ofNat 2 (field w 29 28),
    local' := BitVec.ofNat 11 (field w 42 32) }

/-- The slot entries and the members of a SLOT image. -/
def slotEnts (bs : List Byte) : List SlotEnt := (List.range (le bs 8 2)).map (slotEnt bs)

def slotMembers (bs : List Byte) : List InstId :=
  (List.range (le bs 0x0A 2)).map fun i => BitVec.ofNat 12 (le bs (64 + 8 * le bs 8 2 + 2 * i) 2)

/-- Whether a list has no repeats. -/
def distinctL {α : Type} [DecidableEq α] : List α → Bool
  | [] => true
  | x :: rest => !rest.contains x && distinctL rest

/-- Header validation of a SLOT image (R162 to R164). -/
def slotOk (bs : List Byte) (layer : Nat) (self : InstId) : Bool :=
  let e := le bs 8 2
  let n := le bs 0x0A 2
  let ents := slotEnts bs
  let ms := slotMembers bs
  le bs 0 4 = tableMagic && le bs 4 1 = 3 && le bs 5 1 = 0 && le bs 6 2 = layer && 1 ≤ e && e ≤ 2048 && 1 ≤ n && n ≤ 512
    && le bs 0x0C 4 = 64 && le bs 0x10 4 = 64 + 8 * e && le bs 0x14 4 = 64 * ceilDiv (64 + 8 * e + 2 * n) 64
    && zeros ((bs.drop 0x18).take 40)
    && (List.range e).all (fun s =>
        let w := le bs (64 + 8 * s) 8
        field w 63 43 = 0 && field w 31 30 = 0 && field w 15 11 = 0)
    && (List.range n).all (fun i => le bs (64 + 8 * e + 2 * i) 2 < 4096)
    && zeros ((bs.drop (64 + 8 * e + 2 * n)).take (le bs 0x14 4 - (64 + 8 * e + 2 * n)))
    && distinctL (ents.map (·.expert)) && ents.all (fun x => x.expert.toNat < e && ms.contains x.owner && x.die != 3)
    && distinctL ms && ms.contains self && distinctL (ents.map fun x => (x.owner, x.die, x.local'))

/-! ### Owner tables -/

/-- An OWNER table's header (R296). -/
structure OwnHdr where
  fmt : Nat
  rows : Nat
  shift : Nat
  banks : BitVec 16
  n0 : Nat
  pitch : Nat
  blocks : Nat
  imageBytes : Nat
  deriving DecidableEq, Repr

def OwnHdr.of (bs : List Byte) : OwnHdr :=
  { fmt := le bs 5 1, rows := le bs 8 4, shift := le bs 0x0C 1, banks := BitVec.ofNat 16 (le bs 0x0E 2),
    n0 := le bs 0x10 4, pitch := le bs 0x14 4, blocks := le bs 0x18 4, imageBytes := le bs 0x1C 4 }

/-- A block entry: space, owner, base (R296). -/
structure OwnBlk where
  stack : Bool
  owner : InstId
  base : Nat
  ok : Bool
  deriving DecidableEq, Repr

def ownBlk (bs : List Byte) (i : Nat) : OwnBlk :=
  let w := le bs (64 + 8 * i) 8
  { stack := field w 63 62 = 1, owner := BitVec.ofNat 12 (field w 61 50), base := field w 39 0,
    ok := field w 63 62 ≤ 1 && field w 49 40 = 0 }

/-- A block of this instance as a descriptor of its rows. -/
def OwnHdr.desc (h : OwnHdr) (k : OwnBlk) (rows : Nat) : Desc :=
  { Desc.zero with base := k.base, space := if k.stack then 1 else 0, format := BitVec.ofNat 8 h.fmt, rank := 2,
                   banks := if k.stack then 0 else h.banks, access := 3, n0 := h.n0, n1 := rows, n2 := 1, n3 := 1,
                   s1 := (h.pitch : Int) }

/-- Rows of block `i`. -/
def OwnHdr.blockRows (h : OwnHdr) (i : Nat) : Nat := Nat.min (2 ^ h.shift) (h.rows - i * 2 ^ h.shift)

/-- Header validation of an OWNER image for a partition (R297). -/
def Blk.ownOk (b : Blk) (n : PartId) (bs : List Byte) (layer : Nat) : Bool :=
  let h := OwnHdr.of bs
  le bs 0 4 = tableMagic && le bs 4 1 = 4 && (h.fmt = 0 || h.fmt = 1 || h.fmt = 4) && le bs 6 2 = layer
    && 1 ≤ h.rows && h.rows ≤ 2 ^ 28 && h.shift ≤ 20 && le bs 0x0D 1 = 0 && 1 ≤ h.n0
    && h.n0 * fmtBytes h.fmt ≤ 65536 && h.pitch % 4 = 0 && h.n0 * fmtBytes h.fmt ≤ h.pitch
    && h.blocks = ceilDiv h.rows (2 ^ h.shift) && h.imageBytes = 64 * ceilDiv (64 + 8 * h.blocks) 64
    && zeros ((bs.drop 0x20).take 32)
    && (h.banks = 0 || (List.range h.blocks).any fun i => !(ownBlk bs i).stack)
    && (List.range h.blocks).all fun i =>
        let k := ownBlk bs i
        k.ok && (k.owner != b.self || b.allocated n (h.desc k (h.blockRows i)))

/-! ### Manifests -/

/-- A shard entry of a manifest (R383). -/
structure ManEnt where
  loc : Nat
  bytes : Nat
  die : BitVec 2
  local' : BitVec 11
  expert : BitVec 11
  ok : Bool
  deriving DecidableEq, Repr

def manEnt (bs : List Byte) (i : Nat) : ManEnt :=
  let w := le bs (64 + 16 * i) 16
  { loc := field w 127 88, bytes := field w 87 56, die := BitVec.ofNat 2 (field w 45 44), local' := BitVec.ofNat 11 (field w 42 32),
    expert := BitVec.ofNat 11 (field w 10 0),
    ok := field w 55 48 = 0 && field w 47 46 = 0 && field w 31 11 = 0 && field w 45 44 != 3 && field w 43 43 = 0 }

/-- A manifest as it stands in memory (R383). -/
structure Manifest where
  at' : Nat
  stamp : BitVec 16
  ents : List ManEnt
  sigBytes : Nat
  root : List Byte
  covered : List Byte
  sig : List Byte
  deriving DecidableEq, Repr

/-- The valid dispatcher-owned region of a partition that holds a range of the window (R280, R281). -/
def Blk.ownedRange (b : Blk) (n : PartId) (a len : Nat) : Bool :=
  (List.range 16).any fun r =>
    let g := b.region n r
    g.valid && g.owned && inside a len g.start g.len

/-- Window address of a STACK address of a partition. -/
def Blk.stackAt (b : Blk) (n : PartId) (a : Nat) : Nat := (b.region n (field a 39 36)).start + field a 35 0

/-- The manifest of a bank, where its pointer is valid and every field in range (R383, R385). -/
def Blk.manifest (b : Blk) (n : PartId) (layer : Layer) (kind : BitVec 2) (bank : Bool) : Option Manifest :=
  let p := b.reg (if bank then 0x31C else 0x318) (tkey layer.toNat kind.toNat)
  let at' := fld p 27 0 * 4096
  match b.window at' 64 with
  | .error _ => none
  | .ok hd =>
    let count := le hd 0x0A 2
    let sigBytes := le hd 0x0C 4
    let len := 64 + 16 * count + sigBytes
    let rangeOk := bit p.toNat 31 && parts.any fun m => b.ownedRange m at' len
    let hdOk := le hd 0 4 = 0x4D4E4657 && le hd 4 1 = 1 && le hd 5 1 = kind.toNat && le hd 6 2 = layer.toNat
      && le hd 8 2 != 0 && (kind = 0 || count = 0) && (sigBytes = 104 || sigBytes = 3317)
    if !rangeOk || !hdOk then none
    else match b.window at' len with
      | .error _ => none
      | .ok bs =>
        let ents := (List.range count).map (manEnt bs)
        if ents.all (fun e => e.ok && b.inRegion n (e.loc : Int) ((e.loc + e.bytes : Nat) - 1 : Int) (some true)) then
          some { at' := at', stamp := BitVec.ofNat 16 (le hd 8 2), ents := ents, sigBytes := sigBytes,
                 root := (bs.drop 0x10).take 48, covered := bs.take (64 + 16 * count), sig := bs.drop (64 + 16 * count) }
        else none

/-! ### Bound tables -/

/-- The image in a bank of a table, if it is placed and its header is read without error. -/
def Blk.image (b : Blk) (layer : Layer) (kind : BitVec 2) (bank : Bool) : Except Flt (List Byte) :=
  match b.bankPlace layer kind bank with
  | none => .error (flt 0x05 (layer.toNat + 256 * kind.toNat))
  | some (start, size) =>
    match b.window start (Nat.min 64 size) with
    | .error e => .error e
    | .ok hd =>
      let len := if kind = 0 then le hd 0x34 4 else if kind = 1 then le hd 0x14 4 else le hd 0x1C 4
      b.window start (Nat.min len size)

/-- NO_TABLE and WRONG_TABLE name the layer and the kind (R350). -/
def fNoTable (layer : Layer) (kind : Nat) : Flt := flt 0x05 (layer.toNat + 256 * kind)
def fWrongTable (layer : Layer) (kind : Nat) : Flt := flt 0x06 (layer.toNat + 256 * kind)

/-- The image that a binding names. -/
def Blk.bound (b : Blk) (x : Binding) : Except Flt (List Byte) := b.image x.layer x.kind x.bank

/-- Header validation of a bank entering CHECKING: true where it is refused as MALFORMED (R72, R385). -/
def Blk.malformed (b : Blk) (layer : Layer) (kind : BitVec 2) (bank : Bool) : Bool :=
  match b.layerPart layer.toNat, b.bankPlace layer kind bank with
  | some n, some (_, size) =>
    match b.image layer kind bank, b.manifest n layer kind bank with
    | .ok bs, some m =>
      let len := if kind = 0 then le bs 0x34 4 else if kind = 1 then le bs 0x14 4 else le bs 0x1C 4
      let ext := ((b.table layer kind).bank bank).extent
      let ok := if kind = 0 then gateOk bs layer.toNat else if kind = 1 then slotOk bs layer.toNat b.self
        else b.ownOk n bs layer.toNat
      let placed : List SlotEnt :=
        if (b.table layer 1).epoch = 0 then []
        else match b.bound (b.bindNow layer 1) with
          | .ok sl => (slotEnts sl).filter fun x => x.owner = b.self
          | .error _ => []
      let known := kind != 0 || m.ents.all fun e => placed.any fun x => x.expert = e.expert
      !ok || !known || ext < len || size < len
    | _, _ => true
  | _, _ => true

/-! ### Rows of a distributed tensor -/

/-- Where a row of an OWNER table lives: its owner, and its place there as a one-row descriptor (R296). -/
def ownRow (bs : List Byte) (r : Nat) : OwnBlk × Desc :=
  let h := OwnHdr.of bs
  let k := ownBlk bs (r / 2 ^ h.shift)
  (k, { h.desc k 1 with base := k.base + r % 2 ^ h.shift * h.pitch })

end Sys2Proof.Machine
end

