-- ==== Sys2Proof/Machine/Epoch.lean ====
section
/-! DEFINITION. Epoch: the epoch class (03 R72 to R74; 13 R336 to R339), the vault's verdicts and pushes
(15 R387 to R395, R398), and `gov.phase` (18 R456). -/

namespace Sys2Proof.Machine
open Sys2Proof

/-- ND_HAND_CFG of a partition and layer (04 R94). -/
def Blk.handCfg (b : Blk) (n : PartId) (l : Layer) : Word := b.reg 0x344 (n.toNat * 256 + l.toNat)

/-- ND_REFRESH_n fields (R392). -/
def Blk.stepPolicy (b : Blk) (n : PartId) : Bool := bit (b.reg 0x118 n.toNat).toNat 12
def Blk.residentMax (b : Blk) (n : PartId) : Nat := fld (b.reg 0x118 n.toNat) 11 0

def Blk.eph (b : Blk) (n : PartId) (l : Layer) : Eph := b.ephs.get (n.toNat * 256 + l.toNat) Eph.reset
def Blk.setEph (b : Blk) (n : PartId) (l : Layer) (x : Eph) : Blk := { b with ephs := b.ephs.put (n.toNat * 256 + l.toNat) x }

/-- An open dispatch of a layer exists on the instance (R338). -/
def Blk.layerOpen (b : Blk) (l : Layer) : Bool := b.disps.any fun d => d.layer = l && d.isOpen

/-! ### `epoch.bind` (R336) -/

def epochBindQuick (p : Site) (f : IFields) : Quick :=
  Quick.mk (encI 0x1A f) f.g .other
      (badE f.a || 2 ≤ f.k.toNat || (f.k = 0 && f.b != 0) || (f.k = 1 && (32 ≤ f.b.toNat || f.imm != 0)))
      ([regEf f.a] ++ if f.k = 1 then [regS p (BitVec.ofNat 5 f.b.toNat)] else [])
      fun b x _ =>
        let l := if f.k = 0 then f.imm else x.s p.queue (BitVec.ofNat 5 f.b.toNat)
        { faults := if 256 ≤ l.toNat || !b.ownsLayer x.part l.toNat then [fBadOperand] else [],
          act := fun b => b.modCtx p.ctx fun x =>
            x.resultE b.cycle.toNat p.queue (BitVec.ofNat 2 f.a.toNat) (BitVec.ofNat 8 l.toNat) }

def execEpochBind (p : Site) (f : IFields) (s : State) : Host.Outcome State Fault Refusal :=
  s.block fun a b => b.issueQuick a p (epochBindQuick p f)

/-! ### The push of expert weights (R388, R395; 17 R445) -/

/-- The WRITE messages that carry an expert image to a die: 64 KiB each, the last one marked. -/
def imageMsgs (op : Nat) (die : BitVec 2) (layer : Layer) (tag : Nat) (stamp : BitVec 16) (bs : List Byte) : List KMsg :=
  let ps := pieces 65536 bs
  ps.zipIdx.map fun p =>
    { cls := 2, op := BitVec.ofNat 4 op, die := die, layer := layer,
      tag := BitVec.ofNat 16 (tag + if p.2 + 1 = ps.length then 2 ^ 15 else 0), stamp := stamp,
      addr := BitVec.ofNat 40 (p.2 * 65536), body := p.1 }

/-- Send messages to dies in order. -/
def Blk.toDies (b : Blk) (l : List KMsg) : Blk := l.foldl (fun b m => b.toDie none m) b

/-- P_r of an expert (R118). -/
def Eph.pr (x : Eph) (e : Nat) : Nat := Nat.min (x.mr.get e 0 + 2 * x.vr.get e 0) 65536

/-- The resident set of a die among a manifest's entries (R395). -/
def Blk.residentSet (b : Blk) (n : PartId) (l : Layer) (ents : List ManEnt) (die : BitVec 2) : List ManEnt :=
  let mine := ents.filter fun e => e.die = die
  let most := b.residentMax n
  if most = 0 then mine
  else
    let x := b.eph n l
    let byLocal := sortBy (fun (p q : ManEnt) => p.local'.toNat < q.local'.toNat) mine
    let order := if x.warm && bit (b.handCfg n l).toNat 26
      then sortBy (fun (p q : ManEnt) => x.pr q.expert.toNat < x.pr p.expert.toNat) byLocal else byLocal
    order.take most

def dies : List (BitVec 2) := [0, 1, 2]

def Blk.setPushes (b : Blk) (l : List Push) : Blk := { b with refresh := { b.refresh with pushes := l } }

/-- The pushes a GATE bank's verdict brings (R387). -/
def Blk.pushesFor (b : Blk) (n : PartId) (l : Layer) (m : Manifest) : List Push :=
  dies.flatMap fun d => (b.residentSet n l m.ents d).map fun e =>
    { die := d, layer := l, expert := e.expert, local' := e.local', addr := b.stackAt n e.loc, len := e.bytes,
      stamp := m.stamp, epoch := nextEpoch (b.table l 0).epoch, active := false, sent := false, written := false, dead := false }

/-- The swap of a die and layer that is to be sent next. -/
def Blk.nextSwap (b : Blk) (die : BitVec 2) (l : Layer) : Option Swap :=
  b.refresh.swapWait.find? fun w => w.die = die && w.layer = l

/-- Start the pushes of a layer that wait for a die: they wait for its SWAPPED, and for a swap that is to be sent before
theirs (R388). -/
def Blk.startPushes (b : Blk) (die : BitVec 2) (l : Layer) : Blk :=
  if b.refresh.swapDue.contains (die, l) then b
  else
    let goes := fun (x : Push) => x.die = die && x.layer = l && !x.active && (match b.nextSwap die l with
      | some w => x.epoch = w.epoch
      | none => true)
    let due := b.refresh.pushes.filter fun x => goes x && !x.sent
    let b := b.setPushes (b.refresh.pushes.map fun x => if goes x then { x with sent := true } else x)
    due.foldl (fun b x =>
      b.toDies (imageMsgs 1 die l x.local'.toNat x.stamp (b.mem.stack.rdBytes x.addr x.len))) b

def execShadowPush (die : BitVec 2) (layer : Layer) (s : State) : Host.Outcome State Fault Refusal :=
  s.block fun _ b => b.startPushes die layer

/-! ### Flips (R72 to R74, R394) -/

/-- The kinds of a mask, in the order GATE, SLOT, OWNER. -/
def kindsOf (m : BitVec 3) : List (BitVec 2) := (bitsOf 3 m.toNat).map (BitVec.ofNat 2)

def Blk.setFlips (b : Blk) (l : List Flip) : Blk := { b with refresh := { b.refresh with flips := l } }

/-- A flip as it becomes ready. -/
def Blk.newFlip (b : Blk) (p : Site) (w : Quad) (l : Layer) (m : BitVec 3) (behind : Bool) : Flip :=
  { ctx := p.ctx, queue := p.queue, layer := l, kinds := m, toCheck := if behind then [] else kindsOf m, due := [],
    accepted := [], reasons := [], issued := false, word := w, since := b.cycle.toNat, behind := behind }

def Flip.at' (f : Flip) (p : Site) : Bool := f.ctx = p.ctx && f.queue = p.queue

/-- Whether two flips share a table. -/
def Flip.shares (f : Flip) (l : Layer) (m : BitVec 3) : Bool := f.layer = l && (f.kinds &&& m) != 0

/-- Of two flips that became ready in the same cycle, the one of the lower context goes first, of one context the one of
the lower queue (R74, log 39). -/
def Flip.before (x y : Flip) : Bool :=
  x.since = y.since && (x.ctx.toNat < y.ctx.toNat || (x.ctx = y.ctx && x.queue.toNat < y.queue.toNat))

/-- Another flip that shares a table and goes before a flip still stands (R74). -/
def Blk.flipLed (b : Blk) (f : Flip) : Bool := b.refresh.flips.any fun y => y.shares f.layer f.kinds && y.before f

/-- Why a named bank is not in FILLING as a flip becomes ready (R72, R78). A bank whose writes an earlier flip still waits
for is that flip's (log 57). -/
def Blk.notFilling (b : Blk) (l : Layer) (k : BitVec 2) : Option Nat :=
  let t := b.table l k
  let placed := match b.bankPlace l k t.shadow with
    | some (_, size) => size != 0
    | none => false
  if !placed then some 2
  else match (t.bank t.shadow).st with
    | .filling => if b.refresh.flips.any fun f => f.layer = l && f.toCheck.contains k then some 6 else none
    | .draining => some 3
    | .checking => some 6
    | _ => some 2

/-- FLIP_REFUSED with its reason (R350). -/
def fFlipRefused (reason : Nat) : Flt := flt 0x0E reason

/-- The reasons a ready flip meets at once (R72, R394). -/
def Blk.flipReasons (b : Blk) (n : PartId) (l : Layer) (m : BitVec 3) : List Nat :=
  (kindsOf m).filterMap (b.notFilling l) ++ if b.stepPolicy n && !b.stepGate n then [5] else []

/-- The lowest of the reasons. -/
def leastOf : List Nat → Nat
  | [] => 0
  | x :: rest => rest.foldl Nat.min x

/-- Flips of a list that a flip goes before stand behind it. -/
def putBehind (f : Flip) (l : List Flip) : List Flip :=
  l.map fun y => if y.shares f.layer f.kinds && f.before y then { y with behind := true, toCheck := [] } else y

/-- A flip is ready: it is refused at once, or its banks are to be checked. -/
def Blk.flipReady (b : Blk) (p : Site) (w : Quad) (l : Layer) (m : BitVec 3) : Blk :=
  let old := b
  let b := b.setFlips (putBehind (b.newFlip p w l m false) b.refresh.flips)
  let rs := b.flipReasons (b.ctx p.ctx).part l m
  if rs.isEmpty then
    (b.setFlips (b.refresh.flips ++ [b.newFlip p w l m false])).hold p (some (.verdict l))
  else old.fault p (old.que p).pc w (fFlipRefused (leastOf rs))

/-- The flip that a queue stands at. -/
def Blk.flipAt (b : Blk) (p : Site) : Option Flip :=
  b.refresh.flips.find? fun f => f.at' p && !f.issued

/-- An accepted flip as it issues (R61, R72). -/
def flipReq (p : Site) (f : Flip) : Req :=
  Req.mk f.word (decR f.word).g .other false [] fun _ _ _ =>
    { ledger := 16, job := .flip f.layer f.kinds,
      act := fun b => b.setFlips (b.refresh.flips.map fun x => if x.at' p then { x with issued := true } else x) }

/-- Issue an accepted flip where its queue may issue. -/
def Blk.issueFlip (a : Aon) (b : Blk) (p : Site) (f : Flip) : Blk :=
  if f.toCheck.isEmpty && f.due.isEmpty && f.reasons.isEmpty && !f.behind then b.issueReq a p (flipReq p f) else b

/-- A flip that becomes ready in the same cycle as an earlier one for a shared table follows it (R74). -/
def Blk.flipBehind (b : Blk) (p : Site) (w : Quad) (l : Layer) (m : BitVec 3) : Blk :=
  (b.setFlips (b.refresh.flips ++ [b.newFlip p w l m true])).hold p (some (.verdict l))

/-- The flip reaches its queue's head, is ready, and sends its banks to checking; once its banks have their
results it issues (R72). -/
def execEpochFlip (p : Site) (f : RFields) (s : State) : Host.Outcome State Fault Refusal :=
  s.block fun a b =>
    let w := encR 0x1B f
    match b.flipAt p with
    | some fl =>
      if fl.behind && !b.flipLed fl then
        (b.setFlips (b.refresh.flips.filter fun x => !x.at' p)).flipReady p fl.word fl.layer fl.kinds
      else b.issueFlip a p fl
    | none =>
      b.arrive a p w f.g .other
        (badE f.a || anyUsed [f.b, f.c, f.d, f.e, f.f, f.gg, f.h, f.i] || f.m = 0 || 8 ≤ f.m.toNat
          || b.badLayer (b.ctx p.ctx) f.a) [regEf f.a] 0 fun b =>
        let l := (b.ctx p.ctx).layerE f.a
        let m := BitVec.ofNat 3 f.m.toNat
        if b.flipLed (b.newFlip p w l m false) then b.flipBehind p w l m
        else b.flipReady p w l m

/-- Flips that followed another in the same cycle become ready once it is gone (R74). -/
def Blk.releaseBehind (b : Blk) (l : Layer) (m : BitVec 3) : Blk :=
  let next := b.refresh.flips.find? fun f => f.behind && f.shares l m && !b.flipLed f
  match next with
  | none => b
  | some f =>
    let b := b.setFlips (b.refresh.flips.filter fun x => !x.at' ⟨f.ctx, f.queue⟩)
    if (b.ctx f.ctx).alive then b.flipReady ⟨f.ctx, f.queue⟩ f.word f.layer f.kinds else b

/-- A flip whose banks all have a result and of which one was refused faults (R72). -/
def Blk.refuseFlip (b : Blk) (f : Flip) : Blk :=
  if f.toCheck.isEmpty && f.due.isEmpty && !f.reasons.isEmpty then
    let p : Site := ⟨f.ctx, f.queue⟩
    let b := f.accepted.foldl (fun b k => b.modBank f.layer k (b.table f.layer k).shadow fun t => { t with st := .filling }) b
    let b := (b.cancelPushes f).setFlips (b.refresh.flips.filter fun x => !x.at' p)
    (b.fault p (b.que p).pc f.word (fFlipRefused (leastOf f.reasons))).releaseBehind f.layer f.kinds
  else b

/-- Record a result for a bank in the flip that waits for it. -/
def Blk.flipResult (b : Blk) (l : Layer) (k : BitVec 2) (reason : Option Nat) : Blk :=
  let upd := fun (f : Flip) => { f with
    due := f.due.filter (· != k),
    accepted := if reason.isNone then f.accepted ++ [k] else f.accepted,
    reasons := f.reasons ++ reason.toList }
  let hit := fun (f : Flip) => f.layer = l && f.due.contains k
  let b := match reason with
    | some _ => b.modBank l k (b.table l k).shadow fun t => { t with st := .filling }
    | none => b
  let fl := b.refresh.flips.find? hit
  let b := b.setFlips (b.refresh.flips.map fun f => if hit f then upd f else f)
  match fl with
  | some f => b.refuseFlip (upd f)
  | none =>
    -- the flip has ended with its context: the bank goes back to FILLING
    b.modBank l k (b.table l k).shadow fun t =>
      if t.st = .checking then { t with st := .filling } else t

/-- Writes to a bank by commands that issued before a cycle and have not committed (R72 step 1). -/
def Blk.bankBusy (b : Blk) (l : Layer) (k : BitVec 2) (bank : Bool) (before : Nat) : Bool :=
  match b.bankPlace l k bank with
  | none => false
  | some (start, size) =>
    let hits := fun (r : Range) => r.sp = .stack && meet r.lo r.len start size
    (b.flights.any fun f => f.issued < before && f.writes.any hits)
      || (List.range 16).any fun n =>
          let s := b.seat (BitVec.ofNat 4 n)
          (s.st = .bound || s.st = .running || s.st = .gathered) && s.bound < before
            && (b.rangeOf s.part s.dst ++ (s.stage.map (b.rangeOf s.part)).getD []).any hits

/-- The flip that is to check a bank. -/
def Blk.flipChecking (b : Blk) (layer : Layer) (kind : BitVec 2) : Option Flip :=
  b.refresh.flips.find? fun f => f.layer = layer && f.toCheck.contains kind

/-- A verdict takes its place in the vault's queue (R387). -/
def putVerdict (v : Verdict) (l : List Verdict) : List Verdict :=
  l.filter (fun x => x.rank ≤ v.rank) ++ v :: l.filter fun x => v.rank < x.rank

/-- The bank of a flip moves to CHECKING, its header is validated, and its verdict queued (R72, R387). It moves as a cycle
ends in which the flip was ready, so that a flip of a lower context that becomes ready in that cycle is known (R74). -/
def execBankChecking (layer : Layer) (kind : BitVec 2) (s : State) : Host.Outcome State Fault Refusal :=
  s.block fun a b =>
    match b.flipChecking layer kind with
    | none => b
    | some f =>
      let bank := (b.table layer kind).shadow
      if (b.table layer kind |>.bank bank).st != .filling || b.cycle.toNat ≤ f.since || b.bankBusy layer kind bank f.since then b
      else
        let old := b
        let b := b.modBank layer kind bank fun t => { t with st := .checking }
        let b := b.setFlips (b.refresh.flips.map fun x =>
          if x.layer = layer && x.toCheck.contains kind then
            { x with toCheck := x.toCheck.filter (· != kind), due := x.due ++ [kind] } else x)
        if b.malformed layer kind bank then Blk.takeTurn old (b.flipResult layer kind (some 4)) (b.cycle.toNat - 1)
        else
          let n := (b.layerPart layer.toNat).getD 0
          match b.manifest n layer kind bank with
          | none => b
          | some m =>
            let v : Verdict := { layer := layer, kind := kind, bank := bank, rank := f.rank kind, from' := b.cycle.toNat - 1,
                                 unsigned := bit (a.reg 0x804).toNat 0,
                                 keys := match a.vault.config with
                                   | some c => c.pubs
                                   | none => [] }
            let homes := m.ents.map fun e => (b.stackAt n e.loc, e.bytes)
            let b := b.modBank layer kind bank fun t => { t with stamp := m.stamp, homes := if kind = 0 then homes else [] }
            let b := b.setPushes (b.refresh.pushes ++ if kind = 0 then b.pushesFor n layer m else [])
            Blk.takeTurn old { b with refresh := { b.refresh with verdicts := putVerdict v b.refresh.verdicts } } (b.cycle.toNat - 1)

/-- Cycles of a verdict (R387). -/
def Blk.verdictCycles (v : Verdict) (m : Manifest) (image : List Byte) : Nat :=
  let bytes := image.length + if v.kind = 0 then sumL (m.ents.map (·.bytes)) else 0
  let sig := if v.unsigned then 0 else if m.sigBytes = 104 then 60000 else 40000
  ceilDiv bytes 400 + sig + 64

/-- Whether the vault accepts a bank: root and signature, unless the mode is UNSIGNED (R387, R509). A vault that failed its
self-test accepts none, which stops further flips (01 R17). -/
def Blk.verdictOk (b : Blk) (n : PartId) (v : Verdict) (m : Manifest) (image : List Byte) : Bool :=
  let homes := if v.kind = 0 then m.ents.map fun e => b.mem.stack.rdBytes (b.stackAt n e.loc) e.bytes else []
  v.unsigned || (signedBy v.keys m.covered m.sig && hashRoot (image :: homes) == m.root)

/-- The vault finishes the bank it is at (R387, R509, R510), and takes up the next. -/
def execVaultVerdict (s : State) : Host.Outcome State Fault Refusal :=
  s.both fun (a, b) =>
    match b.verdictNow with
    | none => (a, b)
    | some v =>
      let n := (b.layerPart v.layer.toNat).getD 0
      let rest := b.refresh.verdicts.tail
      let old := b
      match b.image v.layer v.kind v.bank, b.manifest n v.layer v.kind v.bank with
      | .ok image, some m =>
        if b.cycle.toNat < v.from' + Blk.verdictCycles v m image then (a, b)
        else
          let ok := !a.vaultFail && b.verdictOk n v m image
          let obj := tkey v.layer.toNat v.kind.toNat
          let a := if !ok then a.auditVault 6 true obj 0 0 m.root else if v.unsigned then a.auditVault 3 false obj else a
          let b := { b with refresh := { b.refresh with verdicts := rest } }
          let b := Blk.takeTurn old (b.flipResult v.layer v.kind (if ok then none else some 1)) b.cycle.toNat
          let b := (b.refresh.flips.filter fun f => f.layer = v.layer && !f.issued).foldl
            (fun b f => b.issueFlip a ⟨f.ctx, f.queue⟩ f) b
          (a, Blk.settle old b)
      | _, _ =>
        -- the image or manifest can no longer be read: the bank is refused
        (a.auditVault 6 true (tkey v.layer.toNat v.kind.toNat),
         Blk.takeTurn old (({ b with refresh := { b.refresh with verdicts := rest } } : Blk).flipResult v.layer v.kind (some 1))
           b.cycle.toNat)

/-! ### A flip's last ledger cycle (R72, R389, R398; 13 R337) -/

/-- Whether a push to the shadow bank that a swap is to make the active one is not yet written (R446). -/
def Swap.unwritten (w : Swap) (x : Push) : Bool :=
  x.die = w.die && x.layer = w.layer && !x.active && !x.written && (x.epoch = w.epoch || x.dead)

/-- Send the swaps of a die and layer whose pushes are all written, oldest first (R389, R446). -/
def Blk.pumpSwaps (die : BitVec 2) (l : Layer) : Nat → Blk → Blk
  | 0, b => b
  | fuel + 1, b =>
    match b.nextSwap die l with
    | none => b
    | some w =>
      if b.refresh.pushes.any w.unwritten then b
      else
        let b : Blk := { b with refresh := { b.refresh with
          pushes := b.refresh.pushes.filter fun x => !(x.die = die && x.layer = l && !x.active && x.epoch = w.epoch),
          swapWait := dropFirst (fun x => x.die = die && x.layer = l) b.refresh.swapWait,
          swapDue := b.refresh.swapDue ++ [(die, l)] } }
        Blk.pumpSwaps die l fuel
          (b.toDie none { cls := 3, op := 1, die := die, layer := l, tag := 0, stamp := w.stamp, addr := 0, body := [] })

/-- A die is to be sent a swap: it goes once every push to its shadow bank is written (R389, R446). -/
def Blk.sendSwap (b : Blk) (die : BitVec 2) (l : Layer) (stamp : BitVec 16) : Blk :=
  let b : Blk := { b with refresh := { b.refresh with
    swapWait := b.refresh.swapWait ++ [⟨die, l, stamp, (b.table l 0).epoch⟩] } }
  Blk.pumpSwaps die l b.refresh.swapWait.length b

/-- Change the moons of a plan and of the views that will hold. -/
def Eph.modMoons (x : Eph) (f : Moon → Moon) : Eph :=
  { x with plan := x.plan.map f, views := x.views.map fun v => (v.1, v.2.map f) }

/-- The moons of a plan and of the views that hold or will hold, each once (R110). -/
def Eph.allMoons (x : Eph) : List Moon :=
  (x.views.flatMap (·.2)).foldl (fun l m =>
    if l.any fun y => y.expert = m.expert && y.die = m.die && y.berth = m.berth then l else l ++ [m]) x.plan

/-- Every moon of a layer is stale (R398): open dispatches send its choices to the primary slot, and images on their way are
outdated. -/
def Blk.staleMoons (b : Blk) (l : Layer) : Blk :=
  { b with
    exch := { b.exch with berths := b.exch.berths.map fun x => if x.layer = l then { x with old := true } else x },
    ephs := b.ephs.map fun e => if e.1 % 256 = l.toNat then
        (e.1, e.2.modMoons fun m => { m with staged := false, stale := true }) else e,
    disps := b.disps.map fun d => if d.layer = l then
        { d with moons := d.moons.map fun m => { m with stale := true } } else d }

/-- The home copy of an expert that the active GATE bank's manifest names: window address and bytes. -/
def Blk.homeCopy (b : Blk) (n : PartId) (l : Layer) (e : BitVec 11) : Option (Nat × Nat × BitVec 16) :=
  let t := b.table l 0
  if t.epoch = 0 then none
  else match b.manifest n l 0 t.active with
    | none => none
    | some m => (m.ents.find? fun x => x.expert = e).map fun x => (b.stackAt n x.loc, x.bytes, t.live.stamp)

/-- Place of a copy in the moon staging area. -/
def stagingKey (l : Layer) (e : BitVec 11) : Nat := l.toNat * 2048 + e.toNat

/-- M0 traffic that is charged to no context. -/
def Blk.addM0 (b : Blk) (rd wr : Nat) : Blk :=
  ((b.addFor none Cnt.m0Rd rd).addFor none Cnt.m0Wr wr).burn none (b.coef 8 * (rd + wr))

/-- A copy, `n` of whose bytes have just come, stands in the moon staging area (R113). -/
def Blk.stageIn (b : Blk) (l : Layer) (e : BitVec 11) (image : List Byte) (n : Nat) : Blk :=
  { b with exch := { b.exch with staging := b.exch.staging.put (stagingKey l e) image } }.addM0 0 n

/-- The staged copy of an expert is read through M0 and written to the dies of moons (R113). -/
def Blk.unstage (b : Blk) (l : Layer) (e : BitVec 11) (stamp : BitVec 16) (moons : List Moon) : Blk :=
  let image := b.exch.staging.get (stagingKey l e) []
  let b := moons.foldl (fun (b : Blk) m =>
    (({ b with exch := { b.exch with berths := b.exch.berths ++ [⟨m.die, l, m.berth, e, false⟩] } } : Blk).addM0 image.length 0).toDies
      (imageMsgs 3 m.die l m.berth.toNat stamp image)) b
  { b with exch := { b.exch with staging := b.exch.staging.drop (stagingKey l e) } }

/-- Stage the moons of a plan whose owner is this instance: the home copy goes to the staging area and from there to the
moon's die (R113). Other owners' copies arrive over the WEIGHTS channel. -/
def Blk.stageMoons (b : Blk) (n : PartId) (l : Layer) (plan : List Moon) : Blk :=
  (plan.filter fun m => !m.staged).foldl (fun b m =>
    match b.homeCopy n l m.expert with
    | some (at', len, stamp) =>
      ((b.addM0 len 0).stageIn l m.expert (b.mem.stack.rdBytes at' len) len).unstage l m.expert stamp [m]
    | none => b) b

/-- Swap one kind's banks: the accepted bank is ACTIVE, the old one DRAINING, or FREE with no references. -/
def Blk.flipKind (b : Blk) (l : Layer) (k : BitVec 2) : Blk :=
  let t := b.table l k
  let old := t.live
  let sh := t.shadow
  let t := if t.epoch = 0 then t
    else t.setBank t.active { old with st := if old.refs = 0 then .free else .draining,
                                       extent := if old.refs = 0 then 0 else old.extent,
                                       homes := if old.refs = 0 then [] else old.homes }
  let t := t.setBank sh { t.bank sh with st := .active }
  b.setTable l k { t with active := sh, epoch := nextEpoch t.epoch }

/-- Release the hold on a layer. -/
def Blk.dropHold (b : Blk) (l : Layer) : Blk :=
  match b.refresh.holder.find l.toNat with
  | none => b
  | some c =>
    let b := b.modCtx c fun x => { x with holds := x.holds &&& ~~~(BitVec.ofNat 256 (2 ^ l.toNat)) }
    { b with refresh := { b.refresh with holder := b.refresh.holder.drop l.toNat } }

/-- The residents of each die after a GATE flip: what the verdict of the flip pushed (R395). -/
def Blk.newResidents (b : Blk) (l : Layer) : Blk :=
  let mine := b.refresh.pushes.filter fun x => x.layer = l && !x.active && !x.dead && x.epoch = (b.table l 0).epoch
  { b with refresh := { b.refresh with
      resident := dies.foldl (fun t d => t.put (l.toNat * 4 + d.toNat)
        ((mine.filter fun x => x.die = d).map (·.expert))) b.refresh.resident } }

/-- All named kinds flip together. -/
def Blk.doFlip (b : Blk) (n : PartId) (l : Layer) (m : BitVec 3) : Blk :=
  let ks := kindsOf m
  let b := ks.foldl (fun b k => b.flipKind l k) b
  let b := if ks.contains 0 then
      let stamp := (b.table l 0).live.stamp
      let b := dies.foldl (fun b d => b.sendSwap d l stamp) (b.newResidents l)
      let b := b.staleMoons l
      b.stageMoons n l (b.eph n l).allMoons
    else b
  b.dropHold l

/-- The flip of a queue that is in flight and has not flipped yet. -/
def Blk.flipFlight (b : Blk) (p : Site) : Option Flight :=
  b.flights.find? fun f => f.ctx = p.ctx && f.queue = p.queue && (match f.job with
    | .flip _ _ => true
    | _ => false)

/-! ### Holds (R338, R339) -/

/-- Field rules of an instruction whose one operand is an e register. -/
def Blk.badE1 (b : Blk) (p : Site) (f : RFields) : Bool :=
  badE f.a || anyUsed [f.b, f.c, f.d, f.e, f.f, f.gg, f.h, f.i] || f.m != 0 || b.badLayer (b.ctx p.ctx) f.a

/-- The hold is ready: the layer is held. -/
def execEpochHold (p : Site) (f : RFields) (s : State) : Host.Outcome State Fault Refusal :=
  s.block fun a b =>
    b.arrive a p (encR 0x1C f) f.g .other (b.badE1 p f) [regEf f.a] 0 fun b =>
      let l := (b.ctx p.ctx).layerE f.a
      if (b.que p).holdDue.isSome then b.hold p
      else match b.refresh.holder.find l.toNat with
        | some c => if c = p.ctx then b.fault p (b.que p).pc (encR 0x1C f) fBadDispatch else b.hold p (some (.held l))
        | none =>
          let b := (b.hold p).modQue p fun u => { u with holdDue := some l }
          let b := b.modCtx p.ctx fun x => { x with holds := x.holds ||| BitVec.ofNat 256 (2 ^ l.toNat) }
          { b with refresh := { b.refresh with holder := b.refresh.holder.put l.toNat p.ctx } }

/-- A hold that is ready issues once no dispatch of its layer is open; it takes 4 cycles. -/
def Blk.holdReq (b : Blk) (p : Site) (f : RFields) (l : Layer) : Req :=
  Req.mk (encR 0x1C f) f.g .other (b.badE1 p f) [regEf f.a] fun b _ _ => { ledger := 4, wait := b.layerOpen l }

def execEpochHoldIssue (p : Site) (f : RFields) (s : State) : Host.Outcome State Fault Refusal :=
  s.block fun a b =>
    match (b.que p).holdDue with
    | none => b
    | some l => b.issueReq a p (b.holdReq p f l)

/-- `epoch.release` of a layer that its context holds. -/
def Blk.releaseQuick (b : Blk) (p : Site) (f : RFields) : Quick :=
  Quick.mk (encR 0x1D f) f.g .other (b.badE1 p f) [regEf f.a] fun b x _ =>
    let l := x.layerE f.a
    { faults := if b.refresh.holder.find l.toNat = some p.ctx then [] else [fBadDispatch],
      act := fun b => b.dropHold l }

def execEpochRelease (p : Site) (f : RFields) (s : State) : Host.Outcome State Fault Refusal :=
  s.block fun a b => Blk.settle b (b.issueQuick a p (b.releaseQuick p f))

/-! ### `gov.phase` (18 R456) -/

def govPhaseQuick (f : RFields) : Quick :=
  Quick.mk (encR 0x1F f) f.g .other
    (anyUsed [f.a, f.b, f.c, f.d, f.e, f.f, f.gg, f.h, f.i] || 4 ≤ f.m.toNat) []
    fun _ x _ => { act := fun b => b.setReg 0x11C x.part.toNat (setFld (b.reg 0x11C x.part.toNat) 25 24 f.m.toNat) }

def execGovPhase (p : Site) (f : RFields) (s : State) : Host.Outcome State Fault Refusal :=
  s.block fun a b => b.issueQuick a p (govPhaseQuick f)

end Sys2Proof.Machine
end

