-- ==== Sys2Proof/Machine/Gate.lean ====
section
/-! DEFINITION. Gate: `score` and `hash` (03 R57 to R63, R79 to R85), and the issue of a `score` or `hash` with
its `select` (04 R98; 13 R325, R334, R348). The `select` half of a pair is in Hand.lean; here stand its
checks, since the two issue together. -/

namespace Sys2Proof.Machine
open Sys2Proof

/-! ### Dispatch lookups and hand policy fields (04 R86 to R96) -/

/-- The open dispatch of a context and layer. -/
def Blk.openDisp (b : Blk) (c : CtxId) (l : Layer) : Option Dispatch :=
  b.disps.find? fun d => d.ctx = c && d.layer = l && d.isOpen

/-- The context's most recent dispatch of a layer (R115). -/
def Blk.lastDisp (b : Blk) (c : CtxId) (l : Layer) : Option Dispatch :=
  (b.disps.filter fun d => d.ctx = c && d.layer = l).reverse.head?

/-- What a command that names a dispatch binds: the dispatch's SLOT bank while that still is the ACTIVE or
DRAINING one of its epoch (R69, R87). A dispatch keeps the view itself, whatever became of the bank. -/
def Blk.dispBinds (b : Blk) (d : Dispatch) : List Binding :=
  let t := b.table d.layer 1
  let x := d.binding
  if (t.epoch = x.epoch && t.active = x.bank)
      || ((t.bank x.bank).st = .draining && t.epoch = nextEpoch x.epoch) then [x] else []

/-- Fields of a policy word. -/
def polPolicy (w : Word) : Nat := fld w 1 0
def polScore (w : Word) : Bool := bit w.toNat 3
def polNorm (w : Word) : Bool := bit w.toNat 4
def polCf (w : Word) : Nat := fld w 19 8
def polSkew (w : Word) : Nat := fld w 23 20
def polShift (w : Word) : Nat := fld w 25 24 + 1
def polPrefetch (w : Word) : Bool := bit w.toNat 26
def polFreeze (w : Word) : Bool := bit w.toNat 27
def polSteer (w : Word) : Bool := bit w.toNat 28

/-- Effective spill depth (R96). -/
def polSpill (w : Word) : Nat := if polPolicy w = 1 then fld w 7 5 else 0

/-! ### The score stage (R41, R80 to R82) -/

/-- The exact values of a row's elements (R30 to R33). -/
def rowVals (fmt n : Nat) (bs : List Byte) : List Val :=
  (List.range n).map fun i =>
    if fmtBlock fmt then scaled ((fmtOf fmt).val (bs.getD i 0).toNat) (bs.getD (n + i / 32) 0).toNat
    else (fmtOf fmt).val (leNat ((bs.drop (i * fmtBytes fmt)).take (fmtBytes fmt)))

/-- Exact sum of the products of two lists of values. -/
def exactDot (xs ys : List Val) : Val := (xs.zip ys).foldl (fun s p => s.add (p.1.mul p.2)) (.fin true 0 0)

/-- A score: steps of 128 elements, each summed exactly and rounded, then added in FP32 (R41). -/
def scoreOf (xs ys : List Val) : Word :=
  ((pieces 128 xs).zip (pieces 128 ys)).foldl (fun acc p => f32Add acc (toF32 (exactDot p.1 p.2))) negZero

/-- Keyed noise of a token and expert (R81). -/
def noiseOf (h : GateHdr) (key : BitVec 128) (l : Layer) (g : Word) (e : Nat) : Word :=
  let w := mix key (0xF0000000 + BitVec.ofNat 32 l.toNat) (BitVec.ofNat 64 (g.toNat * 2048 + e))
  let u := toF32 (unit23 w)
  if h.noise = 0 then 0
  else if h.noise = 1 then f32Mul h.amp (f32Sub (f32Mul 0x40000000 u) 0x3F800000)
  else
    let neg := fun (x : Word) => x ^^^ 0x80000000
    f32Mul h.amp (neg (log32 (neg (log32 u))))

/-- z and the selection key of a raw score (R80). -/
def zKey (h : GateHdr) (s noise bias : Word) : Word × Word :=
  let z := f32Add (f32Mul s h.rtau) noise
  if h.bias = 2 then (f32Add z bias, f32Add z bias)
  else if h.bias = 1 then (z, f32Add z bias)
  else (z, z)

/-- 1/n rounded to FP32. -/
def oneOver (n : Nat) : Word := toF32 (vOne.div (.fin false n 0))

/-- The case table of R82 over a list of z values, with the sum it forms D by. -/
def softmaxOf (zs : List Word) (sum : List Word → Word) : Word → Word :=
  let real := zs.filter fun z => !isNaN32 z
  let m := real.foldl (fun a z => if lt43 (valOf a) (valOf z) then z else a) (real.headD nan32)
  let d := sum (zs.map fun z => if isNaN32 z then negZero else exp32 (f32Sub z m))
  fun z =>
    if isNaN32 z then nan32
    else if m = 0x7F800000 then
      (if z = m then oneOver (real.filter fun y => y == m).length else 0)
    else if m = 0xFF800000 then oneOver real.length
    else f32Div (exp32 (f32Sub z m)) d

/-- The gate value of every z of a token (R82). -/
def gateValue (transform : Nat) (zs : List Word) : Word → Word :=
  if transform = 1 then softmaxOf zs orderedSum else if transform = 2 then sigmoid32 else id

/-- The first `c` experts by key, ties to the lower index (R97). -/
def ranked (cands : List Cand) (c : Nat) : List Cand :=
  (sortBy (fun x y => lt43 (valOf y.key) (valOf x.key)) cands).take c

/-- A token's candidates of every expert from its raw scores. -/
def tokenCands (h : GateHdr) (key : BitVec 128) (l : Layer) (bias : List Word) (g : Word) (scores : List Word) :
    List Cand :=
  let zk := scores.zipIdx.map fun p => zKey h p.1 (noiseOf h key l g p.2) (bias.getD p.2 0)
  let gv := gateValue h.transform (zk.map (·.1))
  zk.zipIdx.map fun p => ⟨BitVec.ofNat 11 p.2, p.1.2, p.1.1, gv p.1.1⟩

/-- Keys of a token that are NaN though its expert's raw score and bias are none (R39, R83). -/
def keyNans (bias : List Word) (scores : List Word) (cands : List Cand) : Nat :=
  ((scores.zip cands).zipIdx.filter fun q =>
    isNaN32 q.1.2.key && !isNaN32 q.1.1 && !isNaN32 (bias.getD q.2 0)).length

/-! ### Hash candidates (R84, R85) -/

/-- The partial shuffle: experts of candidates 0 to c − 1. -/
def hashCands (salt : BitVec 128) (l : Layer) (e c : Nat) (id : Word) : List Nat :=
  let st := (List.range c).foldl (fun (st : List Nat × Tab Nat) j =>
    let r := mix salt (0xF1000000 + BitVec.ofNat 32 l.toNat) (BitVec.ofNat 64 (id.toNat * 32 + j))
    let t := j + (r.toNat * (e - j)) / 2 ^ 32
    (st.1 ++ [st.2.get t t], st.2.put t (st.2.get j j))) ([], [])
  st.1

def one32 : Word := 0x3F800000

/-! ### What a pair is about -/

/-- A `score` or `hash` as it stands at issue. -/
structure ScoreIn where
  layer : Layer
  hash : Bool
  op : Nat                    -- 0 bf16, 1 fp16, 2 ofp8
  t : Nat
  tokens : Desc
  idx : Option Desc
  g0 : Word
  binding : Binding
  table : Except Flt (List Byte)   -- the bound table's image, or why there is none of the right kind
  e : Nat                     -- 0 while the table is absent or of the wrong kind

/-- The bound gate table of the kind a command reads (R70). -/
def Blk.gateTable (b : Blk) (l : Layer) (hash : Bool) : Except Flt (List Byte) :=
  let x := b.bindNow l 0
  if x.epoch = 0 then .error (fNoTable l 0)
  else match b.bound x with
    | .error e => .error e
    | .ok bs => if (GateHdr.of bs).hash = hash then .ok bs else .error (fWrongTable l 0)

def tableE (t : Except Flt (List Byte)) : Nat :=
  match t with
  | .ok bs => (GateHdr.of bs).experts
  | .error _ => 0

def Blk.scoreIn (b : Blk) (x : Ctx) (p : Site) (op : Nat) (f : RFields) : ScoreIn :=
  let l := x.layerE f.b
  let tok := (x.descF f.a).getD Desc.zero
  let tb := b.gateTable l false
  { layer := l, hash := false, op := op, t := tok.rows, tokens := tok, idx := x.descF f.d, g0 := x.s p.queue f.c,
    binding := b.bindNow l 0, table := tb, e := tableE tb }

def Blk.hashIn (b : Blk) (x : Ctx) (p : Site) (f : RFields) : ScoreIn :=
  let l := x.layerE f.b
  let tb := b.gateTable l true
  { layer := l, hash := true, op := 0, t := (x.s p.queue f.d).toNat, tokens := Desc.zero, idx := x.descF f.a,
    g0 := x.s p.queue f.c, binding := b.bindNow l 0, table := tb, e := tableE tb }

/-- Faults of an index or id tensor (R558). -/
def idxFaults (d : Option Desc) (need : Nat) : List Flt :=
  match d with
  | none => []
  | some d => (if d.fmt != 8 then [fBadFormat] else []) ++ (if d.elems < need then [fBadShape] else [])

/-- Faults of a `score` or `hash` at issue, `c` being its `select`'s (R58, R59, R62, R70, R85).
DESIGN CHOICE: R58's limit on T holds for a hash too (log 71). -/
def ScoreIn.faults (s : ScoreIn) (c : Nat) : List Flt :=
  let shapeT := if s.t = 0 || 2 ^ 20 < s.t || 2 ^ 32 < s.g0.toNat + s.t then [fBadShape] else []
  idxFaults s.idx s.t ++ shapeT ++
  (if s.hash then
    match s.table with
    | .error e => [e]
    | .ok _ => if s.e < c then [fBadShape] else []
  else
    let d := s.tokens.n0
    let fits := if s.op = 0 then s.tokens.fmt = 0 else if s.op = 1 then s.tokens.fmt = 1 else s.tokens.block
    (if !fits then [fBadFormat] else [])
      ++ (if d < 256 || 16384 < d || d % 128 != 0 then [fBadShape] else [])
      ++ match s.table with
        | .error e => [e]
        | .ok bs =>
          (if (GateHdr.of bs).fmt != s.tokens.fmt then [fBadFormat] else [])
            ++ (if (GateHdr.of bs).d != d then [fBadShape] else []))

/-- Ledger of a `score` or `hash` (R61). -/
def ScoreIn.ledger (s : ScoreIn) (c : Nat) : Nat :=
  if s.hash then ceilDiv (s.t * c) 32 + 48
  else
    let d := if s.op = 2 then s.tokens.n0 / 2 else s.tokens.n0
    ceilDiv s.t 128 * ceilDiv s.e 128 * d + 48

/-- MAC energy of a `score`: the padded MAC count (R60; 18 R472). -/
def Blk.macEnergy (b : Blk) (s : ScoreIn) : Nat :=
  if s.hash then 0
  else 128 * ceilDiv s.t 128 * (128 * ceilDiv s.e 128) * s.tokens.n0 * b.coef (if s.op = 2 then 1 else 0)

/-- The global indices or identifiers of the rows. -/
def Blk.indices (b : Blk) (n : PartId) (d : Option Desc) (g0 : Word) (t : Nat) : Except Flt (List Word) :=
  match d with
  | none => .ok ((List.range t).map fun i => g0 + BitVec.ofNat 32 i)
  | some d => b.elemWords n d t

/-- The E bias values of a table. -/
def biasOf (h : GateHdr) (bs : List Byte) : List Word :=
  if h.bias = 0 then [] else (List.range h.experts).map fun e => BitVec.ofNat 32 (le bs (h.biasOff + 4 * e) 4)

/-- What a `score` hands to its `select`: `c` candidates a token, and the gate-value rows where asked for. -/
def Blk.scoreTokens (b : Blk) (x : Ctx) (s : ScoreIn) (bs : List Byte) (c : Nat) (vals : Bool) : Except Flt Scoring :=
  let h := GateHdr.of bs
  let stamp := (b.table s.layer 0).live.stamp
  match allOk ((List.range s.t).map (b.rowBytes x.part s.tokens)), b.indices x.part s.idx s.g0 s.t with
  | .error e, _ => .error e
  | _, .error e => .error e
  | .ok rows, .ok gs =>
    let ws := (List.range s.e).map fun e => rowVals h.fmt h.d ((bs.drop (h.rowsOff + e * h.rowBytes)).take h.rowBytes)
    let bias := biasOf h bs
    let done := (rows.zip gs).map fun p =>
      let xs := rowVals s.tokens.fmt s.tokens.n0 p.1
      let scores := ws.map (scoreOf xs)
      let bad := if xs.any Val.isNaN then 0 else
        ((scores.zip ws).filter fun q => isNaN32 q.1 && !(q.2.any Val.isNaN)).length
      let cands := tokenCands h x.key s.layer bias p.2 scores
      (cands, p.2, bad + keyNans bias scores cands)
    .ok { layer := s.layer, hash := false, e := s.e, transform := h.transform,
          tokens := done.map fun q => ⟨0, q.2.1, stamp, h.transform, ranked q.1 c⟩,
          values := if vals then done.map fun q => q.1.map (·.p) else [],
          nans := sumL (done.map fun q => q.2.2), binding := s.binding }

/-- What a `hash` hands to its `select` (R85). -/
def Blk.hashTokens (b : Blk) (x : Ctx) (s : ScoreIn) (bs : List Byte) (c : Nat) (vals : Bool) : Except Flt Scoring :=
  let h := GateHdr.of bs
  let stamp := (b.table s.layer 0).live.stamp
  match b.indices x.part s.idx s.g0 s.t with
  | .error e => .error e
  | .ok ids =>
    let cs := ids.map fun id => (hashCands h.salt s.layer s.e c id).map fun e => BitVec.ofNat 11 e
    .ok { layer := s.layer, hash := true, e := s.e, transform := 0,
          tokens := cs.zipIdx.map fun q =>
            ⟨0, s.g0 + BitVec.ofNat 32 q.2, stamp, 0, q.1.map fun e => ⟨e, one32, one32, one32⟩⟩,
          values := if vals then cs.map fun q => (List.range s.e).map fun e =>
            if q.contains (BitVec.ofNat 11 e) then one32 else 0 else [],
          nans := 0, binding := s.binding }

/-! ### The `select` of a pair: its checks (04 R86 to R91, R99, R102, R107, R108, R126; 05 R139) -/

/-- A `select` as it stands at issue. -/
structure SelIn where
  first : Bool                -- FIRST or ONLY
  last : Bool                 -- LAST or ONLY
  k : Nat
  td : Nat
  policy : Word
  disp : Option Dispatch
  map : Option Desc
  cand : Option Desc
  values : Option Desc
  trace : Option Desc
  summary : Option Desc

def Blk.selIn (b : Blk) (x : Ctx) (p : Site) (l : Layer) (f : RFields) : SelIn :=
  let phase := f.m.toNat % 4
  let first := phase ≤ 1
  let d := b.openDisp p.ctx l
  { first := first, last := phase = 0 || phase = 3, k := f.a.toNat + 1,
    td := if first then (x.s p.queue f.b).toNat else (d.map (·.td)).getD 0,
    policy := if first then b.handCfg x.part l else (d.map (·.policy)).getD (b.handCfg x.part l), disp := d,
    map := x.descF f.c, cand := x.descF f.d, values := x.descF f.e, trace := x.descF f.f, summary := x.descF f.gg }

/-- Candidates per token (R97). -/
def SelIn.c (s : SelIn) : Nat := s.k + polSpill s.policy

/-- Field rules of a `select` (R328, R329). -/
def Blk.selBad (b : Blk) (x : Ctx) (f : RFields) : Bool :=
  16 ≤ f.a.toNat || b.badD x f.c optW || b.badD x f.d ⟨true, true, true, false⟩ || b.badD x f.e optW || b.badD x f.f optW
    || b.badD x f.gg optW || used f.h || used f.i || 4 ≤ f.m.toNat

/-- Tokens that a `select` serves. -/
def SelIn.served (s : SelIn) (t : Nat) : Nat :=
  if !polScore s.policy then t else if s.last then ((s.disp.map (·.tokens)).getD 0) + t else 0

/-- The bound SLOT image of a `select`: of its dispatch, or at epoch now for one that opens a dispatch (R87, R91). -/
def Blk.selSlot (b : Blk) (s : SelIn) (l : Layer) : Except Flt (List SlotEnt) :=
  if s.first then
    (let x := b.bindNow l 1
     if x.epoch = 0 then .error (fNoTable l 1)
     else match b.bound x with
      | .error e => .error e
      | .ok bs => .ok (slotEnts bs))
  else .ok ((s.disp.map (·.primary)).getD [])

/-- Faults of a `select` at issue; `e` is 0 while the GATE table is absent or of the wrong kind (R91, R348).
DESIGN CHOICE: a summary of fewer than 64 B is BAD_SHAPE (log 71). -/
def Blk.selFaults (b : Blk) (x : Ctx) (s : SelIn) (l : Layer) (t e : Nat) : List Flt :=
  let score := polScore s.policy
  let operand := s.map.isSome != s.first || (s.first && s.cand.isSome != score) || (!s.first && s.cand.isSome)
    || (s.summary.isSome && !s.last)
  let taken := if s.first then 0 else (s.disp.map (·.tokens)).getD 0
  let k := if s.first then s.k else (s.disp.map (·.k)).getD s.k
  let shape := (s.first && (s.td = 0 || 2 ^ 20 < s.td)) || s.k != k
    || (s.disp.isSome || s.first) && s.td < taken + t
    || (e != 0 && e < s.c)
    || (match s.map with
        | some d => !d.isStack || !b.inRegion x.part d.lo d.hi (some true) || d.covers < s.td * s.k * 8
        | none => false)
    || (match s.cand with
        | some d => d.isDie || d.covers < 16 * (s.c + 1) * s.td
        | none => false)
    || (match s.values with
        | some d => d.rows < t || (e != 0 && d.n0 != e)
        | none => false)
    || (match s.trace with
        | some d => d.covers < 8 * s.k * s.served t
        | none => false)
    || (match s.summary with
        | some d => d.covers < 64
        | none => false)
  (if operand then [fBadOperand] else []) ++ (if shape then [fBadShape] else [])
    ++ (match s.values with
        | some d => if d.fmt = 4 || d.fmt = 0 then [] else [fBadFormat]
        | none => [])
    ++ (if s.first = s.disp.isSome then [fBadDispatch] else [])
    ++ match b.selSlot s l with
      | .error e => [e]
      | .ok ents => if (s.first || s.disp.isSome) && e != 0 && ents.length != e then [fWrongTable l 1] else []

/-- The ledger of a `select`: cycles by which it completes after its `score` or `hash` (R99). -/
def SelIn.ledger (s : SelIn) (hash : Bool) (e : Nat) : Nat :=
  let index := if hash then 64 else 128 * ceilDiv e 128 + 64
  if polScore s.policy && s.last then
    index + (if hash then ceilDiv (s.td * s.c) 32 else 128 * ceilDiv s.td 128 * ceilDiv e 128) + 64
  else index

/-- What holds a `select` that opens a dispatch: a free ledger and tally set, an observation in progress
(R88, R122, R130). -/
def Blk.selWaits (b : Blk) (x : Ctx) (s : SelIn) (l : Layer) : Bool :=
  s.first && (8 ≤ (b.disps.filter fun d => d.ledgerHeld).length || 8 ≤ (b.disps.filter fun d => d.tallyHeld).length
    || !(b.eph x.part l).observing.isEmpty)

/-- A `sample` holds the hand unit. -/
def Blk.sampling (b : Blk) : Bool := b.flights.any fun f => f.units.contains .hand

/-- Ranges of optional descriptors. -/
def Blk.rangesO (b : Blk) (n : PartId) (l : List (Option Desc)) : List Range :=
  l.flatMap fun d => match d with
    | some d => b.rangeOf n d
    | none => []

/-- The candidate buffer of a `select`'s dispatch (R102). -/
def SelIn.candOf (s : SelIn) : Option Desc := if s.first then s.cand else s.disp.bind (·.candBuf)

/-- What a `select` writes: the map and the candidate buffer of its dispatch, and what it names itself (R102, R107, R108,
R126, R139). -/
def Blk.selWrites (b : Blk) (n : PartId) (s : SelIn) : List Range :=
  b.rangesO n [if s.first then s.map else s.disp.map (·.map), s.candOf, s.values, s.trace, s.summary]

/-- What a `select` reads: the candidate buffer, in the second pass of SCORE order (R102). -/
def Blk.selReads (b : Blk) (n : PartId) (s : SelIn) : List Range :=
  if polScore s.policy && s.last then b.rangesO n [s.candOf] else []

/-! ### Issue of the pair -/

/-- The gate store: 8 MiB (R66). -/
def gateStoreBytes : Nat := 8388608

/-- Bytes of a gate table of `len` bytes that M0 brings to a command of `tiles` row tiles: what the gate store does not hold,
and for each further row tile what it cannot hold (R66). -/
def Blk.gateMiss (b : Blk) (x : Binding) (len tiles : Nat) : Nat :=
  let held := ((b.gateStore.find? fun g => g.1 = x).map (·.2)).getD 0
  (len - held) + (tiles - 1) * (len - gateStoreBytes)

/-- Keep the lines of the tables used last within 8 MiB: those of the least recently used table go first (R66). -/
def fitStore : Nat → List (Binding × Nat) → List (Binding × Nat)
  | _, [] => []
  | 0, _ => []
  | room, g :: rest => (g.1, Nat.min g.2 room) :: fitStore (room - g.2) rest

/-- The first word of a table bank in the gate store's numbering (log 58). -/
def gateWord (x : Binding) : Nat := ((x.layer.toNat * 4 + x.kind.toNat) * 2 + b01 x.bank) * 2 ^ 24

/-- A table as a command reads it: the lines that the gate store holds as R55 gives them, the rest from its bank. -/
def Blk.gateBytes (b : Blk) (x : Binding) (bs : List Byte) : List Byte :=
  let held := ((b.gateStore.find? fun g => g.1 = x).map (·.2)).getD 0
  b.mem.arrayBytes 18 (gateWord x) (bs.take held) ++ bs.drop held

/-- The lines of a table that the gate store holds are read: damaged ones are noted and fetched again, with no fault (R66,
R476); the rest of the table is written as it is fetched. -/
def Blk.readGate (b : Blk) (x : Binding) : Blk :=
  let held := ((b.gateStore.find? fun g => g.1 = x).map (·.2)).getD 0
  let at' := gateWord x
  let r := b.readArray 18 fun w => at' ≤ w && w < at' + held / 4
  { r.1 with mem := r.1.mem.freshen 18 fun w => at' ≤ w && w < at' + 2 ^ 24 }

/-- A table is used: it moves to the front of the gate store, the least recently used leave (R66). -/
def Blk.touchGate (b : Blk) (x : Binding) (len : Nat) : Blk :=
  { b with gateStore := fitStore gateStoreBytes ((x, len) :: b.gateStore.filter fun g => g.1 != x) }

/-- The member of a pair whose condition gave the lowest code, the `score` or `hash` where both did (R334). -/
def pairFault (fs ss : List Flt) : Option (Bool × Flt) :=
  match lowest fs, lowest ss with
  | some f, some s => if s.code.toNat < f.code.toNat then some (true, s) else some (false, f)
  | some f, none => some (false, f)
  | none, some s => some (true, s)
  | none, none => none

/-- A `score` or `hash` has issued whose `select` comes next, of any context (R98, log 56). -/
def Blk.pairStands (b : Blk) : Bool :=
  b.ctxIds.any fun c => queueNums.any fun q => ((b.ctx c).que q).pairOpen

/-- The function pipes are being retested, and a `select` takes exponentials from them: NORM over a SOFTMAX table (R105;
19 R477). -/
def Blk.pipesOut (b : Blk) (s : SelIn) (table : Except Flt (List Byte)) : Bool :=
  (b.wear 24).retest.isSome && polNorm s.policy && (match table with
    | .ok bs => (GateHdr.of bs).transform = 1
    | .error _ => false)

/-- Whether a table has noise other than OFF, so that its `score` binds the context key (16 R405). -/
def noisy (table : Except Flt (List Byte)) : Bool :=
  match table with
  | .ok bs => (GateHdr.of bs).noise != 0
  | .error _ => false

/-- Issue a `score` or `hash` whose next entry is `next`: the pair takes two slots of the cycle (R98, R311). -/
def Blk.issuePair (a : Aon) (b : Blk) (p : Site) (w next : Quad) (f : RFields) (bad : Bool) (regs : List Nat)
    (s : ScoreIn) : Blk :=
  let u := b.que p
  let x := b.ctx p.ctx
  let sf := decR next
  if !b.open a p || b.pairStands then b
  else if u.left.toNat < 2 then b.hold p (some (.doorbell 2))
  else if opcodeOf next != 0x28 || sf.g.ginv != f.g.ginv || sf.g.gpred != f.g.gpred then b.fault p u.pc w fBadOperand
  else if !b.regsFree p.ctx f.g [] || !b.regsFree p.ctx sf.g [] then b.hold p
  else if b.behindBarrier p then b.hold p (some (.comet p.queue))
  else if b.slotsFor a p < 2 then b.hold p
  else if !x.guard f.g then (b.guardedOff p f.g .other 0).guardedOff p sf.g .other 0
  else
    let l := s.layer
    let sel := b.selIn x p l sf
    let selRegs := [regS p sf.b] ++ [sf.c, sf.d, sf.e, sf.f, sf.gg].flatMap regD
    if !b.regsFree p.ctx f.g regs || !b.regsFree p.ctx sf.g selRegs || b.behindFlip p then b.hold p
    else if sel.first && b.heldFor x.part l then
      b.hold p (b.heldOut l)
    else
      let ld := s.ledger sel.c
      let reads := (if s.hash then [] else b.rangeOf x.part s.tokens) ++ b.rangesO x.part [s.idx]
      let plan : Plan := { units := [.gate], reads := reads ++ b.selReads x.part sel, writes := b.selWrites x.part sel }
      if b.areaWaits p plan then b.hold p (some (.areas plan.reads plan.writes))
      else if 16 < b.flying p.ctx + 2 || b.sampling || b.planWaits a p w plan || b.unitOut 0x28 || b.pipesOut sel s.table
          || b.selWaits x sel l || (b.seeding p.ctx && noisy s.table) then
        b.hold p
      else
        let sl := sel.ledger s.hash s.e
        match pairFault (operandFaults bad ++ s.faults sel.c ++ u.chargeFaults .other ld)
            (operandFaults (b.selBad x sf) ++ b.selFaults x sel l s.t s.e ++ u.chargeFaults .other (ld + sl)) with
        | some (second, e) => if second then b.fault p (u.pc + 1) next e else b.fault p u.pc w e
        | none =>
          match s.table with
          | .error e => b.fault p u.pc w e
          | .ok bs =>
            let image := b.gateBytes s.binding bs
            let out := if s.hash then b.hashTokens x s image sel.c sel.values.isSome
              else b.scoreTokens x s image sel.c sel.values.isSome
            let miss := b.gateMiss s.binding bs.length (ceilDiv s.t 128)
            let b := (b.readGate s.binding).touchGate s.binding bs.length
            let base : Plan := { ledger := ld, units := [.gate], binds := [s.binding],
                                 reads := reads ++ [⟨.stack, 0, 0, 0, 0, miss⟩], energy := b.macEnergy s }
            let n := match out with
              | .ok sc => { base with job := .score sc, fx := [.count Cnt.arithNan sc.nans] }
              | .error e =>
                { base with job := .score ⟨l, s.hash, s.e, 0, [], [], 0, s.binding⟩, fx := [.fault e] }
            ((b.launch p w f.g .other n).takeSlot p 1).modQue p fun v => { v with pairOpen := true }

/-- Field rules of a `score` and of a `hash` (R328, R329), and the registers each names. -/
def Blk.scoreBad (b : Blk) (p : Site) (f : RFields) : Bool :=
  let x := b.ctx p.ctx
  b.badD x f.a needR || badE f.b || b.badLayer x f.b || b.badD x f.d optR || anyUsed [f.e, f.f, f.gg, f.h, f.i] || f.m != 0

def scoreRegs (p : Site) (f : RFields) : List Nat := regD f.a ++ [regEf f.b, regS p f.c] ++ regD f.d

def Blk.hashBad (b : Blk) (p : Site) (f : RFields) : Bool :=
  let x := b.ctx p.ctx
  b.badD x f.a optR || badE f.b || b.badLayer x f.b || anyUsed [f.e, f.f, f.gg, f.h, f.i] || f.m != 0

def hashRegs (p : Site) (f : RFields) : List Nat := regD f.a ++ [regEf f.b, regS p f.c, regS p f.d]

/-- Issue a `score` of a format. -/
def Blk.issueScore (a : Aon) (b : Blk) (p : Site) (op : Nat) (f : RFields) (next : Quad) : Blk :=
  b.issuePair a p (encR (0x20 + op) f) next f (b.scoreBad p f) (scoreRegs p f) (b.scoreIn (b.ctx p.ctx) p op f)

def execScoreBf16 (p : Site) (f : RFields) (next : Quad) (s : State) : Host.Outcome State Fault Refusal :=
  s.block fun a b => b.issueScore a p 0 f next

def execScoreFp16 (p : Site) (f : RFields) (next : Quad) (s : State) : Host.Outcome State Fault Refusal :=
  s.block fun a b => b.issueScore a p 1 f next

def execScoreOfp8 (p : Site) (f : RFields) (next : Quad) (s : State) : Host.Outcome State Fault Refusal :=
  s.block fun a b => b.issueScore a p 2 f next

def execHash (p : Site) (f : RFields) (next : Quad) (s : State) : Host.Outcome State Fault Refusal :=
  s.block fun a b =>
    b.issuePair a p (encR 0x23 f) next f (b.hashBad p f) (hashRegs p f) (b.hashIn (b.ctx p.ctx) p f)

end Sys2Proof.Machine
end

