-- ==== Sys2Proof/Machine/Hand.lean ====
section
/-! DEFINITION. Hand: `select` (04 R86 to R109, R126 to R128; 05 R129, R139 to R144) and `sample` (10 R271 to
R276). What a `select` decides follows from its tokens and its dispatch alone (R93), so it is decided at
issue; what it yields becomes visible at its completion. -/

namespace Sys2Proof.Machine
open Sys2Proof

/-! ### Serving a token (R103) -/

/-- Slots of a dispatch's view (R109). -/
def Dispatch.slots (d : Dispatch) : Nat := d.experts + d.moons.length

/-- The primary slot of an expert. -/
def Dispatch.primaryOf (d : Dispatch) (e : BitVec 11) : Nat := (findIdx (fun x => x.expert = e) d.primary).getD 0

/-- The moon that takes a choice of an expert, if one is open. -/
def Dispatch.moonPick (d : Dispatch) (counts : Tab Nat) (e : BitVec 11) : Option Nat :=
  let ms := (d.moons.zipIdx.filter fun m => m.1.expert = e && counts.get (d.experts + m.2) 0 < d.cap).map
    fun m => (d.experts + m.2, bit d.shaded.toNat m.1.die.toNat)
  let lit := ms.filter fun m => !m.2
  let pool := if polSteer d.policy && !d.fixed && !lit.isEmpty then lit else ms
  (bestBy (fun x y => counts.get x.1 0 < counts.get y.1 0) pool).map (·.1)

/-- The first spill candidate from number `next` on whose slot has room (R103), and where the search ended. -/
def Dispatch.spill (d : Dispatch) (counts : Tab Nat) (cands : List Cand) (next : Nat) : Option (Nat × Cand) × Nat :=
  let tries := (cands.zipIdx.drop next).takeWhile fun q => d.cap ≤ counts.get (d.primaryOf q.1.expert) 0
  match (cands.zipIdx.drop next).drop tries.length with
  | q :: _ => (some (q.2, q.1), q.2 + 1)
  | [] => (none, cands.length)

/-- What serving reads and changes: counters, demand, the next spill candidate, and choices with the
candidate each took. -/
structure ServeSt where
  counts : Tab Nat
  demand : Tab Nat
  next : Nat
  out : List (Choice × Option Cand)

def ServeSt.accept (s : ServeSt) (j outcome r slot : Nat) (x : Cand) : ServeSt :=
  let pos := s.counts.get slot 0
  { s with counts := s.counts.put slot (pos + 1),
           out := s.out ++ [(⟨BitVec.ofNat 4 j, BitVec.ofNat 4 outcome, BitVec.ofNat 5 r, x.expert, BitVec.ofNat 12 slot,
                              BitVec.ofNat 20 pos, 0⟩, some x)] }

def ServeSt.drop (s : ServeSt) (j : Nat) (x : Cand) : ServeSt :=
  { s with out := s.out ++ [(⟨BitVec.ofNat 4 j, 3, BitVec.ofNat 5 j, x.expert, 0xFFF, 0, 0⟩, none)] }

/-- One hand position (R103). -/
def Dispatch.position (d : Dispatch) (cands : List Cand) (s : ServeSt) (j : Nat) : ServeSt :=
  match cands[j]? with
  | none => s
  | some x =>
    let s := { s with demand := s.demand.upd x.expert.toNat 0 (· + 1) }
    let slot := d.primaryOf x.expert
    if s.counts.get slot 0 < d.cap then s.accept j 0 j slot x
    else if polPolicy d.policy = 1 then
      match d.spill s.counts cands s.next with
      | (some (r, y), n) => { s with next := n }.accept j 1 r (d.primaryOf y.expert) y
      | (none, n) => { s with next := n }.drop j x
    else if polPolicy d.policy = 2 then
      match d.moonPick s.counts x.expert with
      | some m => s.accept j 2 j m x
      | none => s.drop j x
    else s.drop j x

/-- Gate weights of the accepted candidates in position order (R105). -/
def weightsOf (norm : Bool) (transform : Nat) (xs : List Cand) : List Word :=
  let seqSum := fun (l : List Word) => l.foldl f32Add negZero
  if !norm then xs.map (·.p)
  else if transform = 1 then xs.map fun x => softmaxOf (xs.map (·.z)) seqSum x.z
  else
    let s := seqSum (xs.map (·.p))
    if f32Cmp 0 s 0 then xs.map fun _ => oneOver xs.length else xs.map fun x => f32Div x.p s

/-- Choices with their weights filled in: the accepted ones take the weights in order. -/
def fillWeights : List (Choice × Option Cand) → List Word → List Choice
  | [], _ => []
  | (c, none) :: rest, ws => c :: fillWeights rest ws
  | (c, some _) :: rest, w :: ws => { c with weight := w } :: fillWeights rest ws
  | (c, some _) :: rest, [] => c :: fillWeights rest []

/-- Serve one token (R103, R105). -/
def Dispatch.serve (d : Dispatch) (t : Token) : Dispatch × Served :=
  let s := (List.range d.k).foldl (d.position t.cands) ⟨d.counts, d.demand, d.k, []⟩
  let ws := weightsOf (polNorm d.policy) t.transform (s.out.filterMap (·.2))
  ({ d with counts := s.counts, demand := s.demand }, ⟨t.row, t.gidx, t.stamp, fillWeights s.out ws⟩)

/-- Serve tokens in order. -/
def Dispatch.serveAll (d : Dispatch) (ts : List Token) : Dispatch × List Served :=
  ts.foldl (fun st t => ((st.1.serve t).1, st.2 ++ [(st.1.serve t).2])) (d, [])

/-- The tokens up to the first whose global index does not rise, and whether there is one (R101). -/
def inOrder : Option Word → List Token → List Token × Bool
  | _, [] => ([], true)
  | prev, t :: rest =>
    let ok : Bool := match prev with
      | some g => decide (g.toNat < t.gidx.toNat)
      | none => true
    if ok then (t :: (inOrder (some t.gidx) rest).1, (inOrder (some t.gidx) rest).2) else ([], false)

/-- The service order of SCORE (R102). -/
def scoreOrder (ts : List Token) : List Token :=
  let key := fun (t : Token) => valOf ((t.cands.head?.map (·.key)).getD nan32)
  sortBy (fun x y => lt43 (key y) (key x) || (eq43 (key x) (key y) && x.gidx.toNat < y.gidx.toNat)) ts

/-! ### Records (R108, R126, R140) -/

/-- A hand trace entry (R108). -/
def Choice.trace (c : Choice) : List Byte :=
  toLe 8 (put 63 32 c.weight.toNat + put 31 28 c.outcome.toNat + put 27 23 c.rank.toNat + put 22 12 c.expert.toNat
    + put 11 0 c.slot.toNat)

def Choice.dropped (c : Choice) : Bool := c.outcome = 3
def Served.residual (s : Served) : Bool := s.choices.all Choice.dropped

/-- A return-map entry (R140 to R142). -/
def Served.entry (s : Served) (c : Choice) : List Byte :=
  if c.dropped then
    toLe 8 (put 63 48 s.stamp.toNat + put 47 32 0xFFFF + put 31 20 c.expert.toNat + b01 s.residual)
  else
    toLe 8 (put 63 48 s.stamp.toNat + put 47 32 (Fmt.bf16.round false (valOf c.weight)).1 + put 31 20 c.slot.toNat
      + put 19 0 c.position.toNat)

/-- Figures of a closed dispatch (R126). -/
structure Figures where
  accepted : Nat
  dropped : Nat
  spilled : Nat
  mooned : Nat
  residual : Nat
  maxExpert : Nat
  maxDemand : Nat
  full : Nat

def Dispatch.figures (d : Dispatch) : Figures :=
  let cs := d.served.flatMap (·.choices)
  let cnt := fun (n : Nat) => (cs.filter fun c => c.outcome.toNat = n).length
  let best := (List.range d.experts).foldl (fun m e => if d.demand.get m 0 < d.demand.get e 0 then e else m) 0
  { accepted := cs.length - cnt 3, dropped := cnt 3, spilled := cnt 1, mooned := cnt 2,
    residual := (d.served.filter Served.residual).length, maxExpert := best, maxDemand := d.demand.get best 0,
    full := ((List.range d.slots).filter fun s => d.counts.get s 0 = d.cap && d.cap != 0).length }

/-- Whether the skew alarm is met (R127). -/
def Dispatch.skewed (d : Dispatch) : Bool :=
  let f := d.figures
  polSkew d.policy != 0 && polSkew d.policy * d.tokens * d.k ≤ f.maxDemand * d.experts

/-- The 64 B dispatch summary (R126). -/
def Dispatch.summary (d : Dispatch) : List Byte :=
  let f := d.figures
  toLe 2 d.layer.toNat ++ toLe 2 d.binding.epoch.toNat ++ toLe 4 d.seq.toNat ++ toLe 4 d.tokens ++ toLe 4 d.cap
    ++ toLe 2 d.slots ++ toLe 2 d.moons.length ++ toLe 4 (d.tokens * d.k) ++ toLe 4 f.accepted ++ toLe 4 f.dropped
    ++ toLe 4 f.spilled ++ toLe 4 f.mooned ++ toLe 4 f.residual ++ toLe 2 f.full ++ toLe 2 f.maxExpert
    ++ toLe 4 f.maxDemand
    ++ [BitVec.ofNat 8 (b01 d.skewed + 2 * b01 d.cold + 4 * b01 (polScore d.policy) + 8 * b01 (polFreeze d.policy))]
    ++ List.replicate 11 0

/-! ### Opening and retiring dispatches (R87, R115) -/

/-- Whether a command in flight names a dispatch. -/
def Flight.names (f : Flight) (d : Dispatch) : Bool :=
  f.ctx = d.ctx && (match f.job with
    | .select x => x.layer = d.layer && x.seq = d.seq
    | .place x => x.layer = d.layer && x.seq = d.seq
    | .send x => x.layer = d.layer && x.seq = d.seq
    | .combine x => x.layer = d.layer && x.seq = d.seq
    | _ => false)

/-- A packet that waits in a ring queue for a dispatch. -/
def Egress.of' (e : Egress) (d : Dispatch) : Bool :=
  e.ctx = some d.ctx && e.k.hdr.part = d.part && e.k.hdr.layer = d.layer && e.k.hdr.seq = seqLow d.seq

/-- A dispatch owes or awaits nothing in the tally unit or the exchange. -/
def Blk.quiet (b : Blk) (d : Dispatch) : Bool :=
  !d.tallyHeld && (d.sendFmt.isNone || (d.allEnded && d.groups.all fun g => g.ready.isEmpty))
    && !(b.exch.rings.toList.any fun q => q.any fun e => e.of' d)

/-- Whether some command in flight names a dispatch: of two that a RESET gave one number, a command names the one that was
the last when it issued (R115, R123). -/
def Blk.named (b : Blk) (d : Dispatch) : Bool :=
  b.flights.any fun f => f.names d && !(b.disps.any fun y =>
    y.ctx = d.ctx && y.layer = d.layer && y.seq = d.seq && d.openIx < y.openIx && y.openAt ≤ f.issued)
    && d.openAt ≤ f.issued

/-- A dispatch that has closed and that no command in flight names gives up its reference on the SLOT bank (R87);
the view stays with it. One that its context has followed by a later one of the layer is retired as well
(R115), but for what it still owes the exchange. -/
def Blk.retireDisps (b : Blk) : Blk :=
  let free := fun (d : Dispatch) => !d.isOpen && !b.named d
  let gone := fun (d : Dispatch) =>
    free d && (match b.lastDisp d.ctx d.layer with
      | some x => x.openIx != d.openIx
      | none => true)
  let c := ((b.disps.filter fun d => free d && d.refHeld).map (·.binding)).foldl Blk.dropRef b
  { c with disps := (c.disps.filter fun d => !gone d || !c.quiet d).map fun d =>
      if free d then { d with refHeld := false, moons := if gone d then [] else d.moons } else d }

/-- The view of a dispatch that opens now (R109, R113). -/
def Eph.viewNow (x : Eph) : List Moon :=
  ((x.views.filter fun v => v.1 ≤ x.opens).map (·.2)).reverse.headD []

/-- A partition is in fixed-frequency mode (18 R456, R457). -/
def Blk.fixedMode (b : Blk) : Bool := parts.any fun n => b.partValid n && bit (b.reg 0x11C n.toNat).toNat 31

/-- The OP a partition names for its current phase (18 R456). -/
def Blk.preferredOp (b : Blk) (n : PartId) : Nat :=
  let v := b.reg 0x11C n.toNat
  let ph := fld v 25 24
  if ph = 0 then fld v 2 0 else if ph = 1 then fld v 6 4 else if ph = 2 then fld v 10 8 else fld v 14 12

/-- The target OP (18 R456); a part that lost its boost stays below OP4 (19 R486), and bring-up runs at OP0 (21 R528). -/
def targetOp (a : Aon) (b : Blk) : Nat :=
  let m := maxL ((parts.filter b.partValid).map b.preferredOp)
  let cap := if bit (a.reg 0x618).toNat 1 && !b.health.boostOff && !b.fixedMode then 4 else 3
  if 6 ≤ b.start.stage.toNat then Nat.min cap m else 0

/-- The die is shaded: the governor holds it below its target point (R116). -/
def shadedDies (a : Aon) (b : Blk) : BitVec 3 :=
  BitVec.ofNat 3 (maskOf ((List.range 3).filter fun d => (a.gov.dieOp.rd (BitVec.ofNat 2 d)).toNat < targetOp a b))

/-- Capacity of a dispatch (R89). -/
def capacity (td k slots cf : Nat) : Nat := Nat.min td (ceilDiv (cf * td * k) (64 * slots))

/-- Change the dispatch of a context, layer and number. -/
def Blk.modDisp (b : Blk) (c : CtxId) (l : Layer) (seq : Word) (f : Dispatch → Dispatch) : Blk :=
  { b with disps := modLast (fun d => d.ctx = c && d.layer = l && d.seq = seq) f b.disps }

/-- A FIRST or ONLY `select` opens a dispatch (R87, R88, R117, R130).
DESIGN CHOICE: the open dispatch holds a reference of its own (log 71). -/
def Blk.openDispatch (a : Aon) (b : Blk) (c : CtxId) (l : Layer) (s : SelIn) (bs : List Byte) : Blk :=
  let x := b.ctx c
  let h := b.eph x.part l
  let prim := slotEnts bs
  let moons := if polPolicy s.policy = 2 then h.viewNow else []
  let bind := b.bindNow l 1
  let d : Dispatch :=
    { ctx := c, part := x.part, layer := l, seq := h.seq, isOpen := true, k := s.k, td := s.td,
      cap := capacity s.td s.k (prim.length + moons.length) (polCf s.policy), openIx := h.opens, openAt := b.cycle.toNat, policy := s.policy,
      shaded := shadedDies a b, fixed := bit (b.reg 0x11C x.part.toNat).toNat 31, map := s.map.getD Desc.zero,
      candBuf := s.cand, experts := prim.length, binding := bind, refHeld := true, primary := prim, members := slotMembers bs,
      moons := moons, counts := [], demand := [], tokens := 0, lastGidx := none, queued := [], served := [],
      ledgerHeld := true, tallyHeld := true, h := [], base := [], pendRows := [], groupRow := 0, selectsLeft := 0,
      groups := [], lastPlaced := false, placing := false, placeDone := false, sendFmt := none, sendBytes := 0,
      credits := [], claims := [], diverted := [], aborted := false, cold := !h.warm }
  let b := (b.takeRef bind).setEph x.part l { h with seq := h.seq + 1, opens := h.opens + 1 }
  ({ b with disps := b.disps ++ [d] } : Blk).retireDisps

/-! ### `select` -/

/-- NaN weights of a token whose accepted candidates carry none: the weights of NORM, where no operand is a NaN (R39). -/
def nanWeights (d : Dispatch) (xs : List Token) (served : List Served) : Nat :=
  if !polNorm d.policy then 0
  else sumL ((xs.zip served).map fun q =>
    let mine := q.2.choices.filter fun c => !c.dropped
    let operand := fun (c : Choice) => ((q.1.cands.find? fun x => x.expert = c.expert).map fun x =>
      if q.1.transform = 1 then x.z else x.p).getD 0
    if mine.any fun c => isNaN32 (operand c) then 0 else (mine.filter fun c => isNaN32 c.weight).length)

/-- The effects of the rows a `select` serves and of the rows it reads (R102, R107, R108, R139). -/
def Blk.selFx (b : Blk) (n : PartId) (s : SelIn) (d : Dispatch) (new : List Token) (sc : Scoring)
    (served : List Served) : List Fx :=
  let values := match s.values with
    | some v => (sc.values.take new.length).zipIdx.flatMap fun q => b.storeRow n v q.2 (encodeRow v.fmt false q.1).1
    | none => []
  let cand := match d.candBuf with
    | some cb => new.flatMap fun t =>
        b.storeFlat n cb (t.row.toNat * 16 * (s.c + 1)) (b.freeBytes (16 * (s.c + 1)))
    | none => []
  let map := served.flatMap fun r => r.choices.flatMap fun c =>
    b.storeFlat n d.map (8 * (r.row.toNat * d.k + c.j.toNat)) (r.entry c)
  let trace := match s.trace with
    | some t => b.storeFlat n t 0 (served.flatMap fun r => r.choices.flatMap Choice.trace)
    | none => []
  values ++ cand ++ map ++ trace

/-- The `select` of a `score` or `hash` that has just issued takes its tokens (R101 to R103). It issues in the cycle and
in the slot of its pair (R98, R311); a row out of order ends it there (R91). -/
def Blk.issueSelect (a : Aon) (b : Blk) (p : Site) (f : RFields) (sc : Scoring) (at' : Nat) : Blk :=
  let x := b.ctx p.ctx
  let l := sc.layer
  let s := b.selIn x p l f
  let w := encR 0x28 f
  if b.selWaits x s l then b.hold p
  else match lowest (b.selFaults x s l sc.tokens.length sc.e) with
    | some e => b.fault p (b.que p).pc w e
    | none =>
      match (if s.first then b.bound (b.bindNow l 1) else .ok []) with
      | .error e => b.fault p (b.que p).pc w e
      | .ok bs =>
        let writes := b.selWrites x.part s
        let reads := b.selReads x.part s
        let ledger := s.ledger sc.hash sc.e
        let b := if s.first then b.openDispatch a p.ctx l s bs else b
        match b.openDisp p.ctx l with
        | none => b.fault p (b.que p).pc w fBadDispatch
        | some d =>
          let new := sc.tokens.zipIdx.map fun q => { q.1 with row := BitVec.ofNat 20 (d.tokens + q.2) }
          let byScore := polScore d.policy
          let kept := if byScore then (new, true) else inOrder d.lastGidx new
          let todo := if byScore then (if s.last then scoreOrder (d.queued ++ new) else []) else kept.1
          let r := d.serveAll todo
          let d' := { r.1 with
            tokens := d.tokens + new.length, lastGidx := (new.getLast?.map (·.gidx)).or d.lastGidx,
            queued := if byScore then d.queued ++ new else [], served := d.served ++ r.2,
            selectsLeft := d.selectsLeft + 1 }
          let nans := nanWeights d todo r.2
          let fx := [readOther 0 p.ctx, readOther 1 p.ctx] ++ b.selFx x.part s d' (if byScore then new else kept.1) sc r.2
            ++ (if nans = 0 then [] else [.count Cnt.arithNan nans])
            ++ (if kept.2 then [] else [.fault (flt 0x09)])
            ++ (match s.summary with
                | some m => if s.last then b.storeFlat x.part m 0 d'.summary else []
                | none => [])
          let b : Blk := { b with disps := modFirst (fun x => x.ctx = p.ctx && x.layer = l && x.isOpen) (fun _ => d') b.disps }
          let n : Plan := { ledger := ledger, reads := reads, writes := writes, binds := b.dispBinds d ++ [sc.binding],
                            tag := d.seq, job := .select ⟨l, d.seq, s.last, polNorm d.policy && todo.any (·.transform = 1), r.2⟩, fx := fx, act := Blk.draw,
                            at' := some at' }
          (b.start' p w f.g .other n).modQue p fun v => { v with pairOpen := false }

/-- The `score` or `hash` that the queue has just issued. -/
def Blk.pairMate (b : Blk) (p : Site) : Option Flight :=
  b.flights.find? fun x => x.ctx = p.ctx && x.queue = p.queue && x.qidx = (b.que p).pc - 1

def execSelect (p : Site) (f : RFields) (s : State) : Host.Outcome State Fault Refusal :=
  s.block fun a b =>
    let u := b.que p
    if !b.open a p then b
    else if !u.pairOpen then b.fault p u.pc (encR 0x28 f) fBadOperand
    else match b.pairMate p with
      | some fl =>
        match fl.job with
        | .score sc => b.issueSelect a p f sc fl.issued
        | _ => b
      | none => b

/-! ### Completion of a `select`: the group, and the close of a dispatch (R117, R126 to R128, R131) -/

/-- The dispatch closes: its ledger frees, its figures are counted, the observation starts (R88, R117, R122).
DESIGN CHOICE: HAND_SKEW counts closes that raise SKEW_ALARM (log 71). -/
def Blk.closeDispatch (b : Blk) (d : Dispatch) : Blk :=
  let g := d.figures
  let h := b.eph d.part d.layer
  let obs : Obs := { policy := d.policy, t := d.tokens, k := d.k, openIx := d.openIx, demand := d.demand,
                     received := h.received, primary := d.primary }
  let b := b.modDisp d.ctx d.layer d.seq fun d => { d with isOpen := false, ledgerHeld := false }
  let b := b.setEph d.part d.layer { h with observing := h.observing ++ [obs], received := [] }
  let b := if d.skewed then
      (b.addCtx d.ctx Cnt.skew 1).ctxEvent 0x82 d.ctx 0 g.maxDemand d.seq.toNat
        (BitVec.ofNat 32 (d.layer.toNat + g.maxExpert * 2 ^ 16))
    else b
  ((((b.addCtx d.ctx Cnt.dropped g.dropped).addCtx d.ctx Cnt.spilled g.spilled).addCtx d.ctx Cnt.mooned g.mooned).addCtx
    d.ctx Cnt.residual g.residual)

/-- A `select` completes: its choices join the group, and a LAST or ONLY closes the dispatch. -/
def Blk.finishSelect (b : Blk) (c : CtxId) (x : Selecting) : Blk :=
  let cs := (x.served.flatMap (·.choices)).filter fun c => !c.dropped
  let b := b.modDisp c x.layer x.seq fun d =>
    { d with selectsLeft := d.selectsLeft - 1, pendRows := d.pendRows ++ x.served,
             h := cs.foldl (fun t c => t.upd c.slot.toNat 0 (· + 1)) d.h }
  match x.last, b.dispOf c x.layer x.seq with
  | true, some d => b.closeDispatch d
  | _, _ => b

/-! ### `sample` (R271 to R276) -/

/-- A parameter record in range (R272): rtau, top_p, top_k. -/
def sampleParams (bs : List Byte) : Option (Word × Word × Nat) :=
  let rtau := BitVec.ofNat 32 (leNat (bs.take 4))
  let topP := BitVec.ofNat 32 (leNat ((bs.drop 4).take 4))
  let topK := leNat ((bs.drop 8).take 2)
  if finite32 rtau false && finite32 topP true && f32Cmp 3 topP one32 && topK ≤ 1024 && (bs.drop 10).all (· == 0)
  then some (rtau, topP, topK) else none

/-- D of a row: 16 fixed partials under FAST, element order under ORDERED (R47, R273). -/
def sampleSum (ord : Bool) (es : List Word) : Word :=
  if ord then orderedSum es
  else orderedSum ((List.range 16).map fun r => (strided 16 r es).foldl f32Add negZero)

/-- The 16 B output record (R274). -/
def sampleRecord (token rank flags : Nat) (full kept : Word) : List Byte :=
  toLe 4 token ++ toLe 2 rank ++ toLe 2 flags ++ toLe 4 full.toNat ++ toLe 4 kept.toNat

/-- One row's draw (R273): its record, and whether TRUNC was set. -/
def sampleRow (ord : Bool) (key : BitVec 128) (g : Word) (x : List Word) (rtau topP : Word) (topK : Nat) :
    List Byte × Bool :=
  let order := fun (l : List Word) => sortBy (fun (p q : Word × Nat) => lt43 (valOf q.1) (valOf p.1)) l.zipIdx
  let greedy := f32Cmp 0 rtau 0
  if x.all isNaN32 then (sampleRecord 0 0 (4 + b01 greedy) nan32 nan32, false)
  else if greedy then (sampleRecord (((order x).head?.map (·.2)).getD 0) 0 1 0 0, false)
  else
    let u := x.map fun v => f32Mul v rtau
    let k := if topK = 0 then 1024 else topK
    let cand := (order u).take k
    let real := u.filter fun v => !isNaN32 v
    let m := real.foldl (fun a z => if lt43 (valOf a) (valOf z) then z else a) (real.headD nan32)
    let top := m = 0x7F800000
    let bottom := m = 0xFF800000
    let num := fun (v : Word) =>
      if isNaN32 v then (0 : Word) else if top then (if v = m then one32 else 0) else if bottom then one32
      else exp32 (f32Sub v m)
    let ofN := fun (n : Nat) => toF32 (.fin false n 0)
    let d := if top then ofN (u.filter fun v => v == m).length else if bottom then ofN real.length
      else sampleSum ord (u.map num)
    let es := cand.map fun c => num c.1
    let cums := es.foldl (fun (st : Word × List Word) e => (f32Add st.1 e, st.2 ++ [f32Add st.1 e])) (negZero, [])
    let t := f32Mul topP d
    let hit := findIdx (fun c => f32Cmp 5 c t) cums.2
    let r := hit.getD (cand.length - 1)
    let cr := cums.2.getD r 0
    let w := mix key 0xF2000000 (BitVec.ofNat 64 g.toNat)
    let draw := (unit23 w).mul (valOf cr)
    let rs := (findIdx (fun c => (valOf c).cmp draw == .gt) (cums.2.take (r + 1))).getD r
    let e := es.getD rs 0
    let trunc := topK = 0 && hit.isNone
    (sampleRecord ((cand[rs]?.map (·.2)).getD 0) rs (2 * b01 trunc + 8 * b01 top) (f32Sub (log32 e) (log32 d))
      (f32Sub (log32 e) (log32 cr)), trunc)

/-- The effects of a `sample`, row by row: an error ends it at that row. -/
def Blk.sampleFx (b : Blk) (x : Ctx) (logits params gidx out : Desc) : List Fx :=
  (List.range logits.rows).flatMap fun i =>
    match b.loadFlat x.part params (16 * i) 16 with
    | .error e => [.fault e]
    | .ok ps =>
      match sampleParams ps with
      | none => [.fault fBadOperand]
      | some (rtau, topP, topK) =>
        match b.rowWords x.part logits i, b.loadFlat x.part gidx (4 * i) 4 with
        | .error e, _ => [.fault e]
        | _, .error e => [.fault e]
        | .ok row, .ok g =>
          let r := sampleRow (ordered (b.arith x.part)) x.key (BitVec.ofNat 32 (leNat g)) row rtau topP topK
          b.storeFlat x.part out (16 * i) r.1 ++ if r.2 then [.count Cnt.sampleTrunc 1] else []

/-- The passes of a `sample`, row by row: its work tiles end with them (R275). -/
def Blk.samplePasses (b : Blk) (x : Ctx) (logits params : Desc) : List Nat :=
  let v := logits.n0
  (List.range logits.rows).flatMap fun i =>
    let k := match b.loadFlat x.part params (16 * i) 16 with
      | .ok ps => leNat ((ps.drop 8).take 2)
      | .error _ => 0
    [ceilDiv v 128, ceilDiv v 256, ceilDiv (if k = 0 then 1024 else k) 16 + 96]

/-- Ledger of a `sample` (R275). -/
def Blk.sampleLedger (b : Blk) (x : Ctx) (logits params : Desc) : Nat := sumL (b.samplePasses x logits params) + 32

/-- A func- or norm-class command, or a `select`, in flight, or one that issues with its `score` (R259, R98). -/
def Blk.pipesBusy (b : Blk) : Bool :=
  b.pairStands || b.flights.any fun f =>
    let op := opcodeOf f.word
    op = 0x28 || (0x60 ≤ op && op ≤ 0x6B) || (0x70 ≤ op && op ≤ 0x74)

def Blk.sampleReq (b : Blk) (p : Site) (f : RFields) : Req :=
  let x := b.ctx p.ctx
  Req.mk (encR 0x29 f) f.g .other
      (b.badD x f.a needR || b.badD x f.b needR || b.badD x f.c needR || b.badD x f.d needW
        || anyUsed [f.e, f.f, f.gg, f.h, f.i] || f.m != 0)
      ([f.a, f.b, f.c, f.d].flatMap regD)
      fun b x _ =>
        let lg := (x.descF f.a).getD Desc.zero
        let pr := (x.descF f.b).getD Desc.zero
        let gi := (x.descF f.c).getD Desc.zero
        let out := (x.descF f.d).getD Desc.zero
        { ledger := b.sampleLedger x lg pr, wait := b.pipesBusy || b.seeding p.ctx, units := [.hand, .pipes], tile := b.samplePasses x lg pr,
          faults := (if lg.n0 < 2 || 262144 < lg.n0 || pr.covers < 16 * lg.rows || out.covers < 16 * lg.rows
              then [fBadShape] else [])
            ++ idxFaults (some gi) lg.rows
            ++ (if lg.fmt = 4 || lg.fmt = 0 || lg.fmt = 1 then [] else [fBadFormat]),
          reads := b.rangeOf x.part lg ++ b.rangeOf x.part pr ++ b.rangeOf x.part gi, writes := b.rangeOf x.part out,
          fx := b.sampleFx x lg pr gi out, energy := b.coef 3 * lg.elems }

def execSample (p : Site) (f : RFields) (s : State) : Host.Outcome State Fault Refusal :=
  s.block fun a b => b.issueReq a p (b.sampleReq p f)

end Sys2Proof.Machine
end

