-- ==== Sys2Proof/Machine/Tally.lean ====
section
/-! DEFINITION. Tally: `place`, `count` and `scan` (05 R131 to R138), `send` (05 R150 to R154) and the ring
queues of the deal egress buffer (06 R173 to R180, R559). -/

namespace Sys2Proof.Machine
open Sys2Proof

/-- Rows per group of a dispatch and hand positions: R × k. -/
def Dispatch.openRows (d : Dispatch) : Nat := d.pendRows.length

/-! ### `place` (R132 to R136) -/

/-- A deal-list entry's bytes (R133). -/
def Deal.bytesOf (x : Deal) : List Byte :=
  toLe 8 (put 63 60 x.hand.toNat + put 59 40 x.row.toNat + put 31 20 x.slot.toNat + put 19 0 x.position.toNat)

/-- Start of every slot in the deal list: the exclusive prefix sum of the histogram (R132). -/
def Dispatch.starts (d : Dispatch) : List Nat × Nat :=
  (List.range d.slots).foldl (fun st s => (st.1 ++ [st.2], st.2 + d.h.get s 0)) ([], 0)

/-- The deal list of the group, sorted by slot and position (R132). -/
def Dispatch.dealList (d : Dispatch) : List Deal :=
  let all := d.pendRows.flatMap fun r =>
    (r.choices.filter fun c => !c.dropped).map fun c => (⟨c.j, r.row, c.slot, c.position⟩ : Deal)
  sortBy (fun x y => x.slot.toNat < y.slot.toNat || (x.slot = y.slot && x.position.toNat < y.position.toNat)) all

/-- The slot summary (R135). -/
def Dispatch.slotSummary (d : Dispatch) : List Byte :=
  d.starts.1.zipIdx.flatMap fun p => toLe 4 (d.h.get p.2 0) ++ toLe 4 p.1

/-- The dispatch as its `place` issues: the group is cut off, its bases advance (R131, R132). -/
def Dispatch.placed (d : Dispatch) : Dispatch :=
  let g : Group := { r0 := d.groupRow, rows := d.openRows, ag := d.starts.2, last := !d.isOpen, sent := [], ended := false,
                     ready := [] }
  { d with base := (List.range d.slots).foldl (fun t s => if d.h.get s 0 = 0 then t else t.upd s 0 (· + d.h.get s 0)) d.base,
           h := [], pendRows := [], groupRow := d.groupRow + d.openRows, groups := d.groups ++ [g],
           lastPlaced := d.lastPlaced || !d.isOpen, placing := true, placeDone := false }

/-- The ledger of a `place` (R136).
DESIGN CHOICE: a group with rows but no accepted choice is not empty (log 71). -/
def Dispatch.placeLedger (d : Dispatch) : Nat := ceilDiv d.slots 32 + ceilDiv (d.openRows * d.k) 32

/-- `place` (R134 to R137), and the slot summary of an empty group. DESIGN CHOICE (log 71). -/
def Blk.placeReq (b : Blk) (p : Site) (f : RFields) : Req :=
  let x := b.ctx p.ctx
  Req.mk (encR 0x30 f) f.g .other
      (badE f.a || b.badLayer x f.a || b.badD x f.b needW || b.badD x f.c optW
        || anyUsed [f.d, f.e, f.f, f.gg, f.h, f.i] || f.m != 0)
      ([regEf f.a] ++ regD f.b ++ regD f.c)
      fun b x _ =>
        let l := x.layerE f.a
        let list := (x.descF f.b).getD Desc.zero
        let die := if list.isDie then [fBadOperand] else []
        match b.lastDisp p.ctx l with
        | none => { units := [.tally], faults := fBadDispatch :: die }
        | some d =>
          if !d.tallyHeld || d.lastPlaced then { units := [.tally], faults := fBadDispatch :: die }
          else
            let summary := x.descF f.c
            let short := list.covers < 8 * d.openRows * d.k || 256 ≤ d.groups.length
              || (match summary with
                  | some m => m.covers < 8 * d.slots
                  | none => false)
            { ledger := d.placeLedger, wait := d.selectsLeft != 0, units := [.tally], binds := b.dispBinds d, tag := d.seq,
              faults := die ++ if short then [fBadShape] else [],
              writes := b.rangesO x.part [some list, summary],
              job := .place ⟨l, d.seq, !d.isOpen, d.groupRow, d.openRows, d.starts.2⟩,
              fx := readOther 2 p.ctx :: b.storeFlat x.part list 0 (d.dealList.flatMap Deal.bytesOf)
                ++ (match summary with
                    | some m => b.storeFlat x.part m 0 d.slotSummary
                    | none => []),
              act := fun b => b.modDisp p.ctx l d.seq Dispatch.placed }

def execPlace (p : Site) (f : RFields) (s : State) : Host.Outcome State Fault Refusal :=
  s.block fun a b => b.issueReq a p (b.placeReq p f)

/-- A `place` completes: its group may be sent, and the last place frees the tally set (R130). -/
def Blk.finishPlace (b : Blk) (c : CtxId) (x : Placing) : Blk :=
  b.modDisp c x.layer x.seq fun d =>
    { d with placing := false, placeDone := true, tallyHeld := d.tallyHeld && !x.last }

/-! ### `count` and `scan` (R138) -/

/-- Counts of B bins, then the number of indices outside them. -/
def countBins (n : Nat) (ix : List Word) : List Word :=
  let inRange := ix.filter fun w => 0 ≤ sInt w && sInt w < (n : Int)
  (List.range n).map (fun i => BitVec.ofNat 32 (inRange.filter fun w => w.toNat = i).length)
    ++ [BitVec.ofNat 32 (ix.length - inRange.length)]

/-- Exclusive prefix sums modulo 2^32, then the total. -/
def scanSums (l : List Word) : List Word :=
  (l.foldl (fun (st : List Word × Word) v => (st.1 ++ [st.2], st.2 + v)) ([], 0)) |> fun st => st.1 ++ [st.2]

/-- Effects of writing words in element order, or the failure of a read. -/
def Blk.storeResult (b : Blk) (n : PartId) (d : Desc) (r : Except Flt (List Word)) : List Fx :=
  match r with
  | .error e => [.fault e]
  | .ok ws => b.storeElems n d false ws

/-- `count` (R138): n is its index operand's element count. DESIGN CHOICE (log 71). -/
def Blk.countReq (b : Blk) (p : Site) (f : RFields) : Req :=
  let x := b.ctx p.ctx
  Req.mk (encR 0x31 f) f.g .other
      (b.badD x f.a needR || b.badD x f.b needW || anyUsed [f.d, f.e, f.f, f.gg, f.h, f.i] || f.m != 0)
      (regD f.a ++ regD f.b ++ [regS p f.c])
      fun b x _ =>
        let ix := (x.descF f.a).getD Desc.zero
        let dst := (x.descF f.b).getD Desc.zero
        let bins := (x.s p.queue f.c).toNat
        let n := ix.elems
        { ledger := ceilDiv bins 32 + ceilDiv n 32, units := [.tally],
          faults := (if ix.fmt != 8 || dst.fmt != 8 then [fBadFormat] else [])
            ++ (if bins = 0 || 4096 < bins || dst.elems < bins + 1 then [fBadShape] else []),
          reads := b.rangeOf x.part ix, writes := b.rangeOf x.part dst,
          fx := b.storeResult x.part dst ((b.elemWords x.part ix n).map (countBins (Nat.min bins 4096))) }

def execCount (p : Site) (f : RFields) (s : State) : Host.Outcome State Fault Refusal :=
  s.block fun a b => b.issueReq a p (b.countReq p f)

/-- `scan` (R138): B is its source's element count. DESIGN CHOICE (log 71). -/
def Blk.scanReq (b : Blk) (p : Site) (f : RFields) : Req :=
  let x := b.ctx p.ctx
  Req.mk (encR 0x32 f) f.g .other
      (b.badD x f.a needR || b.badD x f.b needW || anyUsed [f.c, f.d, f.e, f.f, f.gg, f.h, f.i] || f.m != 0)
      (regD f.a ++ regD f.b)
      fun b x _ =>
        let src := (x.descF f.a).getD Desc.zero
        let dst := (x.descF f.b).getD Desc.zero
        let bins := src.elems
        { ledger := ceilDiv bins 32, units := [.tally],
          faults := (if src.fmt != 8 || dst.fmt != 8 then [fBadFormat] else [])
            ++ (if bins = 0 || 4096 < bins || dst.elems < bins + 1 then [fBadShape] else []),
          reads := b.rangeOf x.part src, writes := b.rangeOf x.part dst,
          fx := if 4096 < bins then [] else b.storeResult x.part dst ((b.elemWords x.part src bins).map scanSums) }

def execScan (p : Site) (f : RFields) (s : State) : Host.Outcome State Fault Refusal :=
  s.block fun a b => b.issueReq a p (b.scanReq p f)

/-! ### Ring queues (06 R173, R174, R177, R559) -/

def ringCap : Nat := 229376

/-- Whether a ring queue has room for bytes. -/
def Blk.ringRoom (b : Blk) (q : BitVec 3) (n : Nat) : Bool := b.ringBytes q + n ≤ ringCap

def ringOfInst (i : InstId) : BitVec 3 := BitVec.ofNat 3 (posOf i)

/-- Words of the deal egress buffer that belong to one ring queue. -/
def ringWords : Nat := ringCap / 4

/-- Whether a word of the deal egress buffer holds part of a packet of ring queue q. -/
def Egress.holds (e : Egress) (q : BitVec 3) (w : Nat) : Bool :=
  w / ringWords = q.toNat && (w % ringWords + ringWords - e.place) % ringWords < ceilDiv e.k.size 4

/-- A packet goes to the end of its ring queue, into the words that follow those of the packet before it. -/
def Blk.enqueue (b : Blk) (c : Option CtxId) (k : Packet) : Blk :=
  let q := ringOfInst k.hdr.dst
  let place := match (b.exch.rings.rd q).getLast? with
    | some e => (e.place + ceilDiv e.k.size 4) % ringWords
    | none => 0
  let e : Egress := ⟨c, k, place⟩
  { b with exch := { b.exch with rings := b.exch.rings.wr q (b.exch.rings.rd q ++ [e]) }, mem := b.mem.freshen 20 (e.holds q) }

/-- Key of an owner and one of its dies. -/
def odKey (i : InstId) (die : BitVec 2) : Nat := i.toNat * 4 + die.toNat

/-- The OPEN for a member (R167, R176). -/
def Blk.openPkt (b : Blk) (d : Dispatch) (m : InstId) : Packet :=
  ⟨{ b.header 4 m 3 d.part d.layer (seqLow d.seq) with
      position := BitVec.ofNat 20 d.sendBytes, gidx := BitVec.ofNat 32 d.cap,
      hand := BitVec.ofNat 4 (d.sendFmt.getD 0).toNat }, []⟩

/-- Put into the ring queues the OPENs for which there is room; those that find none stay. -/
def Blk.emitOpens (b : Blk) (d : Dispatch) : List InstId → Blk × List InstId
  | [] => (b, [])
  | m :: rest =>
    if b.ringRoom (ringOfInst m) 32 then (b.enqueue (some d.ctx) (b.openPkt d m)).emitOpens d rest
    else
      let r := b.emitOpens d rest
      (r.1, m :: r.2)

/-! ### `send` (05 R150 to R154) -/

/-- The layouts of R154: whether a layout suits a format. -/
def layoutFits (layout : Nat) (fmt : Nat) : Bool :=
  if layout = 0 then true else if layout ≤ 2 then fmtBlock fmt else if layout = 3 then fmt = 0 || fmt = 1 else false

/-- A row in a layout, from its stored bytes (R154). -/
def layRow (layout n : Nat) (bs : List Byte) : List Byte :=
  if layout = 1 then bs.drop n ++ bs.take n
  else if layout = 2 then
    (List.range (n / 32)).flatMap fun i => [bs.getD (n + i) 0] ++ (bs.drop (32 * i)).take 32
  else if layout = 3 then
    (pieces 4 bs).flatMap fun w => if w.length = 4 then w.drop 2 ++ w.take 2 else w
  else bs

/-- Bytes per cycle of a `send` (R152). -/
def Desc.sendWidth (d : Desc) : Nat := if d.isScratch then Nat.min 512 d.width else 400

/-- A dispatch's most recent group, and its number. -/
def Dispatch.lastGroup (d : Dispatch) : Option (Nat × Group) := (d.groups.getLast?).map fun g => (d.groups.length - 1, g)

/-- The send in flight of a queue. -/
def Blk.sendOf (b : Blk) (p : Site) : Option (Flight × Sending) :=
  (b.flights.find? fun f => f.ctx = p.ctx && f.queue = p.queue && (match f.job with
      | .send _ => true
      | _ => false)).bind fun f => match f.job with
    | .send x => some (f, x)
    | _ => none

/-- Replace the job of a command in flight. -/
def Blk.setJob (b : Blk) (f : Flight) (j : Job) : Blk :=
  { b with flights := b.flights.map fun x =>
      if x.ctx = f.ctx && x.queue = f.queue && x.qidx = f.qidx then { x with job := j } else x }

/-- Whether a slot is a moon whose choices go to the primary: its staging failed, or it is stale (04 R114;
15 R398). -/
def Dispatch.diverts (d : Dispatch) (slot : Nat) : Bool :=
  d.experts ≤ slot && (match d.moons[slot - d.experts]? with
    | some m => m.failed || m.stale
    | none => false)

/-- Whether a slot is a moon whose staging is not complete: its packets wait (04 R113). -/
def Dispatch.staging (d : Dispatch) (slot : Nat) : Bool :=
  d.experts ≤ slot && (match d.moons[slot - d.experts]? with
    | some m => !m.failed && !m.stale && !m.staged
    | none => false)

/-- Destination of a slot (06 R165): owner, die, local index or berth, expert, moon. -/
def Dispatch.dest (b : Blk) (d : Dispatch) (slot : Nat) (divert : Bool) : InstId × BitVec 2 × BitVec 11 × BitVec 11 × Bool :=
  let prim := fun (i : Nat) => match d.primary[i]? with
    | some e => (e.owner, e.die, e.local', e.expert, false)
    | none => (b.self, 0, 0, 0, false)
  if slot < d.experts then prim slot
  else match d.moons[slot - d.experts]? with
    | some m => if divert then prim (d.primaryOf m.expert)
        else (b.self, m.die, BitVec.ofNat 11 m.berth.toNat, m.expert, true)
    | none => prim 0

/-- A deal-list entry from its bytes, and its reserved bits (R133). -/
def Deal.of (bs : List Byte) : Deal × Nat :=
  let v := leNat bs
  (⟨BitVec.ofNat 4 (field v 63 60), BitVec.ofNat 20 (field v 59 40), BitVec.ofNat 12 (field v 31 20), BitVec.ofNat 20 (field v 19 0)⟩,
   field v 39 32)

/-- The served row of a dispatch, for its global index and stamp. -/
def Dispatch.rowOf (d : Dispatch) (row : BitVec 20) : Word × BitVec 16 :=
  match d.served.find? fun r => r.row = row with
  | some r => (r.gidx, r.stamp)
  | none => (0, 0)

/-- The DEAL of an entry (R150; 06 R166). -/
def Blk.dealPkt (b : Blk) (d : Dispatch) (group layout : Nat) (e : Deal) (payload : List Byte) : Packet :=
  let aim := d.dest b e.slot.toNat (d.diverts e.slot.toNat)
  let r := d.rowOf e.row
  ⟨{ b.header 1 aim.1 aim.2.1 d.part d.layer (seqLow d.seq) with
      fmt := BitVec.ofNat 3 layout, moon := aim.2.2.2.2, bytes := BitVec.ofNat 17 payload.length, slot := e.slot,
      position := e.position, expert := aim.2.2.2.1, localIx := aim.2.2.1, row := e.row, hand := e.hand,
      group := BitVec.ofNat 8 group, gidx := r.1, stamp := r.2, crc := crc32c payload }, payload⟩

/-- The checks of an entry (R150). -/
def Sending.entryOk (x : Sending) (d : Dispatch) (e : Deal) (rsv : Nat) : Bool :=
  e.hand.toNat < d.k && rsv = 0 && e.slot.toNat < d.slots && x.r0 ≤ e.row.toNat && e.row.toNat < x.r0 + x.rows

/-- The next DEAL of a send, or the fault at its entry. -/
def Blk.nextDeal (b : Blk) (d : Dispatch) (x : Sending) (i : Nat) : Except Flt Packet :=
  match b.loadFlat d.part x.list (8 * i) 8 with
  | .error e => .error e
  | .ok bs =>
    let (e, rsv) := Deal.of bs
    if !x.entryOk d e rsv then .error fBadOperand
    else match b.rowBytes d.part x.tokens (e.row.toNat - x.r0) with
      | .error e => .error e
      | .ok row => .ok (b.dealPkt d x.group x.layout.toNat e (layRow x.layout.toNat x.tokens.n0 row))

/-- A send emits its next packet where its ring queue has room (R174). -/
def Blk.emitNext (b : Blk) (p : Site) : Blk :=
  match b.sendOf p with
  | none => b
  | some (f, x) =>
    match b.dispOf p.ctx x.layer x.seq with
    | none => b
    | some d =>
      if f.suspended.isSome || !(b.ctx p.ctx).alive then b
      else if !x.opens.isEmpty then
        let r := b.emitOpens d x.opens
        r.1.setJob f (.send { x with opens := r.2 })
      else match x.todo with
        | [] => b
        | i :: rest =>
          match b.nextDeal d x i with
          | .error e => b.flightFault f e
          | .ok k =>
            if !b.ringRoom (ringOfInst k.hdr.dst) k.size || d.staging k.hdr.slot.toNat then b
            else
              let b := (b.enqueue (some p.ctx) k).setJob f (.send { x with todo := rest })
              b.modDisp p.ctx x.layer x.seq fun d =>
                { d with
                  diverted := if d.diverts k.hdr.slot.toNat then d.diverted ++ [(k.hdr.row, k.hdr.hand)] else d.diverted,
                  groups := d.groups.zipIdx.map fun q =>
                    if q.2 = x.group then { q.1 with sent := q.1.sent.upd (odKey k.hdr.dst k.hdr.die) 0 (· + 1) } else q.1 }

def Blk.sendReq (b : Blk) (p : Site) (f : RFields) : Req :=
  let x := b.ctx p.ctx
  Req.mk (encR 0x38 f) f.g .other
      (badE f.a || b.badLayer x f.a || b.badD x f.b needR || b.badD x f.c needR
        || anyUsed [f.e, f.f, f.gg, f.h, f.i] || 8 ≤ f.m.toNat)
      ([regEf f.a] ++ regD f.b ++ regD f.c ++ [regS p f.d])
      fun b x _ =>
        let l := x.layerE f.a
        let tok := (x.descF f.b).getD Desc.zero
        let list := (x.descF f.c).getD Desc.zero
        let layout := if layoutFits f.m.toNat tok.fmt then [] else [fBadFormat]
        match b.lastDisp p.ctx l with
        | none => { units := [.outbound], faults := fBadDispatch :: layout }
        | some d =>
          match d.lastGroup with
          | none => { units := [.outbound], faults := fBadDispatch :: layout }
          | some (gi, g) =>
            let first := d.sendFmt.isNone
            let fmt := if !first && d.sendFmt != some tok.format then [fBadFormat] else []
            let shape := tok.rows < g.rows || list.covers < 8 * g.ag || 65536 < tok.rb || (!first && d.sendBytes != tok.rb)
            { ledger := ceilDiv (g.rows * d.k * (tok.rb + 32)) tok.sendWidth, wait := d.placing, units := [.outbound],
              binds := b.dispBinds d, tag := d.seq,
              faults := layout ++ fmt ++ (if !d.placeDone then [fBadDispatch] else []) ++ if shape then [fBadShape] else [],
              reads := b.rangeOf x.part tok ++ b.rangeOf x.part list,
              energy := b.coef 5 * (g.ag * (tok.rb + 32)),
              job := .send { layer := l, seq := d.seq, group := gi, opens := if first then d.members else [],
                             todo := List.range g.ag, tokens := tok, list := list, r0 := (x.s p.queue f.d).toNat, rows := g.rows,
                             layout := BitVec.ofNat 3 f.m.toNat },
              act := fun b =>
                let b := b.modDisp p.ctx l d.seq fun d =>
                  { d with placeDone := false, sendFmt := some tok.format, sendBytes := tok.rb }
                if first then b.emitNext p else b }

def execSend (p : Site) (f : RFields) (s : State) : Host.Outcome State Fault Refusal :=
  s.block fun a b => b.issueReq a p (b.sendReq p f)

/-- The owner dies of a dispatch: those that hold an expert of its slots, the members' in their order and this instance's
also where a moon stands (R167; log 31). -/
def Dispatch.ownerDies (b : Blk) (d : Dispatch) : List (InstId × BitVec 2) :=
  d.members.flatMap fun m => (dies.filter fun x =>
    (d.primary.any fun e => e.owner = m && e.die = x) || (m = b.self && d.moons.any fun o => o.die = x)).map fun x => (m, x)

/-- The ENDs of a group: one to each owner die (R167, R178). -/
def Blk.endPkts (b : Blk) (d : Dispatch) (gi : Nat) (g : Group) : List Packet :=
  (d.ownerDies b).map fun o =>
    ⟨{ b.header 5 o.1 o.2 d.part d.layer (seqLow d.seq) with
        group := BitVec.ofNat 8 gi, gidx := BitVec.ofNat 32 (g.sent.get (odKey o.1 o.2) 0),
        position := BitVec.ofNat 20 (b01 g.last) }, []⟩

/-- Whether a send has emitted every packet and its ENDs find room. -/
def Blk.sendDone (b : Blk) (c : CtxId) (x : Sending) : Bool :=
  x.opens.isEmpty && x.todo.isEmpty && (match b.dispOf c x.layer x.seq with
    | none => true
    | some d => (List.range 8).all fun q =>
        b.ringRoom (BitVec.ofNat 3 q) (32 * ((d.ownerDies b).filter fun o => posOf o.1 = q).length))

/-- A send completes: its group's ENDs enter the ring queues behind its DEALs (R178). -/
def Blk.finishSend (b : Blk) (c : CtxId) (x : Sending) : Blk :=
  match b.dispOf c x.layer x.seq with
  | none => b
  | some d =>
    match d.groups[x.group]? with
    | none => b
    | some g =>
      let b := (b.endPkts d x.group g).foldl (fun b k => b.enqueue (some c) k) b
      b.modDisp c x.layer x.seq fun d =>
        { d with groups := d.groups.zipIdx.map fun q =>
            if q.2 = x.group then
              { q.1 with ended := true, ready := (d.ownerDies b).map fun o => (o.1, o.2, none) } else q.1 }

/-! ### A ring queue's head leaves (06 R174, R177, R180, R559) -/

/-- The dispatch that a packet of this source belongs to. -/
def Blk.dispOfEgress (b : Blk) (e : Egress) : Option Dispatch := (b.disps.filter (e.of' ·)).getLast?

/-- A ring queue without its head. -/
def Blk.dropHead (b : Blk) (q : BitVec 3) : Blk :=
  { b with exch := { b.exch with rings := b.exch.rings.wr q ((b.exch.rings.rd q).drop 1) } }

/-- A packet as it is read from its ring queue (02 R55). -/
def Egress.asRead (e : Egress) (m : Mem) (q : BitVec 3) : Packet :=
  if (m.hurtOf 20 (e.holds q)).isEmpty then e.k
  else Packet.ofBytes ((pieces 4 e.k.bytesOf).zipIdx.flatMap fun x =>
    (toLe 4 (m.arrayWord 20 (q.toNat * ringWords + (e.place + x.2) % ringWords) (BitVec.ofNat 32 (leNat x.1))).toNat).take
      x.1.length)

/-- Take the head of a ring queue and send it. Its words are read: an uncorrectable one faults the context that owns the
packet, and the packet is not sent (19 R476). -/
def Blk.departHead (b : Blk) (q : BitVec 3) (e : Egress) : Blk :=
  let r := b.readArray 20 (e.holds q)
  let k := e.asRead b.mem q
  let b := r.1.dropHead q
  if r.2 then (e.ctx.map fun c => b.ctxFault c (flt 0x10)).getD b
  else (b.addInst (Cnt.egressRing q.toNat) k.size).txBy true e.ctx k

/-- The CLAIM for a head packet that lacks credit (R177). -/
def Blk.sendClaim (b : Blk) (d : Dispatch) (e : Egress) (u : Nat) : Blk :=
  let key := odKey e.k.hdr.dst e.k.hdr.die
  let b := b.modDisp d.ctx d.layer d.seq fun d => { d with claims := d.claims ++ [(key, b.cycle.toNat)] }
  let h : PktHdr := { b.header 7 e.k.hdr.dst e.k.hdr.die d.part d.layer (seqLow d.seq) with
                      gidx := BitVec.ofNat 32 (64 * u) }
  (b.addCtx d.ctx Cnt.claims 1).tx (some d.ctx) ⟨h, []⟩

/-- An END leaves: its READY is awaited from now on, and the last group's END ends the CLAIM for its die
(R178, R183). -/
def Dispatch.endLeft (d : Dispatch) (h : PktHdr) (now : Nat) : Dispatch :=
  { d with
    groups := d.groups.zipIdx.map fun q =>
      if q.2 = h.group.toNat then
        { q.1 with ready := q.1.ready.map fun r => if r.1 = h.dst && r.2.1 = h.die then (r.1, r.2.1, some now) else r }
      else q.1,
    claims := if bit h.position.toNat 0 then d.claims.filter fun c => c.1 != odKey h.dst h.die else d.claims }

/-- Whether a dispatch's last-group END for an owner's die has left: no more credit comes for it (R178). -/
def Dispatch.lastEndLeft (d : Dispatch) (h : PktHdr) : Bool :=
  d.groups.any fun g => g.last && g.ended && !(g.ready.any fun r => r.1 = h.dst && r.2.1 = h.die && r.2.2.isNone)

/-- Units of destination credit that a packet needs at its source, and whether it takes them: a DEAL those of its payload;
a FETCH the unit of an empty payload, of which nothing lands in the receive region, as long as credit can come for it
(R174, R178, R180, R559; log 31). -/
def Dispatch.creditNeed (d : Dispatch) (k : Packet) : Nat × Bool :=
  if k.hdr.kind = 1 then (unitsOf k.payload.length, true)
  else if k.hdr.kind = 2 && k.hdr.slot != 0xFFF && !d.lastEndLeft k.hdr then (unitsOf 0, false)
  else (0, false)

/-- Whether this source has a CLAIM outstanding for an owner's die, of whatever dispatch (R177). -/
def Blk.claimOut (b : Blk) (key : Nat) : Bool := b.disps.any fun d => !d.aborted && d.claims.any fun c => c.1 = key

/-- The head packet of a ring queue leaves once its source holds the credit it needs and, on a far port, the far queue has
room; for a head that lacks credit a CLAIM is sent, unless one is outstanding. What an aborted dispatch left in the queue
leaves with the credit it still has, and is discarded without (R173, R174, R177, R184, R559; log 31). -/
def Blk.ringDepart (b : Blk) (q : BitVec 3) : Blk :=
  match b.exch.rings.rd q with
  | [] => b
  | e :: _ =>
    let h := e.k.hdr
    let key := odKey h.dst h.die
    if b.heldFar e.k then b
    else match b.dispOfEgress e with
      | none => if h.kind = 1 || (h.kind = 2 && h.slot != 0xFFF) then (b.dropHead q).addInst (0x2000 + 8 * Cnt.discard) 1 else b.departHead q e
      | some d =>
        let need := d.creditNeed e.k
        if need.1 ≤ d.credits.get key 0 then
          let b := if need.2 then b.modDisp d.ctx d.layer d.seq fun d => { d with credits := d.credits.upd key 0 (· - need.1) } else b
          let b := b.departHead q e
          if h.kind = 5 then (b.modDisp d.ctx d.layer d.seq fun d => d.endLeft h b.cycle.toNat).retireDisps else b
        else if d.aborted then (b.dropHead q).addFor (some d.ctx) Cnt.discard 1
        else if b.claimOut key then b
        else b.sendClaim d e need.1

def execRingQueueDepart (ring : BitVec 3) (s : State) : Host.Outcome State Fault Refusal :=
  s.block fun _ b => b.ringDepart ring

end Sys2Proof.Machine
end

