-- ==== Sys2Proof/Machine/Deal.lean ====
section
/-! DEFINITION. Deal: clamped access to rows (11 R289, R557), rows of distributed tensors (R296 to R299), and
`permute`, `gather` and `scatter` (R290 to R295). -/

namespace Sys2Proof.Machine
open Sys2Proof

/-! ### Access by index (R289) -/

/-- Where an access by index goes: a row's byte offset, and whether an index was clamped; the fill value; or
nowhere. -/
inductive Reach where
  | row (off : Int) (clamped : Bool)
  | fill
  | fault
  deriving DecidableEq, Repr

/-- An index held to 0 … n − 1. -/
def clampIx (i : Int) (n : Nat) : Nat := if i < 0 then 0 else Nat.min i.toNat (n - 1)

def inIx (i : Int) (n : Nat) : Bool := 0 ≤ i && i < (n : Int)

/-- Access to row (i1, i2, i3). -/
def Desc.reach (d : Desc) (i1 i2 i3 : Int) : Reach :=
  if inIx i1 d.n1 && inIx i2 d.n2 && inIx i3 d.n3 then .row (d.rowAt i1.toNat i2.toNat i3.toNat) false
  else if d.clamp = 2 then .fault
  else if d.clamp = 1 then .row (d.rowAt (clampIx i1 d.n1) (clampIx i2 d.n2) (clampIx i3 d.n3)) true
  else .fill

/-- Access to a row by number: i1, i2 and i3 as R557 forms them, whatever the number. -/
def Desc.reachRow (d : Desc) (i : Int) : Reach :=
  d.reach (i % (d.n1 : Int)) (i / (d.n1 : Int) % (d.n2 : Int)) (i / ((d.n1 * d.n2 : Nat) : Int))

/-- A row of the fill value. -/
def Desc.fillRow (d : Desc) (sat : Bool) : List Byte := (encodeRow d.fmt sat (List.replicate d.n0 d.fill)).1

/-- The effects of counting. -/
def countFx (ctr n : Nat) : List Fx := if n = 0 then [] else [.count ctr n]

/-- What the conversions of a written row count: those that saturated, and NaN results from elements that are
none (R39). -/
def encodeFx (fmt : Nat) (sat : Bool) (xs : List Word) : List Fx :=
  countFx Cnt.arithSat (encodeRow fmt sat xs).2 ++ countFx Cnt.arithNan (encodeNans fmt sat xs)

/-- What reading the fill value for `k` elements counts: the clamped accesses, the conversions that saturated, and the NaN
results from a fill value that is none (R39, R289). -/
def Desc.fillFx (d : Desc) (sat : Bool) (k : Nat) : List Fx :=
  let one := List.replicate 32 d.fill
  countFx Cnt.tensorClamps k ++ countFx Cnt.arithSat (k * (encodeRow d.fmt sat one).2 / 32)
    ++ countFx Cnt.arithNan (k * encodeNans d.fmt sat one / 32)

/-- The bytes of a row that an access reaches, and what the access counts. -/
def Blk.readReach (b : Blk) (n : PartId) (d : Desc) (r : Reach) : Except Flt (List Byte × List Fx) :=
  match r with
  | .fault => .error fBadIndex
  | .fill => .ok (d.fillRow (saturates (b.arith n)), d.fillFx (saturates (b.arith n)) d.n0)
  | .row off c => (b.bytesAt n d off d.rb).map fun bs => (bs, if c then countFx Cnt.tensorClamps d.n0 else [])

/-! ### Runs of a row's elements -/

/-- Elements `col` to `col + len - 1` of the row at a byte offset. -/
def Blk.loadRun (b : Blk) (n : PartId) (d : Desc) (off : Int) (col len : Nat) : Except Flt (List Word) :=
  if len = 0 then .ok []
  else if d.block then
    match b.bytesAt n d (off + (col : Int)) len, b.bytesAt n d (off + ((d.n0 + col / 32 : Nat) : Int)) (ceilDiv (col % 32 + len) 32) with
    | .error e, _ => .error e
    | _, .error e => .error e
    | .ok es, .ok ss =>
      .ok (es.zipIdx.map fun p => toF32 (scaled ((fmtOf d.fmt).val p.1.toNat) (ss.getD ((col % 32 + p.2) / 32) 0).toNat))
  else (b.bytesAt n d (off + ((col * d.e : Nat) : Int)) (len * d.e)).map fun bs => decodeRow d.fmt len bs

/-- The fill value as it reads from the format (R289). -/
def Desc.fillWord (d : Desc) (sat : Bool) : Word := (decodeRow d.fmt 32 (encodeRow d.fmt sat (List.replicate 32 d.fill)).1).headD 0

/-- Of the element numbers `i0` to `i0 + len - 1` of a row: how many lie before it, the first in it and how many
in it, and how many lie after it. -/
def spanIn (n0 : Nat) (i0 : Int) (len : Nat) : Nat × Nat × Nat × Nat :=
  let pre := if i0 < 0 then Nat.min len (-i0).toNat else 0
  let first := i0.toNat
  let mid := if i0 < 0 then Nat.min (len - pre) n0 else Nat.min len (n0 - first)
  (pre, first, mid, len - pre - mid)

/-- What reading beyond a row's ends counts, `k` elements in number. -/
def Blk.clampFx (b : Blk) (n : PartId) (d : Desc) (k : Nat) : List Fx :=
  if d.clamp = 0 then d.fillFx (saturates (b.arith n)) k else countFx Cnt.tensorClamps k

/-- Read `len` elements of a row from number `i0` on, and what clamped accesses count (R289). -/
def Blk.readRun (b : Blk) (n : PartId) (d : Desc) (r : Reach) (i0 : Int) (len : Nat) : Except Flt (List Word × List Fx) :=
  let fill := d.fillWord (saturates (b.arith n))
  match r with
  | .fault => .error fBadIndex
  | .fill => .ok (List.replicate len fill, b.clampFx n d len)
  | .row off rc =>
    let (pre, first, mid, post) := spanIn d.n0 i0 len
    if d.clamp = 2 && (pre != 0 || post != 0) then .error fBadIndex
    else
      let edge := fun (k : Nat) (c : Nat) => if c = 0 then .ok []
        else if d.clamp = 1 then (b.loadRun n d off k 1).map fun w => List.replicate c (w.headD 0)
        else .ok (List.replicate c fill)
      match edge 0 pre, b.loadRun n d off first mid, edge (d.n0 - 1) post with
      | .ok x, .ok y, .ok z => .ok (x ++ y ++ z, b.clampFx n d (if rc then len else pre + post))
      | .error e, _, _ => .error e
      | _, .error e, _ => .error e
      | _, _, .error e => .error e

/-- The effects of writing a row where an access reaches: FILL discards it. -/
def Blk.writeReach (b : Blk) (n : PartId) (d : Desc) (r : Reach) (bs : List Byte) : List Fx :=
  match r with
  | .fault => [.fault fBadIndex]
  | .fill => countFx Cnt.tensorClamps d.n0
  | .row off c => (if c then countFx Cnt.tensorClamps d.n0 else []) ++ b.storeAt n d off bs

/-- Cut effects behind the first fault. -/
def upToFault : List Fx → List Fx
  | [] => []
  | .fault e :: _ => [.fault e]
  | x :: rest => x :: upToFault rest

/-- The block as the writes of effects leave it, for a command that reads what it wrote. -/
def Blk.afterWrites (b : Blk) (fx : List Fx) : Blk :=
  fx.foldl (fun b x => match x with
    | .write sp a bs =>
      match b.wrSpace none sp a bs with
      | .ok c => { b with mem := c.mem }
      | .error _ => b
    | _ => b) b

/-! ### Distributed tensors (R296 to R299) -/

/-- The OWNER table that an OWNED descriptor binds, or the fault at issue (R298). -/
def Blk.ownerOf (b : Blk) (x : Ctx) (d : Desc) : Except Flt (Binding × List Byte) :=
  let l := x.eregs.rd (BitVec.ofNat 2 d.ereg.toNat)
  let bind := b.bindNow l 2
  if bind.epoch = 0 then .error (fNoTable l 2)
  else match b.bound bind with
    | .error e => .error e
    | .ok bs =>
      let h := OwnHdr.of bs
      if h.fmt != d.fmt || h.n0 != d.n0 || h.rows < d.base + d.n1 then .error (fWrongTable l 2) else .ok (bind, bs)

/-- Access to row `i` of an OWNED descriptor: a table row. -/
def Desc.ownReach (d : Desc) (i : Int) : Reach :=
  if inIx i d.n1 then .row (d.base + i.toNat : Nat) false
  else if d.clamp = 2 then .fault
  else if d.clamp = 1 then .row (d.base + clampIx i d.n1 : Nat) true
  else .fill

/-- The fmt field of a FETCH for a table's format. -/
def returnFmt (fmt : Nat) : BitVec 3 := if fmt = 4 then 2 else BitVec.ofNat 3 fmt

/-- The FETCH of a remote row (R299), for a destination row. -/
def Blk.remoteFetch (b : Blk) (n : PartId) (bind : Binding) (h : OwnHdr) (owner : InstId) (row : Nat) (dst : Nat) : Await :=
  { hdr := { b.header 2 owner 3 n bind.layer (BitVec.ofNat 16 bind.epoch.toNat) with
      fmt := returnFmt h.fmt, slot := 0xFFF, row := BitVec.ofNat 20 dst, gidx := BitVec.ofNat 32 row },
    bytes := h.n0 * fmtBytes h.fmt, sent := none, landed := none }

/-- A row of a distributed tensor: its bytes here, or the FETCH that brings it. -/
inductive OwnRead where
  | here (bs : List Byte) (fx : List Fx)
  | far (x : Await) (fx : List Fx)
  | fail (e : Flt)

/-- Read row `i` of an OWNED descriptor for a destination row. -/
def Blk.ownRead (b : Blk) (n : PartId) (d : Desc) (bind : Binding) (img : List Byte) (i : Int) (dst : Nat) : OwnRead :=
  match d.ownReach i with
  | .fault => .fail fBadIndex
  | .fill => .here (d.fillRow (saturates (b.arith n))) (b.clampFx n d d.n0)
  | .row r c =>
    let (k, p) := ownRow img r.toNat
    let fx := if c then countFx Cnt.tensorClamps d.n0 else []
    if k.owner = b.self then
      match b.bytesAt n p (p.base : Int) p.rb with
      | .ok bs => .here bs fx
      | .error e => .fail e
    else .far (b.remoteFetch n bind (OwnHdr.of img) k.owner r.toNat dst) fx

/-! ### Ledgers (R290) -/

def Desc.moveWidth (d : Desc) : Nat := Nat.min 512 d.width

/-- Segment bytes of `rows` rows. -/
def Desc.segBytes (d : Desc) (rows : Nat) : Nat := rows * (32 * ceilDiv d.rb 32)

/-- Cycles that the rows of a move that keeps dimension 0 take. -/
def moveCycles (src dst : Desc) (rows : Nat) : Nat :=
  ceilDiv (src.segBytes rows) (Nat.min 512 (Nat.min src.width dst.width))

/-- The ledger of a move that keeps dimension 0. -/
def moveLedger (src dst : Desc) (rows : Nat) : Nat := moveCycles src dst rows + 20

/-- The work tiles of a move that keeps dimension 0: they end at row boundaries (R346). -/
def moveTile (src dst : Desc) : List Nat := tileOf (moveCycles src dst 1)

/-! ### `permute` (R291, R292) -/

/-- The map π of a `permute`. -/
def permMap (f : RFields) : List Nat :=
  [f.c.toNat % 4, f.c.toNat / 4 % 4, f.d.toNat % 4, f.d.toNat / 4 % 4]

def Desc.sizes (d : Desc) : List Nat := [d.n0, d.n1, d.n2, d.n3]

/-- Faults of a `permute` at issue. -/
def permFaults (src dst : Desc) (m : List Nat) : List Flt :=
  let top := Nat.max src.rank.toNat dst.rank.toNat
  let isPerm := distinctL m
  let high := (List.range 4).all fun k => k < top || m.getD k 0 = k
  let sizes := (List.range 4).all fun k => dst.sizes.getD k 1 = src.sizes.getD (m.getD k 0) 1
  (if src.fmt != dst.fmt || (src.block && m.getD 0 0 != 0) then [fBadFormat] else [])
    ++ if !(isPerm && high && sizes) then [fBadShape] else []

/-- The index of source that a destination index reads: i_(π[k]) = j_k. -/
def permSrc (m j : List Nat) : List Nat :=
  (List.range 4).map fun s => j.getD ((findIdx (fun k => k = s) m).getD 0) 0

/-- Read a source row by its three indices. -/
def Blk.readAt (b : Blk) (n : PartId) (d : Desc) (i1 i2 i3 : Nat) : Except Flt (List Byte) :=
  b.bytesAt n d (d.rowAt i1 i2 i3) d.rb

/-- The effects of a `permute`, by destination row. -/
def Blk.permFx (b : Blk) (n : PartId) (src dst : Desc) (m : List Nat) : List Fx :=
  (List.range dst.rows).flatMap fun r =>
    let j := [r % dst.n1, r / dst.n1 % dst.n2, r / (dst.n1 * dst.n2)]
    if m.getD 0 0 = 0 then
      let i := permSrc m (0 :: j)
      match b.readAt n src (i.getD 1 0) (i.getD 2 0) (i.getD 3 0) with
      | .error e => [.fault e]
      | .ok bs => b.storeRow n dst r bs
    else
      match allOk ((List.range dst.n0).map fun j0 =>
          let i := permSrc m (j0 :: j)
          (b.readAt n src (i.getD 1 0) (i.getD 2 0) (i.getD 3 0)).map fun bs => (bs.drop (i.getD 0 0 * src.e)).take src.e) with
      | .error e => [.fault e]
      | .ok es => b.storeRow n dst r (es.flatMap id)

/-- The ledger of a `permute` (R290, R292). -/
def permLedger (src dst : Desc) (m : List Nat) : Nat :=
  let pa := m.getD 0 0
  if pa = 0 then moveLedger src dst src.rows
  else
    let sq := if src.e = 4 then 8 else 16
    let na := src.sizes.getD pa 1
    let others := src.elems / (Nat.max 1 (na * src.n0))
    let q := ceilDiv na sq * ceilDiv src.n0 sq * others
    Nat.max q (Nat.max (ceilDiv (src.segBytes src.rows) src.moveWidth) (ceilDiv (dst.segBytes dst.rows) dst.moveWidth)) + 20

def Blk.permuteReq (b : Blk) (p : Site) (f : RFields) : Req :=
  let x := b.ctx p.ctx
  Req.mk (encR 0x39 f) f.g .other
      (b.badD x f.a needR || b.badD x f.b needW || 16 ≤ f.c.toNat || 16 ≤ f.d.toNat
        || anyUsed [f.e, f.f, f.gg, f.h, f.i] || f.m != 0)
      (regD f.a ++ regD f.b)
      fun b x _ =>
        let src := (x.descF f.a).getD Desc.zero
        let dst := (x.descF f.b).getD Desc.zero
        let m := permMap f
        let reads := b.rangeOf x.part src
        let writes := b.rangeOf x.part dst
        { ledger := permLedger src dst m, units := [.outbound, .inbound],
          tile := if m.getD 0 0 = 0 then moveTile src dst else [2048],
          faults := permFaults src dst m ++ (if rangesMeet reads writes then [fBadOperand] else []),
          reads := reads, writes := writes, fx := upToFault (b.permFx x.part src dst m),
          energy := b.coef 5 * (src.rows * src.rb) }

def execPermute (p : Site) (f : RFields) (s : State) : Host.Outcome State Fault Refusal :=
  s.block fun a b => b.issueReq a p (b.permuteReq p f)

/-! ### `gather` (R293, R298, R299) -/

/-- Effects, remote rows, and the faults of an OWNED source, of a `gather`. -/
structure Gathered where
  fx : List Fx := []
  far : List Await := []
  binds : List Binding := []
  faults : List Flt := []
  m0 : Nat := 0               -- bytes of distributed rows read in place through M0

/-- Rows of a `gather` from an ordinary source. -/
def Blk.gatherFx (b : Blk) (n : PartId) (src dst : Desc) (ix : List Word) : List Fx :=
  ix.zipIdx.flatMap fun q =>
    match b.readReach n src (src.reachRow (sInt q.1)) with
    | .error e => [.fault e]
    | .ok (bs, fx) => fx ++ b.storeRow n dst q.2 bs

/-- Rows of a `gather` from a distributed tensor. -/
def Blk.gatherOwned (b : Blk) (n : PartId) (src dst : Desc) (bind : Binding) (img : List Byte) (ix : List Word) : Gathered :=
  let rs := ix.zipIdx.map fun q => (q.2, b.ownRead n src bind img (sInt q.1) q.2)
  { binds := [bind],
    m0 := sumL (ix.map fun w => match src.ownReach (sInt w) with
      | .row r _ => (let k := (ownRow img r.toNat).1
        if k.owner = b.self && k.stack then src.rb else 0)
      | _ => 0),
    fx := rs.flatMap fun q => match q.2 with
      | .here bs fx => fx ++ b.storeRow n dst q.1 bs
      | .far _ fx => fx ++ [.far q.1]
      | .fail e => [.fault e],
    far := (rs.takeWhile fun q => match q.2 with
        | .fail _ => false
        | _ => true).filterMap fun q => match q.2 with
      | .far x _ => some x
      | _ => none }

/-- The ranges of `count` table rows from `lo` on that this instance owns: they are read in place (R295, R298). -/
def Blk.ownRanges (b : Blk) (n : PartId) (img : List Byte) (lo count : Nat) : List Range :=
  let h := OwnHdr.of img
  (List.range h.blocks).flatMap fun i =>
    let k := ownBlk img i
    let first := i * 2 ^ h.shift
    let from' := Nat.max lo first
    let till := Nat.min (lo + count) (first + h.blockRows i)
    if k.owner = b.self && from' < till then
      (b.rangeOf n { h.desc k (till - from') with base := k.base + (from' - first) * h.pitch }).map fun r => { r with bytes := 0 }
    else []

/-- The ranges that a read of a source may touch here: of an OWNED one, this instance's rows. -/
def Blk.srcRanges (b : Blk) (x : Ctx) (d : Desc) : List Range :=
  if d.isOwned then (match b.ownerOf x d with
    | .error _ => []
    | .ok (_, img) => b.ownRanges x.part img d.base d.n1)
  else b.rangeOf x.part d

/-- Rows in increasing number (R293); an index tensor that cannot be read faults as the command runs, behind the OWNER
table's own faults at issue (R298). -/
def Blk.gathered (b : Blk) (x : Ctx) (src dst idx : Desc) : Gathered :=
  let ix := b.elemWords x.part idx idx.elems
  if src.isOwned then
    match b.ownerOf x src, ix with
    | .error e, _ => { faults := [e] }
    | .ok (bind, _), .error e => { binds := [bind], fx := [.fault e] }
    | .ok (bind, img), .ok ix => b.gatherOwned x.part src dst bind img ix
  else match ix with
    | .error e => { fx := [.fault e] }
    | .ok ix => { fx := b.gatherFx x.part src dst ix }

def Blk.gatherReq (b : Blk) (p : Site) (f : RFields) : Req :=
  let x := b.ctx p.ctx
  Req.mk (encR 0x3A f) f.g .other
      (b.badD x f.a ⟨false, true, false, true⟩ || b.badD x f.b needW || b.badD x f.c needR
        || anyUsed [f.d, f.e, f.f, f.gg, f.h, f.i] || f.m != 0)
      (regD f.a ++ regD f.b ++ regD f.c)
      fun b x _ =>
        let src := (x.descF f.a).getD Desc.zero
        let dst := (x.descF f.b).getD Desc.zero
        let idx := (x.descF f.c).getD Desc.zero
        let r := idx.elems
        let fmt := idx.fmt != 8 || src.fmt != dst.fmt
        let shape := src.n0 != dst.n0 || dst.rows < r
        let reads := b.srcRanges x src ++ b.rangeOf x.part idx
        let writes := b.rangeOf x.part dst
        let g := if fmt || shape then
            { faults := if src.isOwned then (match b.ownerOf x src with
                | .error e => [e]
                | .ok _ => []) else [] }
          else b.gathered x src dst idx
        { ledger := moveLedger src dst r, units := [.outbound, .inbound], binds := g.binds, tile := moveTile src dst,
          faults := (if fmt then [fBadFormat] else []) ++ (if shape then [fBadShape] else []) ++ g.faults
            ++ (if rangesMeet reads writes then [fBadOperand] else []),
          reads := reads ++ (if g.m0 = 0 then [] else [⟨.stack, 0, 0, 0, 0, g.m0⟩]), writes := writes, fx := upToFault g.fx,
          job := if g.far.isEmpty then .plain else .remote src dst g.far,
          energy := b.coef 5 * (r * src.rb) }

def execGather (p : Site) (f : RFields) (s : State) : Host.Outcome State Fault Refusal :=
  s.block fun a b => b.issueReq a p (b.gatherReq p f)

/-! ### `scatter` (R294) -/

/-- FP32 words added, and how many NaN results came from operands that were none (R39). -/
def addRows (xs ys : List Word) : List Word × Nat :=
  let zs := (xs.zip ys).map fun p => (p, f32Add p.1 p.2)
  (zs.map (·.2), (zs.filter fun z => isNaN32 z.2 && !isNaN32 z.1.1 && !isNaN32 z.1.2).length)

/-- Row `i` of a `scatter`'s source as it goes to a row of `dst`: where the shapes disagree, elements and rows beyond the
source follow its clamp mode (R289, R294). -/
def Blk.scatterRow (b : Blk) (n : PartId) (src dst : Desc) (i : Nat) : Except Flt (List Byte × List Fx) :=
  let r := src.reachRow (i : Int)
  if src.n0 = dst.n0 then b.readReach n src r
  else (b.readRun n src r 0 dst.n0).map fun p =>
    ((encodeRow src.fmt (saturates (b.arith n)) p.1).1, p.2)

/-- The rows of a `scatter` from row `i` on, the block standing as the rows before left it. -/
def Blk.scatterGo (n : PartId) (src dst : Desc) (add : Bool) : Blk → Nat → List Word → List Fx
  | _, _, [] => []
  | b, i, w :: rest =>
    let at' := dst.reachRow (sInt w)
    let fx := match b.scatterRow n src dst i with
      | .error e => [.fault e]
      | .ok (row, more) =>
        more ++ if !add then b.writeReach n dst at' row
        else match at' with
          | .row off _ =>
            match b.bytesAt n dst off dst.rb with
            | .error e => [.fault e]
            | .ok old =>
              let r := addRows (decodeRow dst.fmt dst.n0 old) (decodeRow src.fmt dst.n0 row)
              countFx Cnt.arithNan r.2 ++ b.writeReach n dst at' (encodeRow dst.fmt false r.1).1
          | _ => b.writeReach n dst at' row
    fx ++ Blk.scatterGo n src dst add (if add then b.afterWrites fx else b) (i + 1) rest

def Blk.scatterReq (b : Blk) (p : Site) (f : RFields) : Req :=
  let x := b.ctx p.ctx
  let add := f.m = 1
  Req.mk (encR 0x3B f) f.g .other
      (b.badD x f.a needR || b.badD x f.b (if add then needRW else needW) || b.badD x f.c needR
        || anyUsed [f.d, f.e, f.f, f.gg, f.h, f.i] || 2 ≤ f.m.toNat)
      (regD f.a ++ regD f.b ++ regD f.c)
      fun b x _ =>
        let src := (x.descF f.a).getD Desc.zero
        let dst := (x.descF f.b).getD Desc.zero
        let idx := (x.descF f.c).getD Desc.zero
        let r := idx.elems
        let fits := if add then dst.fmt = 4 && (src.fmt = 0 || src.fmt = 1 || src.fmt = 4) else src.fmt = dst.fmt
        let fmt := idx.fmt != 8 || !fits
        let reads := b.rangeOf x.part src ++ b.rangeOf x.part idx
        let writes := b.rangeOf x.part dst
        let sb := src.segBytes r
        { ledger := if add then ceilDiv (2 * dst.segBytes r) dst.moveWidth + ceilDiv sb 512 + 20 else moveLedger src dst r,
          units := [.outbound, .inbound], tile := moveTile src dst,
          faults := (if fmt then [fBadFormat] else []) ++ (if rangesMeet reads writes then [fBadOperand] else []),
          reads := if add then reads ++ writes else reads, writes := writes,
          fx := match b.elemWords x.part idx r with
            | .error e => [.fault e]
            | .ok ix => if fmt then [] else upToFault (Blk.scatterGo x.part src dst add b 0 ix),
          energy := b.coef 5 * (r * src.rb) }

def execScatter (p : Site) (f : RFields) (s : State) : Host.Outcome State Fault Refusal :=
  s.block fun a b => b.issueReq a p (b.scatterReq p f)

end Sys2Proof.Machine
end

