-- ==== Sys2Proof/Machine/Effects.lean ====
section
/-! DEFINITION. Effects: what a command in flight does to the block, one effect at a time (01 R22; 12 R302;
log 6). -/

namespace Sys2Proof.Machine
open Sys2Proof

/-- A variance clamp: NORM_CLAMPS, ND_FUNC_CLAMPS and the event VAR_CLAMP with the row (10 R268). -/
def Blk.varClamp (b : Blk) (f : Flight) (row : Nat) : Blk :=
  let b := (b.addCtx f.ctx Cnt.normClamps 1).setReg 0x420 0 (satAdd (b.reg 0x420) 1)
  b.ctxEvent 0x85 f.ctx f.queue 0 row

/-- The mixer key of a context is set (16 R404, R407). -/
def Ctx.setKey (x : Ctx) (k : BitVec 128) (fresh : Bool) : Ctx :=
  { x with key := k, keySource := BitVec.ofNat 8 (b01 fresh), seeds := x.seeds + 1 }

/-- A write through a bank set that holds a bank retired since the command issued fails its check (11 R286; 19 R482). -/
def Blk.bankGone (b : Blk) (f : Flight) (a : Nat) : Bool :=
  b.start.regime && f.writes.any fun r => r.sp = .scratch && bit r.banks.toNat (a / 0x300000)
    && (r.banks &&& b.health.banksOut) != 0

/-- One effect, or the fault that it meets. -/
def Blk.applyOne (b : Blk) (f : Flight) (x : Fx) : Except Flt Blk :=
  match x with
  | .write sp a bs => if sp = .scratch && b.bankGone f a then .error fProtection else b.wrSpace (some f.ctx) sp a bs
  | .sreg r v => .ok (b.modCtx f.ctx fun x => x.setS f.queue r v)
  | .treg r v => .ok (b.modCtx f.ctx fun x => { x with tregs := x.tregs.wr r v })
  | .vreg r run v =>
    let b := b.modQue ⟨f.ctx, f.queue⟩ fun u => if u.runNo = run then { u with vregs := u.vregs.put r.toNat v } else u
    let at' := vWord ⟨f.ctx, f.queue⟩ r
    .ok { b with mem := b.mem.freshen 23 fun w => at' ≤ w && w < at' + vecLen }
  | .count c n => .ok (b.addCtx f.ctx c n)
  | .clampEvent row => .ok (b.varClamp f row)
  | .key k fresh => .ok (b.modCtx f.ctx fun x => x.setKey k fresh)
  | .read u at' n => if (b.readArray u fun w => at' ≤ w && w < at' + n).2 then .error (flt 0x10 (if u = 23 then 23 else 0)) else .ok b
  | .far _ => .ok b
  | .fault e => .error e

/-- The words that an effect reads, or reads to write them in part, are noted (02 R55, R56). -/
def Blk.noteFx (b : Blk) : Fx → Blk
  | .write sp a bs => b.noteWrite sp a bs.length
  | .read u at' n => (b.readArray u fun w => at' ≤ w && w < at' + n).1
  | _ => b

/-- Effects in order, up to the first fault. -/
def Blk.applyFx (b : Blk) (f : Flight) : List Fx → Blk × Option Flt
  | [] => (b, none)
  | x :: rest =>
    match (b.noteFx x).applyOne f x with
    | .ok c => c.applyFx f rest
    | .error e => (b.noteFx x, some e)

/-- Effects in order; a fault ends the command and tears its context down (13 R349). -/
def Blk.runFx (b : Blk) (f : Flight) (l : List Fx) : Blk :=
  match b.applyFx f l with
  | (c, none) => c
  | (c, some e) => c.flightFault f e

end Sys2Proof.Machine
end

