-- ==== Sys2Proof/Machine/Collect.lean ====
section
/-! DEFINITION. Collect: `combine` (07 R188 to R199), the FETCHes of combines and remote reads (07 R191; 11 R299),
and the landing of RETURNs (07 R192 to R195). -/

namespace Sys2Proof.Machine
open Sys2Proof

/-! ### Return-map entries -/

/-- A return-map entry (05 R140). -/
structure MapEnt where
  stamp : BitVec 16
  weight : Nat
  slot : BitVec 12
  position : BitVec 20
  deriving DecidableEq, Repr

def MapEnt.of (bs : List Byte) : MapEnt :=
  let v := leNat bs
  ⟨BitVec.ofNat 16 (field v 63 48), field v 47 32, BitVec.ofNat 12 (field v 31 20), BitVec.ofNat 20 (field v 19 0)⟩

def MapEnt.dropped (e : MapEnt) : Bool := e.weight = 0xFFFF
def MapEnt.residual (e : MapEnt) : Bool := e.dropped && bit e.position.toNat 0

/-- The k entries of a row of a dispatch. -/
def Blk.mapRow (b : Blk) (d : Dispatch) (row : Nat) : Except Flt (List MapEnt) :=
  (b.loadFlat d.part d.map (8 * row * d.k) (8 * d.k)).map fun bs => (pieces 8 bs).map MapEnt.of

/-! ### Issue (R188 to R190, R198) -/

/-- Format code of a return format. -/
def retCode (fmt : Nat) : Nat := if fmt = 2 then 4 else fmt

/-- A `combine`'s dispatch, groups and rows. -/
structure CombIn where
  disp : Option Dispatch
  g0 : Nat
  ng : Nat
  placed : Bool               -- the dispatch exists and every named group has been placed
  r0 : Nat
  rows : Nat
  d : Nat
  k : Nat
  pr : Nat
  landing : Desc
  acc : Desc
  out : Desc
  res : Option Desc
  oidx : Option Desc
  drops : Option Desc

/-- Groups whose `place` has completed. -/
def Dispatch.groupsPlaced (d : Dispatch) : Nat := d.groups.length - b01 d.placing

def Blk.combIn (b : Blk) (x : Ctx) (p : Site) (fmt : Nat) (f : CFields) : CombIn :=
  let disp := b.lastDisp p.ctx (x.eregs.rd f.e)
  let g0 := (x.s p.queue f.g0).toNat
  let ng := (x.s p.queue f.ng).toNat
  let placed := match disp with
    | some d => g0 + ng ≤ d.groupsPlaced
    | none => false
  let gs := match disp with
    | some d => if placed then (d.groups.drop g0).take ng else []
    | none => []
  let out := x.desc f.out
  { disp := disp, g0 := g0, ng := ng, placed := placed, r0 := (gs.head?.map (·.r0)).getD 0, rows := sumL (gs.map (·.rows)),
    d := out.n0, k := (disp.map (·.k)).getD 0, pr := out.n0 * fmtBytes (retCode fmt), landing := x.desc f.landing,
    acc := x.desc f.acc, out := out, res := x.descF f.res, oidx := x.descF f.oidx, drops := x.descF f.drops }

def CombIn.faults (c : CombIn) (b : Blk) (x : Ctx) (mode : Nat) : List Flt :=
  let shape := c.d < 256 || 16384 < c.d || c.d % 128 != 0 || !c.landing.isScratch || !c.acc.isScratch
    || c.landing.covers < 128 * c.k * c.pr || c.acc.covers < 512 * c.d
    || (c.oidx.isNone && c.out.rows < c.rows)
    || (match c.res with
        | some d => d.n0 != c.d || d.rows < c.rows
        | none => false)
    || (match c.oidx with
        | some d => d.elems < c.rows
        | none => false)
    || (match c.drops with
        | some d => d.elems < c.rows
        | none => false)
  let intFmt := fun (d : Option Desc) => match d with
    | some d => d.fmt != 8
    | none => false
  let format := 2 ≤ mode || (mode = 1 && c.out.fmt != 4) || 5 ≤ c.out.fmt
    || (match c.res with
        | some d => 7 ≤ d.fmt
        | none => false)
    || intFmt c.oidx || intFmt c.drops
  let own := match c.res with
    | some d => if d.isOwned then (match b.ownerOf x d with
        | .error e => [e]
        | .ok _ => []) else []
    | none => []
  (if mode = 1 && c.res.isSome then [fBadOperand] else []) ++ (if format then [fBadFormat] else [])
    ++ (if shape then [fBadShape] else []) ++ (if c.placed then [] else [fBadDispatch]) ++ own

/-- Bytes per cycle of a `combine`'s output (R198). -/
def Desc.outWidth (d : Desc) : Nat := if d.isScratch then Nat.min 1024 d.width else d.width

/-- Ledger of a `combine` (R198); the last tile of no rows has none. -/
def CombIn.ledger (c : CombIn) (split ord : Bool) : Nat :=
  let rt := if c.rows = 0 then 0 else c.rows - 128 * (ceilDiv c.rows 128 - 1)
  let l := ceilDiv (c.rows * c.k * (c.pr + 32)) 512 + ceilDiv (rt * c.out.rb) c.out.outWidth
  if split && ord then ceilDiv (l * 69) 64 else l

/-- The OWNER binding of an OWNED residual. -/
def Blk.resBinds (b : Blk) (x : Ctx) (res : Option Desc) : List Binding :=
  match res with
  | some d => if d.isOwned then (match b.ownerOf x d with
      | .ok (bind, _) => [bind]
      | .error _ => []) else []
  | none => []

/-- A `combine` of a return format. -/
def Blk.combineReq (b : Blk) (p : Site) (fmt : Nat) (f : CFields) : Req :=
  let x := b.ctx p.ctx
  let mode := f.mode.toNat
  let l := x.eregs.rd f.e
  Req.mk (encC (0x40 + fmt) f) f.g .other
    (f.rsv != 0 || !b.ownsLayer x.part l.toNat || b.badD4 x f.landing needRW || b.badD4 x f.acc needRW
      || b.badD4 x f.out (if mode = 1 then needRW else needW) || b.badD x f.res ⟨true, true, false, true⟩
      || b.badD x f.oidx optR || b.badD x f.drops optW)
    ([regE f.e, regS p f.g0, regS p f.ng, regT f.landing, regT f.acc, regT f.out, regS p f.dcount]
      ++ regD f.res ++ regD f.oidx ++ regD f.drops)
    fun b x _ =>
      let c := b.combIn x p fmt f
      let ready := match c.disp with
        | some d => !c.placed || d.groupsReady c.g0 c.ng
        | none => true
      let seq := (c.disp.map (·.seq)).getD 0
      { ledger := c.ledger f.split (ordered (b.arith x.part)), wait := !ready,
        out := if ready then none else some (.ready l seq c.g0 c.ng),
        units := [.collect, .inbound], binds := b.resBinds x c.res ++ (c.disp.map b.dispBinds).getD [], tag := seq,
        pend := if c.drops.isSome then [regS p f.dcount] else [],
        faults := c.faults b x mode,
        reads := b.rangesO x.part [some c.landing, some c.acc, c.oidx] ++ ((c.res.map (b.srcRanges x)).getD []) ++ (if mode = 1 then b.rangeOf x.part c.out else [])
          ++ (match c.disp with
              | some d => [⟨.stack, 0, 0, 0, 0, 8 * c.rows * d.k⟩]
              | none => []),
        writes := b.rangesO x.part [some c.landing, some c.acc, some c.out, c.drops],
        energy := b.coef 2 * (c.rows * c.k * c.d) + b.coef 5 * (c.rows * c.k * (c.pr + 32)),
        job := .combine { layer := l, seq := seq, r0 := c.r0, rows := c.rows, k := c.k, d := c.d, fmt := BitVec.ofNat 3 fmt,
                          pr := c.pr, add := mode = 1, landing := c.landing, acc := c.acc, out := c.out, res := c.res,
                          resBind := (b.resBinds x c.res).head?,
                          oidx := c.oidx, drops := c.drops, dcount := f.dcount, nextRow := 0, nextFetch := 0, sums := [],
                          dropRows := [], awaits := [] } }

def execCombineBf16 (p : Site) (f : CFields) (s : State) : Host.Outcome State Fault Refusal :=
  s.block fun a b => b.issueReq a p (b.combineReq p 0 f)

def execCombineFp16 (p : Site) (f : CFields) (s : State) : Host.Outcome State Fault Refusal :=
  s.block fun a b => b.issueReq a p (b.combineReq p 1 f)

def execCombineFp32 (p : Site) (f : CFields) (s : State) : Host.Outcome State Fault Refusal :=
  s.block fun a b => b.issueReq a p (b.combineReq p 2 f)

/-! ### Row sums (R193 to R195, R199) -/

/-- Items walked in a row: its hand positions, and the residual row of a distributed tensor. -/
def Combine.items (x : Combine) : Nat := x.k + b01 (match x.res with
  | some d => d.isOwned
  | none => false)

/-- acc after one landed row: fma per element, and NaN results from operands that are none. -/
def fmaRow (w : Word) (xs acc : List Word) : List Word × Nat :=
  let zs := (xs.zip acc).map fun p => (p, f32Fma w p.1 p.2)
  (zs.map (·.2), (zs.filter fun z => isNaN32 z.2 && !isNaN32 w && !isNaN32 z.1.1 && !isNaN32 z.1.2).length)

/-- The landed payload of a hand position of a row; the residual row has slot 0xFFF. -/
def Combine.landedAt (x : Combine) (row j : Nat) (res : Bool) : Option (List Byte) :=
  (x.awaits.find? fun a =>
    if res then a.hdr.slot = 0xFFF && a.hdr.row.toNat = row - x.r0
    else a.hdr.slot != 0xFFF && a.hdr.row.toNat = row && a.hdr.hand.toNat = j).bind (·.landed)

/-- The residual of a row, as FP32 words (R193). -/
def Blk.residualOf (b : Blk) (n : PartId) (x : Combine) (t : Nat) : Except Flt (Option (List Word)) :=
  match x.res with
  | none => .ok none
  | some d =>
    if d.isOwned then
      match x.landedAt (x.r0 + t) 0 true with
      | some bs => .ok (some (decodeRow d.fmt d.n0 bs))
      | none => .ok none
    else (b.rowWords n d t).map some

/-- The FP32 sum of row `t` (R193): the words, and the NaNs counted. -/
def Combine.sumRow (x : Combine) (es : List MapEnt) (row : Nat) (res : Option (List Word)) : List Word × Nat :=
  let st := es.zipIdx.foldl (fun (st : List Word × Nat) q =>
    match x.landedAt row q.2 false with
    | some bs =>
      if q.1.dropped then st
      else
        let r := fmaRow (widenElem 0 q.1.weight) (decodeRow (retCode x.fmt.toNat) x.d bs) st.1
        (r.1, st.2 + r.2)
    | none => st) (List.replicate x.d 0, 0)
  match res with
  | none => st
  | some r =>
    let z := addRows st.1 r
    (z.1, st.2 + z.2)

/-- Write one summed row to its output row (R193). -/
def Blk.outRow (b : Blk) (n : PartId) (x : Combine) (t : Nat) (acc : List Word) : List Fx :=
  let o : Except Flt Int := match x.oidx with
    | none => .ok (t : Int)
    | some d => (b.loadFlat n d (4 * t) 4).map fun bs => sInt (BitVec.ofNat 32 (leNat bs))
  match o with
  | .error e => [.fault e]
  | .ok o =>
    let at' := x.out.reachRow o
    if x.add then
      match at' with
      | .row off _ =>
        match b.bytesAt n x.out off x.out.rb with
        | .error e => [.fault e]
        | .ok old =>
          let r := addRows (decodeRow 4 x.d old) acc
          countFx Cnt.arithNan r.2 ++ b.writeReach n x.out at' (encodeRow 4 false r.1).1
      | _ => b.writeReach n x.out at' []
    else
      let e := encodeRow x.out.fmt (saturates (b.arith n)) acc
      encodeFx x.out.fmt (saturates (b.arith n)) acc ++ b.writeReach n x.out at' e.1

/-- Write the summed rows of a tile in row order (R192, R195), under the arithmetic word that the command bound (R46). -/
def Blk.flushRows (b : Blk) (f : Flight) (n : PartId) (x : Combine) : List (Nat × List Word) → Blk
  | [] => b
  | (t, acc) :: rest =>
    match b.applyFx f ((b.withArith n f.arith).outRow n x t acc) with
    | (c, none) => c.flushRows f n x rest
    | (c, some e) => c.flightFault f e

/-- The landing area holds a payload at its slot (R191, R192). -/
def Combine.landAt (x : Combine) (row j : Nat) : Nat := ((row - x.r0) % 128 * x.k + j) * x.pr

/-- Whether every item of row `t` has been walked and has landed. -/
def Combine.rowDone (x : Combine) (t : Nat) : Bool :=
  (t + 1) * x.items ≤ x.nextFetch
    && x.awaits.all fun a => a.landed.isSome || (if a.hdr.slot = 0xFFF then a.hdr.row.toNat != t else a.hdr.row.toNat != x.r0 + t)

/-- Sum the rows whose positions have all landed, in row order; a tile is written as its last row is summed. -/
def Blk.sumRows : Nat → Blk → Flight → Combine → Blk
  | 0, b, _, _ => b
  | fuel + 1, b, f, x =>
    let t := x.nextRow
    if x.rows ≤ t || !x.rowDone t then b
    else match b.dispOf f.ctx x.layer x.seq with
      | none => b
      | some d =>
        match b.mapRow d (x.r0 + t), b.residualOf d.part x t with
        | .error e, _ => b.flightFault f e
        | _, .error e => b.flightFault f e
        | .ok es, .ok res =>
          let s := x.sumRow es (x.r0 + t) res
          let b := if s.2 = 0 then b else b.addCtx f.ctx Cnt.arithNan s.2
          let mine := fun (a : Await) => if a.hdr.slot = 0xFFF then a.hdr.row.toNat = t else a.hdr.row.toNat = x.r0 + t
          let x := { x with nextRow := t + 1, sums := x.sums ++ [(t, s.1)], awaits := x.awaits.filter fun a => !mine a }
          let tileEnd := (t + 1) % 128 = 0 || t + 1 = x.rows
          let y := if tileEnd then { x with sums := [] } else x
          let b := b.setJob f (.combine y)
          let b := if !tileEnd then b else if (b.wear 29).failing != [] then b.checkFail f 29 else b.flushRows f d.part x x.sums
          if (b.ctx f.ctx).alive then Blk.sumRows fuel b f y else b

/-! ### FETCH (R191, R299) -/

/-- The FETCH of an accepted entry (R191). -/
def Blk.fetchFor (b : Blk) (d : Dispatch) (x : Combine) (row j : Nat) (e : MapEnt) : Await :=
  let aim := d.dest b e.slot.toNat (d.diverted.contains (BitVec.ofNat 20 row, BitVec.ofNat 4 j))
  let r := d.rowOf (BitVec.ofNat 20 row)
  let group := (findIdx (fun (g : Group) => g.r0 ≤ row && row < g.r0 + g.rows) d.groups).getD 0
  { hdr := { b.header 2 aim.1 aim.2.1 d.part d.layer (seqLow d.seq) with
      fmt := x.fmt, moon := aim.2.2.2.2, slot := e.slot, position := e.position, expert := aim.2.2.2.1, localIx := aim.2.2.1,
      row := BitVec.ofNat 20 row, hand := BitVec.ofNat 4 j, group := BitVec.ofNat 8 group, gidx := r.1, stamp := r.2 },
    bytes := x.pr, sent := none, landed := none }

/-- An item that lands at once: a residual row read here. -/
def Await.now (bs : List Byte) (row : Nat) : Await :=
  { hdr := { PktHdr.zero with slot := 0xFFF, row := BitVec.ofNat 20 row }, bytes := bs.length, sent := some 0, landed := some bs }

/-- Walk on to the next entry that needs a FETCH, as far as landing slots are free. -/
def Blk.walkMap (b : Blk) (d : Dispatch) : Nat → Combine → Except Flt (Combine × Option Await)
  | 0, x => .ok (x, none)
  | fuel + 1, x =>
    let t := x.nextFetch / x.items
    let j := x.nextFetch % x.items
    if x.rows ≤ t || x.nextRow + 128 ≤ t then .ok (x, none)
    else match b.mapRow d (x.r0 + t) with
      | .error e => .error e
      | .ok es =>
        let x := { x with nextFetch := x.nextFetch + 1,
                          dropRows := if j = 0 && es.any MapEnt.dropped then x.dropRows ++ [x.r0 + t] else x.dropRows }
        match es[j]? with
        | some e =>
          if e.dropped || es.any MapEnt.residual then b.walkMap d fuel x
          else if d.slots ≤ e.slot.toNat then .error fBadOperand
          else .ok (x, some (b.fetchFor d x (x.r0 + t) j e))
        | none =>
          match x.res, x.resBind with
          | some r, some bind =>
            match b.bound bind with
            | .error e => .error e
            | .ok img =>
              match b.ownRead d.part r bind img (t : Int) t with
              | .here bs _ => b.walkMap d fuel { x with awaits := x.awaits ++ [Await.now bs t] }
              | .far a _ => .ok (x, some a)
              | .fail e => .error e
          | _, _ => b.walkMap d fuel x

/-- The combine emits its next FETCH where its ring queue has room.
DESIGN CHOICE: the wait for its RETURN counts from here (log 71). -/
def Blk.fetchCombine (b : Blk) (f : Flight) (x : Combine) : Blk :=
  match b.dispOf f.ctx x.layer x.seq with
  | none => b
  | some d =>
    match b.walkMap d (x.rows * x.items + 1) x with
    | .error e => b.flightFault f e
    | .ok (y, none) => Blk.sumRows (x.rows + 1) (b.setJob f (.combine y)) f y
    | .ok (y, some a) =>
      if !b.ringRoom (ringOfInst a.hdr.dst) 32 then b
      else
        let y := { y with awaits := y.awaits ++ [{ a with sent := some b.cycle.toNat }] }
        Blk.sumRows (x.rows + 1) ((b.enqueue (some f.ctx) ⟨a.hdr, []⟩).setJob f (.combine y)) f y

/-- The remote rows a command awaits. -/
def Job.farRows : Job → List Await
  | .remote _ _ l => l
  | .vload _ _ _ _ _ l => l
  | _ => []

def Job.setFar (j : Job) (l : List Await) : Job :=
  match j with
  | .remote s d _ => .remote s d l
  | .vload r n row col t _ => .vload r n row col t l
  | j => j

/-- A remote read emits its next FETCH: at most 256 outstanding (R299). -/
def Blk.fetchFar (b : Blk) (f : Flight) : Blk :=
  let l := f.job.farRows
  if 256 ≤ (l.filter fun a => a.sent.isSome && a.landed.isNone).length then b
  else match l.find? fun a => a.sent.isNone with
    | none => b
    | some a =>
      if !b.ringRoom (ringOfInst a.hdr.dst) 32 then b
      else
        let l := modFirst (fun (a : Await) => a.sent.isNone) (fun a => { a with sent := some b.cycle.toNat }) l
        (b.enqueue (some f.ctx) ⟨a.hdr, []⟩).setJob f (f.job.setFar l)

/-- Whether a command in flight has a FETCH to send. -/
def Flight.fetchDue (f : Flight) : Bool :=
  match f.job with
  | .combine x => x.nextFetch < x.rows * x.items && x.nextFetch / Nat.max 1 x.items < x.nextRow + 128
  | j => j.farRows.any fun a => a.sent.isNone

def execFetch (s : State) : Host.Outcome State Fault Refusal :=
  s.block fun _ b =>
    match b.flights.find? fun f => f.suspended.isNone && (b.ctx f.ctx).alive && f.fetchDue with
    | none => b
    | some f =>
      match f.job with
      | .combine x => b.fetchCombine f x
      | _ => b.fetchFar f

/-! ### RETURN (R182, R185, R192) -/

/-- Whether a RETURN answers a FETCH. -/
def Await.answers (a : Await) (h : PktHdr) : Bool :=
  a.sent.isSome && a.landed.isNone && a.hdr.part = h.part && a.hdr.layer = h.layer && a.hdr.seq = h.seq && a.hdr.row = h.row
    && a.hdr.hand = h.hand && a.hdr.slot = h.slot && a.hdr.position = h.position

def Job.awaits : Job → List Await
  | .combine x => x.awaits
  | j => j.farRows

/-- A RETURN lands for a command that awaits it; what fails a stage's parity on its way through the deal network is not passed
on (05 R148). -/
def Blk.landReturn (b : Blk) (f : Flight) (a : Await) (k : Packet) : Blk :=
  let land := modFirst (fun (y : Await) => y.answers k.hdr) fun y => { y with landed := some k.payload }
  if f.units.contains .inbound && (b.wear 29).failing != [] then b.checkFail f 29
  else if crc32c k.payload != k.hdr.crc then b.flightFault f (flt 0x14)
  else if k.hdr.fmt != a.hdr.fmt || k.payload.length != a.bytes then b.flightFault f fBadFormat
  else match f.job with
    | .combine x =>
      let x := { x with awaits := land x.awaits }
      let n := (b.ctx f.ctx).part
      if a.hdr.slot = 0xFFF then Blk.sumRows (x.rows + 1) (b.setJob f (.combine x)) f x
      else
        match b.dispOf f.ctx x.layer x.seq with
        | none => b
        | some d =>
          let skew := match b.mapRow d a.hdr.row.toNat with
            | .ok es => (match es[a.hdr.hand.toNat]? with
                | some e => e.stamp != k.hdr.stamp
                | none => false)
            | .error _ => false
          let b := if skew then b.addCtx f.ctx Cnt.stampSkew 1 else b
          match b.applyFx f (b.storeFlat n x.landing (x.landAt a.hdr.row.toNat a.hdr.hand.toNat) k.payload) with
          | (c, some e) => c.flightFault f e
          | (c, none) => Blk.sumRows (x.rows + 1) (c.setJob f (.combine x)) f x
    | j => b.setJob f (j.setFar (land j.farRows))

/-! ### Completion -/

/-- What a combine writes as it completes: its drop list and count (R199); the accumulators' contents are not
stated and are free. -/
def Blk.combineEnd (b : Blk) (n : PartId) (x : Combine) : List Fx :=
  (if x.rows = 0 then [] else b.storeFlat n x.acc 0 (b.freeBytes (Nat.min x.rows 128 * x.d * 4)))
    ++ (match x.drops with
        | some d => b.storeElems n d false (x.dropRows.map (BitVec.ofNat 32)) ++ [.sreg x.dcount (BitVec.ofNat 32 x.dropRows.length)]
        | none => [])

/-- What a command with remote rows does as it completes: in its effects each remote row stands where its turn comes
(R293). -/
def Blk.withRemote (b : Blk) (n : PartId) (dst : Desc) : List Fx → List Await → List Fx
  | .far row :: rest, a :: l => (match a.landed with
      | some bs => b.storeRow n dst row bs
      | none => []) ++ b.withRemote n dst rest l
  | x :: rest, l => x :: b.withRemote n dst rest l
  | [], _ => []

end Sys2Proof.Machine
end

