-- ==== Sys2Proof/Machine/Flags.lean ====
section
/-! DEFINITION. Flags: the condition codes of `cmp` and `vcmp` (13 R332) and the scalar operations (R331). -/

namespace Sys2Proof.Machine
open Sys2Proof

/-- The meaning of a condition code on two words (R332); codes 8 to 15 are reserved. -/
def condHolds (cc : BitVec 4) (x y : Word) : Bool :=
  match cc.toNat with
  | 0 => x == y
  | 1 => x != y
  | 2 => x.slt y
  | 3 => x.sle y
  | 4 => y.slt x
  | 5 => y.sle x
  | 6 => x.ult y
  | _ => y.ule x

/-- Whether a condition code is reserved for `cmp`. -/
def badCond (cc : BitVec 4) : Bool := 8 ≤ cc.toNat

/-- Shift distances are taken mod 32 (R331). -/
def shlW (x y : Word) : Word := x <<< (y.toNat % 32)
def shrW (x y : Word) : Word := x >>> (y.toNat % 32)

/-- Opcodes that the map lists (R330). -/
def listedOpcode (op : Nat) : Bool :=
  (0x01 ≤ op && op ≤ 0x11) || (0x18 ≤ op && op ≤ 0x1D) || op = 0x1F || (0x20 ≤ op && op ≤ 0x23)
    || op = 0x28 || op = 0x29 || (0x30 ≤ op && op ≤ 0x32) || (0x38 ≤ op && op ≤ 0x3B)
    || (0x40 ≤ op && op ≤ 0x42) || (0x48 ≤ op && op ≤ 0x4A) || op = 0x4C || op = 0x4D
    || (0x50 ≤ op && op ≤ 0x5B) || (0x60 ≤ op && op ≤ 0x6B) || (0x70 ≤ op && op ≤ 0x74)
    || op = 0x78 || op = 0x79

end Sys2Proof.Machine
end

