-- ==== Sys2Proof/Machine/Control.lean ====
section
/-! DEFINITION. Control: the control class, `wait`, `barrier` and reserved opcodes (12 R305 to R317; 13 R324,
R331 to R335). -/

namespace Sys2Proof.Machine
open Sys2Proof

/-! ### Scalars and predicates (R331) -/

/-- A two-operand scalar instruction: sd := f(sa, sb). -/
def scalar2Quick (p : Site) (op : Nat) (f : RFields) (h : Word → Word → Word) : Quick :=
  Quick.mk (encR op f) f.g .control
    (f.g.dp != 0 || anyUsed [f.d, f.e, f.f, f.gg, f.h, f.i] || f.m != 0) [regS p f.a, regS p f.b, regS p f.c]
    fun _ _ _ => { act := fun b => b.modCtx p.ctx fun x => x.setS p.queue f.a (h (x.s p.queue f.b) (x.s p.queue f.c)) }

def liQuick (p : Site) (f : IFields) : Quick :=
  Quick.mk (encI 0x01 f) f.g .control (f.g.dp != 0 || f.k != 0 || f.b != 0) [regS p f.a]
    fun _ _ _ => { act := fun b => b.modCtx p.ctx fun x => x.setS p.queue f.a f.imm }

def execLi (p : Site) (f : IFields) (s : State) : Host.Outcome State Fault Refusal :=
  s.block fun a b => b.issueQuick a p (liQuick p f)

def movQuick (p : Site) (f : RFields) : Quick :=
  Quick.mk (encR 0x02 f) f.g .control
    (f.g.dp != 0 || anyUsed [f.c, f.d, f.e, f.f, f.gg, f.h, f.i] || f.m != 0) [regS p f.a, regS p f.b]
    fun _ _ _ => { act := fun b => b.modCtx p.ctx fun x => x.setS p.queue f.a (x.s p.queue f.b) }

def execMov (p : Site) (f : RFields) (s : State) : Host.Outcome State Fault Refusal :=
  s.block fun a b => b.issueQuick a p (movQuick p f)

def execAdd (p : Site) (f : RFields) (s : State) : Host.Outcome State Fault Refusal :=
  s.block fun a b => b.issueQuick a p (scalar2Quick p 0x03 f (· + ·))

def execSub (p : Site) (f : RFields) (s : State) : Host.Outcome State Fault Refusal :=
  s.block fun a b => b.issueQuick a p (scalar2Quick p 0x04 f (· - ·))

def execMul (p : Site) (f : RFields) (s : State) : Host.Outcome State Fault Refusal :=
  s.block fun a b => b.issueQuick a p (scalar2Quick p 0x05 f (· * ·))

def execAnd (p : Site) (f : RFields) (s : State) : Host.Outcome State Fault Refusal :=
  s.block fun a b => b.issueQuick a p (scalar2Quick p 0x06 f (· &&& ·))

def execOr (p : Site) (f : RFields) (s : State) : Host.Outcome State Fault Refusal :=
  s.block fun a b => b.issueQuick a p (scalar2Quick p 0x07 f (· ||| ·))

def execXor (p : Site) (f : RFields) (s : State) : Host.Outcome State Fault Refusal :=
  s.block fun a b => b.issueQuick a p (scalar2Quick p 0x08 f (· ^^^ ·))

def execShl (p : Site) (f : RFields) (s : State) : Host.Outcome State Fault Refusal :=
  s.block fun a b => b.issueQuick a p (scalar2Quick p 0x09 f shlW)

def execShr (p : Site) (f : RFields) (s : State) : Host.Outcome State Fault Refusal :=
  s.block fun a b => b.issueQuick a p (scalar2Quick p 0x0A f shrW)

/-- pd := sa cc sb (R331, R332). -/
def cmpQuick (p : Site) (f : RFields) : Quick :=
  Quick.mk (encR 0x0B f) f.g .control
    (f.g.dp != 0 || badP f.a || badCond f.m || anyUsed [f.d, f.e, f.f, f.gg, f.h, f.i])
    [regP (BitVec.ofNat 3 f.a.toNat), regS p f.b, regS p f.c]
    fun _ _ _ =>
      { act := fun b => (b.modCtx p.ctx fun x =>
          x.resultPred b.cycle.toNat p.queue (BitVec.ofNat 3 f.a.toNat) (condHolds f.m (x.s p.queue f.b) (x.s p.queue f.c))) }

def execCmp (p : Site) (f : RFields) (s : State) : Host.Outcome State Fault Refusal :=
  s.block fun a b => b.issueQuick a p (cmpQuick p f)

/-- The predicates of a mask, bit 0 ignored. -/
def maskPreds (m : Nat) : List (BitVec 3) := ((bitsOf 8 m).filter (· != 0)).map (BitVec.ofNat 3)

def pclrQuick (p : Site) (f : IFields) : Quick :=
  Quick.mk (encI 0x0C f) f.g .control
    (f.g.dp != 0 || used f.a || f.k != 0 || f.b != 0 || 256 ≤ f.imm.toNat) ((maskPreds f.imm.toNat).map regP)
    fun _ _ _ => { act := fun b => b.modCtx p.ctx fun x => (maskPreds f.imm.toNat).foldl (fun x n => x.resultPred b.cycle.toNat p.queue n false) x }

def execPclr (p : Site) (f : IFields) (s : State) : Host.Outcome State Fault Refusal :=
  s.block fun a b => b.issueQuick a p (pclrQuick p f)

/-! ### Flow (R313, R333) -/

/-- The target lies before the tail and inside the body of the innermost loop. -/
def Queue.brOk (u : Queue) (off : Word) : Bool :=
  off != 0 && off.toNat < u.left.toNat && (match u.loops with
    | l :: _ => (u.pc - l.start).toNat + off.toNat < l.body.toNat
    | [] => true)

def brQuick (p : Site) (f : IFields) : Quick :=
  Quick.mk (encI 0x0D f) f.g .control (f.g.dp != 0 || used f.a || f.k != 0 || f.b != 0) []
    fun _ _ u => { ledger := 2, faults := if u.brOk f.imm then [] else [fBadOperand],
                   act := fun b => b.modQue p fun v => { v with pc := u.pc + f.imm } }

def execBr (p : Site) (f : IFields) (s : State) : Host.Outcome State Fault Refusal :=
  s.block fun a b => b.issueQuick a p (brQuick p f)

/-- Enter a loop body, or skip it. -/
def Queue.enter (u : Queue) (at' : Word) (body : Nat) (run : Bool) (l : LoopLv) : Queue :=
  if run then { u with pc := at' + 1, loops := l :: u.loops } else { u with pc := at' + 1 + BitVec.ofNat 32 body }

def loopQuick (p : Site) (f : IFields) : Quick :=
  Quick.mk (encI 0x0E f) f.g .control
    (f.g.dp != 0 || used f.a || f.k != 0 || 65536 ≤ f.imm.toNat) []
    fun _ _ u =>
      { ledger := 2, skip := f.b.toNat, wait := u.left.toNat ≤ f.b.toNat, out := some (.doorbell (f.b.toNat + 1)),
        faults := if f.b = 0 || f.imm = 0 || 4 ≤ u.loops.length then [fBadShape] else [],
        act := fun b => b.modQue p fun v =>
          v.enter u.pc f.b.toNat true ⟨u.pc + 1, BitVec.ofNat 16 f.b.toNat, 0, 0, f.imm, 0, 0⟩ }

def execLoop (p : Site) (f : IFields) (s : State) : Host.Outcome State Fault Refusal :=
  s.block fun a b => b.issueQuick a p (loopQuick p f)

/-- Whether a predicate test lets a `loopv` run: 2 WHILE, 3 UNTIL (R363 numbering). -/
def testRuns (test : Nat) (v : Bool) : Bool := if test = 2 then v else !v

def loopvQuick (p : Site) (f : IFields) : Quick :=
  Quick.mk (encI 0x0F f) f.g .control
    (f.g.dp != 0 || f.k = 3 || (f.k != 0 && badP f.a) || f.imm = 0)
    [if f.k = 0 then regS p f.a else regP (BitVec.ofNat 3 f.a.toNat)]
    fun _ x u =>
      let pn := BitVec.ofNat 3 f.a.toNat
      let test := f.k.toNat + 1
      let trips := if f.k = 0 then x.s p.queue f.a else 0
      let run := if f.k = 0 then trips != 0 else testRuns test (x.pred pn)
      { ledger := 2, skip := f.b.toNat, wait := u.left.toNat ≤ f.b.toNat, out := some (.doorbell (f.b.toNat + 1)),
        faults := if f.b = 0 || 4 ≤ u.loops.length then [fBadShape] else [],
        act := fun b => b.modQue p fun v =>
          v.enter u.pc f.b.toNat run
            ⟨u.pc + 1, BitVec.ofNat 16 f.b.toNat, BitVec.ofNat 2 test, if f.k = 0 then 0 else pn, trips, f.imm, f.imm⟩ }

def execLoopv (p : Site) (f : IFields) (s : State) : Host.Outcome State Fault Refusal :=
  s.block fun a b => b.issueQuick a p (loopvQuick p f)

/-- The queue after a back-edge: the next trip, or past the body (R313). -/
def Queue.backEdge (u : Queue) (l : LoopLv) (again : Bool) : Queue :=
  match u.loops with
  | [] => u
  | _ :: rest => if again then { u with pc := l.start, loops := l :: rest } else { u with loops := rest }

/-- One back-edge: 1 ledger cycle, counted by every enclosing cap (R316, R317). -/
def execBackEdge (p : Site) (s : State) : Host.Outcome State Fault Refusal :=
  s.block fun a b =>
    let u := b.que p
    if !b.looks a p || u.pairOpen then b
    else match u.loops with
      | [] => b
      | l :: _ =>
        if !u.atBackEdge then b
        else if 2 ≤ l.test.toNat && (b.pending p.ctx).contains (regP l.pred) then b.hold p
        else
          let idx := l.start - 1
          let w := b.entryWord p idx
          if u.runOver .control 1 then b.fault p idx w fBadShape
          else match u.overCap 1 with
            | some k => b.fault p idx w (fLoopCap k)
            | none =>
              let b := b.passTime p 1
              b.modQue p fun v =>
                match v.loops with
                | [] => v
                | l :: _ =>
                  let l := if l.test.toNat ≤ 1 then { l with trips := l.trips - 1 } else l
                  let again := if l.test.toNat ≤ 1 then l.trips != 0
                    else testRuns l.test.toNat ((b.ctx p.ctx).pred l.pred)
                  ((v.runNext .control 1).backEdge l again).goto (if again then l.start else v.pc)

/-- A command or instruction that a queue has issued has not completed (R309, R312). -/
def Blk.unfinished (b : Blk) (c : CtxId) (q : BitVec 2) : Bool :=
  (b.flights.any fun fl => fl.ctx = c && fl.queue = q) || b.cycle.toNat < ((b.ctx c).que q).busyTo

/-- `halt` (R309): the queue stops once its commands have completed; QUEUE_HALT carries the tag, and is
raised as the halt's one cycle ends. -/
def haltQuick (p : Site) (f : IFields) : Quick :=
  Quick.mk (encI 0x10 f) f.g .other
    (f.g.dp != 0 || used f.a || f.k != 0 || f.b != 0 || 256 ≤ f.imm.toNat) []
    fun b _ u =>
      { wait := b.unfinished p.ctx p.queue,
        act := fun b =>
          let b := b.modQue p fun v => { v with halted := true, tag := BitVec.ofNat 8 f.imm.toNat }
          b.post { code := 0x80, event := true, ctx := some p.ctx, queue := p.queue, word1 := u.pc, insn := encI 0x10 f,
                   a := f.imm, b := 0, cycle := b.cycle + 1 } }

def execHalt (p : Site) (f : IFields) (s : State) : Host.Outcome State Fault Refusal :=
  s.block fun a b => b.issueQuick a p (haltQuick p f)

/-! ### Descriptors (R283, R335) -/

/-- Where a `tset` reads its image: scratchpad, or a stack address of the partition's regions; and the check
of that address. -/
def Blk.imageAt (b : Blk) (n : PartId) (f : IFields) : Except Flt (Space × Nat × Range) :=
  if f.k = 0 then
    let a := f.imm.toNat
    let bank := a / 0x300000
    if bank < 16 && bit (b.partBanks n) bank then
      .ok (.scratch, a, ⟨.scratch, BitVec.ofNat 16 (2 ^ bank), BitVec.ofNat 16 (2 ^ bank), a % 0x300000, 64, 64⟩)
    else .error fProtection
  else
    let a := f.b.toNat % 256 * 2 ^ 32 + f.imm.toNat
    let w := (b.region n (field a 39 36)).start + field a 35 0
    if b.inRegion n (a : Int) ((a + 63 : Nat) : Int) none then .ok (.stack, w, ⟨.stack, 0, 0, w, 64, 64⟩)
    else .error fProtection

def tsetReq (f : IFields) : Req :=
  Req.mk (encI 0x11 f) f.g .control
    (f.g.dp != 0 || f.a.toNat < 16 || 2 ≤ f.k.toNat || (f.k = 0 && f.b != 0) || (f.k = 1 && 256 ≤ f.b.toNat)
      || f.imm.toNat % 64 != 0) (regD f.a)
    fun b x _ =>
      match b.imageAt x.part f with
      | .error e => { ledger := 8, faults := [e] }
      | .ok (sp, at', r) =>
        match allOk ((List.range 64).map fun (i : Nat) => b.mem.byte sp (at' + i)) with
        | .error e => { ledger := 8, reads := [r], fx := [.fault e] }
        | .ok bs =>
          let d := Desc.ofNat (leNat bs)
          { ledger := 8, pend := regD f.a, reads := [r], faults := b.tsetFaults x.part d,
            fx := [.treg (BitVec.ofNat 4 f.a.toNat) (BitVec.ofNat 512 (leNat bs))] }

def execTset (p : Site) (f : IFields) (s : State) : Host.Outcome State Fault Refusal :=
  s.block fun a b => b.issueReq a p (tsetReq f)

/-! ### Synchronisation (R312) -/

def waitQuick (f : IFields) : Quick :=
  Quick.mk (encI 0x18 f) f.g .other
    (f.g.dp != 0 || used f.a || f.k != 0 || f.b != 0 || 256 ≤ f.imm.toNat) ((maskPreds f.imm.toNat).map regP)
    fun _ x _ => { ledger := 0, wait := (maskPreds f.imm.toNat).any fun n => !x.pred n }

def execWait (p : Site) (f : IFields) (s : State) : Host.Outcome State Fault Refusal :=
  s.block fun a b => b.issueQuick a p (waitQuick f)

/-- The queues a mask names. -/
def maskQueues (m : BitVec 4) : List (BitVec 2) := queueNums.filter fun q => bit m.toNat q.toNat

/-- A queue has reached a `barrier` of a mask. -/
def Ctx.atBarrier (x : Ctx) (m : BitVec 4) (q : BitVec 2) : Bool := (x.que q).barrier = some m && (x.que q).ready

/-- The queues that a barrier lets go: its own, and every other that has reached one with the same mask (R312). -/
def Ctx.barrierSet (x : Ctx) (p : Site) (m : BitVec 4) : List (BitVec 2) :=
  queueNums.filter fun q => q = p.queue || x.atBarrier m q

/-- Fields that break a rule on a `barrier`. -/
def barrierBad (f : RFields) : Bool := f.g.dp != 0 || anyUsed [f.a, f.b, f.c, f.d, f.e, f.f, f.gg, f.h, f.i]

/-- A queue whose head is an unguarded-off `barrier` has reached it (R312, R333). -/
def Blk.reachBarrier (a : Aon) (b : Blk) (p : Site) (f : RFields) : Blk :=
  if b.open a p && !(b.que p).pairOpen && b.regsFree p.ctx f.g [] && (b.ctx p.ctx).guard f.g && !b.behindBarrier p && !b.behindFlip p && !barrierBad f then
    b.modQue p fun u => { u with barrier := some f.m }
  else b

/-- A barrier issues once every queue it names has reached one with the same mask and all they issued earlier has
completed; the queues that have reached it pass together, each at 1 cycle (R312). -/
def execBarrier (p : Site) (f : RFields) (s : State) : Host.Outcome State Fault Refusal :=
  s.block fun a b => (b.reachBarrier a p f).issueNow a p (encR 0x19 f) f.g .other (barrierBad f) []
    fun b x _ =>
      let qs := x.barrierSet p f.m
      let others := qs.filter (· != p.queue)
      { wait := b.slotsFor a p < qs.length
          || (maskQueues f.m).any fun q => !(q = p.queue || x.atBarrier f.m q) || b.unfinished p.ctx q,
        faults := (others.filterMap fun q => (x.que q).overCap 1).map fLoopCap,
        act := fun b => others.foldl (fun b q =>
          let r : Site := ⟨p.ctx, q⟩
          ((b.passTime r 1).takeSlot r 1).modQue r fun u => (u.runNext .other 1).goto (u.pc + 1)) b }

/-- A reserved opcode faults at issue whatever its guard (R324, R325); behind a `comet.barrier` it does not issue (09 R247). -/
def execReservedOpcode (p : Site) (w : Quad) (s : State) : Host.Outcome State Fault Refusal :=
  s.block fun a b =>
    if !b.open a p || (b.que p).pairOpen || listedOpcode (opcodeOf w) then b
    else if b.behindBarrier p then b.hold p (some (.comet p.queue))
    else b.fault p (b.que p).pc w fBadOpcode

end Sys2Proof.Machine
end

