-- ==== Sys2Proof/Machine/Observe.lean ====
section
/-! DEFINITION. Observe: the ephemeris: observations, receive sizes, moon plans and the prefetch set (04 R109 to
R122). -/

namespace Sys2Proof.Machine
open Sys2Proof

/-! ### Histories (R118, R120, R121) -/

/-- update(m, v, q) with shift a. -/
def histUpdate (first : Bool) (a : Nat) (m v q : Nat) : Nat × Nat :=
  if first then (q, 0)
  else
    let dlt : Int := (q : Int) - (m : Int)
    let p : Int := ((2 ^ a : Nat) : Int)
    (((m : Int) + dlt / p).toNat, ((v : Int) + ((dlt.natAbs : Int) - (v : Int)) / p).toNat)

/-- Update the pairs of histories of some keys. -/
def histAll (first : Bool) (a : Nat) (keys : List Nat) (q : Nat → Nat) (m v : Tab Nat) : Tab Nat × Tab Nat :=
  keys.foldl (fun st e =>
    let r := histUpdate first a (st.1.get e 0) (st.2.get e 0) (q e)
    (st.1.put e r.1, st.2.put e r.2)) (m, v)

/-- P_d of an expert. -/
def Eph.pd (x : Eph) (e : Nat) : Nat := Nat.min (x.md.get e 0 + 2 * x.vd.get e 0) 65536

/-- The experts whose primary slot this instance owns. -/
def Blk.ownedExperts (b : Blk) (prim : List SlotEnt) : List Nat :=
  (prim.filter fun e => e.owner = b.self).map fun e => e.expert.toNat

/-- The histories after an observation. -/
def Eph.observe (x : Eph) (o : Obs) (owned : List Nat) : Eph :=
  let first := x.steps = 0
  let a := polShift o.policy
  let tk := o.t * o.k
  let d := histAll first a ((List.range o.primary.length)) (fun e => if tk = 0 then 0 else o.demand.get e 0 * 65536 / tk) x.md x.vd
  let q := sumL (owned.map fun e => o.received.get e 0)
  let r := histAll first a owned (fun e => if q = 0 then 0 else o.received.get e 0 * 65536 / q) x.mr x.vr
  let steps := if x.steps.toNat < 2 then x.steps + 1 else x.steps
  { x with md := d.1, vd := d.2, mr := r.1, vr := r.2, steps := steps, warm := x.warm || steps = 2,
           frozen := polFreeze o.policy, lastQ := q, lastTk := tk, experts := o.primary.length, observing := x.observing.drop 1 }

/-- Receive sizes of the owned primary slots while WARM (R120). -/
def Eph.resize (x : Eph) (owned : List Nat) : Eph :=
  if x.warm then { x with sizes := owned.map fun e => (e, ceilDiv (x.pr e * x.lastQ) 65536 + 32) } else x

/-- The prefetch set (R121). -/
def Eph.setPrefetch (x : Eph) (policy : Word) (owned : List Nat) : Eph :=
  { x with prefetch := if x.warm && polPrefetch policy then
      (owned.filter fun e => 16384 ≤ x.pr e * x.experts).map (BitVec.ofNat 11) else [] }

/-! ### Moon plans (R110 to R115) -/

/-- want(e) (R111). -/
def Eph.want (x : Eph) (policy : Word) (e : Nat) : Nat :=
  if !x.warm || polPolicy policy != 2 || polFreeze policy then 0
  else Nat.min 3 (ceilDiv (x.pd e * x.experts) (1024 * polCf policy) - 1)

/-- Order of the moons in a view: expert, then die (R109). -/
def viewOrder (l : List Moon) : List Moon :=
  sortBy (fun x y => x.expert.toNat < y.expert.toNat || (x.expert = y.expert && x.die.toNat < y.die.toNat)) l

def moonsOf (plan : List Moon) (e : Nat) : Nat := (plan.filter fun m => m.expert.toNat = e).length

/-- Berths of a die (R110). -/
def Blk.berths (b : Blk) (n : PartId) (die : BitVec 2) : Nat :=
  fld (b.reg 0x110 n.toNat) (8 * die.toNat + 7) (8 * die.toNat)

/-- Ephemerides of a partition, with their layers. -/
def Blk.partEphs (b : Blk) (n : PartId) : List (Nat × Eph) :=
  (b.ephs.filter fun e => e.1 / 256 = n.toNat).map fun e => (e.1 % 256, e.2)

/-- Berths of a die that a plan, a view to come, or a dispatch not yet retired holds (R115). -/
def Blk.usedBerths (b : Blk) (n : PartId) (die : BitVec 2) : List Nat :=
  let inEphs := (b.partEphs n).flatMap fun e => e.2.plan ++ e.2.viewNow ++ ((e.2.views.filter fun v => e.2.opens ≤ v.1).flatMap (·.2))
  let inDisps := (b.disps.filter fun d => d.part = n).flatMap (·.moons)
  ((inEphs ++ inDisps).filter fun m => m.die = die).map fun m => m.berth.toNat

/-- The lowest free berth of a die.
DESIGN CHOICE: a moon beyond a shrunken count takes none of the lower berths (log 71). -/
def Blk.freeBerth (b : Blk) (n : PartId) (die : BitVec 2) (taken : List Nat) : Option Nat :=
  (List.range (b.berths n die)).find? fun i => !(b.usedBerths n die).contains i && !taken.contains i

/-- demand(e) for a dispatch's T × k. -/
def Eph.demandOf (x : Eph) (e : Nat) : Nat := ceilDiv (x.pd e * x.lastTk) 65536

/-- Predicted load of one moon of an expert. -/
def Eph.moonLoad (x : Eph) (policy : Word) (e : Nat) : Nat := ceilDiv (x.demandOf e) (1 + x.want policy e)

/-- The load of each die before moons are placed (R112). -/
def Blk.startLoad (b : Blk) (x : Eph) (policy : Word) (prim : List SlotEnt) (plan : List Moon) : Tab Nat :=
  let own := (prim.filter fun e => e.owner = b.self).foldl
    (fun (t : Tab Nat) e => t.upd e.die.toNat 0 (· + x.sizes.get e.expert.toNat 0)) []
  plan.foldl (fun (t : Tab Nat) m => t.upd m.die.toNat 0 (· + x.moonLoad policy m.expert.toNat)) own

/-- Plans and loads while moons are placed. -/
structure Placer where
  plan : List Moon
  load : Tab Nat

/-- Place one moon of an expert where a die allows it (R112). -/
def Blk.placeOne (b : Blk) (n : PartId) (x : Eph) (policy : Word) (prim : List SlotEnt) (e : Nat) (s : Placer) : Placer :=
  if x.want policy e ≤ moonsOf s.plan e || 4096 ≤ prim.length + s.plan.length then s
  else
    let taken := fun (d : BitVec 2) => (s.plan.filter fun m => m.die = d).map fun m => m.berth.toNat
    let open' := dies.filter fun d =>
      (b.freeBerth n d (taken d)).isSome && !(prim.any fun p => p.expert.toNat = e && p.owner = b.self && p.die = d)
        && !(s.plan.any fun m => m.expert.toNat = e && m.die = d)
    match bestBy (fun (p q : BitVec 2) => s.load.get p.toNat 0 < s.load.get q.toNat 0) open' with
    | none => s
    | some d =>
      match b.freeBerth n d (taken d) with
      | none => s
      | some k =>
        { plan := s.plan ++ [{ expert := BitVec.ofNat 11 e, die := d, berth := BitVec.ofNat 8 k, staged := false, failed := false,
                               stale := false, stamp := 0 }],
          load := s.load.upd d.toNat 0 (· + x.moonLoad policy e) }

/-- Experts in descending P_d, ties to the lower index. -/
def Eph.byDemand (x : Eph) : List Nat := sortBy (fun p q => x.pd q < x.pd p) (List.range x.experts)

/-- Retire moons of the experts whose want has been below their count at two observations: down to want, the
highest die first (R115). -/
def Eph.retireMoons (x : Eph) (policy : Word) (plan : List Moon) : List Moon :=
  let surplus := fun (e : Nat) => if x.below.contains (BitVec.ofNat 11 e) then moonsOf plan e - x.want policy e else 0
  plan.filter fun m =>
    let e := m.expert.toNat
    (plan.filter fun y => y.expert = m.expert && m.die.toNat < y.die.toNat).length ≥ surplus e

/-- Moons of a die that no longer fit its berths, over all layers of the partition: highest slot index first,
ties to the higher layer (R110). -/
def Blk.unfit (b : Blk) (n : PartId) (die : BitVec 2) : List (Nat × Moon) :=
  let all := (b.partEphs n).flatMap fun e =>
    ((viewOrder e.2.plan).zipIdx.filter fun q => q.1.die = die).map fun q => (e.2.experts + q.2, e.1, q.1)
  let order := sortBy (fun (p q : Nat × Nat × Moon) => q.1 < p.1 || (p.1 = q.1 && q.2.1 < p.2.1)) all
  (order.take (all.length - b.berths n die)).map fun q => (q.2.1, q.2.2)

/-- Retire the moons for which berths are gone; they leave from the second dispatch that opens (R110). -/
def Blk.fitBerths (b : Blk) (n : PartId) : Blk :=
  let gone := dies.flatMap (b.unfit n)
  if gone.isEmpty then b
  else
    { b with ephs := b.ephs.map fun e =>
        if e.1 / 256 = n.toNat && gone.any (fun g => g.1 = e.1 % 256) then
          let plan := e.2.plan.filter fun m => !(gone.any fun g => g.1 = e.1 % 256 && g.2.expert = m.expert && g.2.die = m.die)
          (e.1, { e.2 with plan := plan, views := e.2.views ++ [(e.2.opens + 1, viewOrder plan)] })
        else e }

/-- A moon's staging fails: its choices go to the primary, and MOON_FAILED is raised (R114). -/
def Blk.failMoon (b : Blk) (n : PartId) (l : Layer) (m : Moon) : Blk :=
  let hit := fun (y : Moon) => if y.expert = m.expert && y.die = m.die && y.berth = m.berth then { y with failed := true } else y
  let b := b.setEph n l ((b.eph n l).modMoons hit)
  let b : Blk :=
    { b with disps := b.disps.map fun d => if d.part = n && d.layer = l then { d with moons := d.moons.map hit } else d }
  b.event 0x83

/-- Stage a plan's new moons. Staging fails where the owner's copy cannot be had: the own home copy is not
there or unreadable, or no route leads from the owner (R113, R114). -/
def Blk.stagePlan (b : Blk) (n : PartId) (l : Layer) (prim : List SlotEnt) (new : List Moon) : Blk :=
  new.foldl (fun b m =>
    match prim.find? fun p => p.expert = m.expert with
    | none => b
    | some p =>
      if p.owner = b.self then
        match b.homeCopy n l m.expert with
        | some (at', len, _) => if (b.window at' len).isOk then b.stageMoons n l [m] else b.failMoon n l m
        | none => b.failMoon n l m
      else match b.routeTo (posOf b.self) p.owner with
        | .unreachable => b.failMoon n l m
        | _ => b) b

/-- Recompute the plan of a layer, effective from a dispatch of given number (R112 to R115). -/
def Blk.replan (b : Blk) (n : PartId) (l : Layer) (policy : Word) (prim : List SlotEnt) (from' : Nat) : Blk :=
  let before := (b.eph n l).plan
  let b := b.fitBerths n
  let x := b.eph n l
  let below := fun (plan : List Moon) =>
    ((List.range x.experts).filter fun e => x.want policy e < moonsOf plan e).map (BitVec.ofNat 11)
  if polFreeze policy then b.setEph n l { x with below := below x.plan }
  else
    let good := x.plan.filter fun m => !m.failed
    let kept := x.retireMoons policy good
    let s := x.byDemand.foldl (fun s e => (List.range 3).foldl (fun s _ => b.placeOne n x policy prim e s) s)
      (⟨kept, b.startLoad x policy prim kept⟩ : Placer)
    -- moons whose berths are gone stay in the view of the next dispatch to open (R110)
    let unfit := before.filter fun m => !(x.plan.any fun y => y.expert = m.expert && y.die = m.die)
    let views := (if unfit.isEmpty || x.opens < from' then [] else [(from', viewOrder (s.plan ++ unfit))])
      ++ [(if unfit.isEmpty then from' else Nat.max from' (x.opens + 1), viewOrder s.plan)]
    let b := b.setEph n l { x with plan := s.plan, below := below good, views := x.views ++ views }
    b.stagePlan n l prim (s.plan.drop kept.length)

/-! ### OBSERVATION (R118, R122) -/

/-- Receive sizes, plan and prefetch set, in that order (R118). -/
def Blk.afterHistories (b : Blk) (n : PartId) (l : Layer) (policy : Word) (prim : List SlotEnt) (from' : Nat) : Blk :=
  let owned := b.ownedExperts prim
  let x := b.eph n l
  let b := b.setEph n l (if polFreeze policy then x else x.resize owned)
  let b := b.replan n l policy prim from'
  b.setEph n l ((b.eph n l).setPrefetch policy owned)

/-- The observation of a (partition, layer) completes. -/
def Blk.observed (b : Blk) (n : PartId) (l : Layer) (o : Obs) : Blk :=
  let b := b.setEph n l ((b.eph n l).observe o (b.ownedExperts o.primary))
  b.afterHistories n l o.policy o.primary (Nat.max (o.openIx + 2) (b.eph n l).opens)

def execObservation (n : PartId) (l : Layer) (s : State) : Host.Outcome State Fault Refusal :=
  s.block fun _ b =>
    match (b.eph n l).observing with
    | [] => b
    | o :: _ => Blk.settle b (b.observed n l o)

end Sys2Proof.Machine
end

