-- ==== Sys2Proof/Machine/Fold.lean ====
section
/-! DEFINITION. Fold: the wire formats of folds (08 R220, R236), what a member contributes (08 R49 of 02, R219,
R235), what it emits and when (08 R217 to R222, R234), and `fold.start`, `fold.wait` and `fold.settle` (08 R209
to R216, R232). -/

namespace Sys2Proof.Machine
open Sys2Proof

/-- FOLD_FAULT with its reason; detail B holds the collective ID (R230; 13 R350). -/
def fFold (reason : Nat) (id : Word) : Flt := flt 0x16 reason id.toNat

/-! ### Wire formats (R220, R236) -/

/-- The words a wire format carries for FP32 words: FP32 words and grid values stand as they are, BF16 as its
code, a block-scaled element as its byte with its scale above; and how many conversions saturated. -/
def toWire (wire : Nat) (sat : Bool) (xs : List Word) : List Word × Nat :=
  if wire = 1 then (xs.map fun x => BitVec.ofNat 32 (narrowElem 0 sat x).1, 0)
  else if wire = 2 || wire = 3 then
    let qs := (pieces 32 xs).map (quantBlock (fmtOf wire) sat)
    (qs.flatMap fun q => q.1.map fun b => BitVec.ofNat 32 (b.toNat + 256 * q.2.1.toNat), sumL (qs.map (·.2.2)))
  else (xs, 0)

/-- The FP32 words, or grid values, of wire words. -/
def ofWire (wire : Nat) (xs : List Word) : List Word :=
  if wire = 1 then xs.map fun x => widenElem 0 x.toNat
  else if wire = 2 || wire = 3 then xs.map fun x => toF32 (scaled ((fmtOf wire).val (x.toNat % 256)) (x.toNat / 256))
  else xs

/-- The payload bytes of wire words. -/
def wireBytes (wire : Nat) (xs : List Word) : List Byte :=
  if wire = 1 then xs.flatMap fun x => toLe 2 x.toNat
  else if wire = 2 || wire = 3 then
    (xs.map fun x => BitVec.ofNat 8 x.toNat) ++ (pieces 32 xs).map fun p => BitVec.ofNat 8 ((p.headD 0).toNat / 256)
  else xs.flatMap fun x => toLe 4 x.toNat

/-- Elements of a payload. -/
def wireElems (wire bytes : Nat) : Nat :=
  if wire = 1 then bytes / 2 else if wire = 2 || wire = 3 then bytes * 32 / 33 else bytes / 4

/-- The wire words of a payload. -/
def parseWire (wire : Nat) (bs : List Byte) : List Word :=
  let n := wireElems wire bs.length
  if wire = 2 || wire = 3 then
    (List.range n).map fun i => BitVec.ofNat 32 ((bs.getD i 0).toNat + 256 * (bs.getD (n + i / 32) 0).toNat)
  else
    let e := if wire = 1 then 2 else 4
    (List.range n).map fun i => BitVec.ofNat 32 (leNat ((bs.drop (e * i)).take e))

/-- Replace a run of a list. -/
def splice {α : Type} (l : List α) (at' : Nat) (xs : List α) : List α := l.take at' ++ xs ++ l.drop (at' + xs.length)

/-! ### Rings and steps (R206, R217) -/

def Seat.grp (s : Seat) : BitVec 4 := s.entry.getD 0

/-- The wire code of a stage of a seat's collective. -/
def Blk.wireOf (b : Blk) (s : Seat) (stage : Nat) : Nat :=
  if s.ordered then 4 else if stage = 2 then (b.grp s.grp).wire else 0

/-- Number of a stage's ring among the credits: 0 FLAT, 1 package, 2 rail. -/
def ringNo (stage : Nat) : Nat := if stage = 3 then 1 else stage

/-- The segment `k` places behind a ring index, as the direction runs. -/
def segAt (n r k : Nat) (back : Bool) : Nat := if back then (r + k) % n else (r + n - k % n) % n

/-- The segment that a step received at ring index `r` carries (R217, log 20). -/
def segOf (n r : Nat) (phase : Bool) (step : Nat) (back : Bool) : Nat := segAt n r (if phase then step else step + 1) back

/-- Whether a stage of a collective gathers after it reduces. -/
def Seat.twoPhase (s : Seat) (stage : Nat) : Bool := s.kind = 0 && (stage = 0 || stage = 2)

/-- Links that a chunk received at a step has crossed in its stage (R223, log 20). -/
def Seat.links (s : Seat) (stage n : Nat) (phase : Bool) (step : Nat) : Nat :=
  if phase && s.twoPhase stage then n - 1 + step else step

/-- Piece size of a seat in units of 4,096 elements; 0 where it is to be retired (R233). -/
def Seat.pieceUnits (s : Seat) : Nat := if 128 ≤ s.good then 4 else Nat.min 3 (s.good / 32)

/-! ### What a member contributes -/

/-- The exponent of a block (R49): 1 where no element has one. -/
def Seat.gridAt (s : Seat) (elem : Nat) : Nat := Nat.max 1 (s.exps.get (elem / 32) 1)

def Seat.toGrid (s : Seat) (first : Nat) (ws : List Word) : List Word :=
  if s.ordered then ws.zipIdx.map fun p => gridOf (s.gridAt (first + p.2)) p.1 else ws

/-- Elements of src as FP32 words (R219). -/
def Blk.foldSrc (b : Blk) (s : Seat) (run : Nat × Nat) : Except Flt (List Word) :=
  (b.loadFlat s.part s.src (b.srcElem s run.1 * s.src.e) (run.2 * s.src.e)).map fun bs => decodeRow s.src.fmt run.2 bs

/-- First word of a local buffer in the fold memory: 128 KiB a seat, 64 KiB a buffer. -/
def bufWord (n : BitVec 4) (slot : Nat) : Nat := n.toNat * 32768 + slot * 16384

/-- A run of a chunk stands in a local buffer. -/
def LocalBuf.covers (x : LocalBuf) (stage : Nat) (i : BitVec 24) (first len : Nat) : Bool :=
  x.stage.toNat = stage && x.index = i && x.first ≤ first && first + len ≤ x.first + x.data.length

/-- The local buffer of a seat that holds a run of a chunk. -/
def Seat.bufOf (s : Seat) (stage : Nat) (i : BitVec 24) (first len : Nat) : Option LocalBuf :=
  s.bufs.find? fun x => x.covers stage i first len

/-- Elements that a local buffer takes: a chunk, or in cut-up w pieces (R219, R233). -/
def Seat.bufElems (s : Seat) : Nat := 4096 * Nat.max 1 s.pieceUnits

/-- A run of a chunk of src is read into a local buffer (R219): the one that is not in use, whose words are written anew. -/
def Blk.loadBuf (b : Blk) (n : BitVec 4) (own : Bool) (stage : Nat) (i : BitVec 24) (first len : Nat) : Except Flt Blk :=
  let s := b.seat n
  (b.foldSrc s ((b.chunkRun s stage i).1 + first, len)).map fun ws =>
    let slot := b01 (s.bufs.any fun x => x.slot = 0)
    let at' := bufWord n slot
    let b : Blk := { b with mem := b.mem.freshen 17 fun w => at' ≤ w && w < at' + 16384 }
    b.setSeat n { s with bufs := s.bufs ++ [⟨own, slot, BitVec.ofNat 2 stage, i, first, ws⟩] }

/-- Words of a local buffer, `first` an element of the chunk, as they are read: an uncorrectable one raises UNCORRECTABLE
(R229; 02 R55). -/
def Blk.readBuf (b : Blk) (n : BitVec 4) (x : LocalBuf) (first len : Nat) : Blk × Except Flt (List Word) :=
  let at' := bufWord n x.slot + (first - x.first)
  let r := b.readArray 17 fun w => at' ≤ w && w < at' + len
  (r.1, if r.2 then .error (flt 0x10 17)
    else .ok (((x.data.drop (first - x.first)).take len).zipIdx.map fun p => b.mem.arrayWord 17 (at' + p.2) p.1))

/-- The local buffers that hold nothing of a chunk beyond an element are free again. -/
def Seat.dropBuf (s : Seat) (stage : Nat) (i : BitVec 24) (done : Nat) : Seat :=
  { s with bufs := s.bufs.filter fun x => !(x.stage.toNat = stage && x.index = i && x.first + x.data.length ≤ done) }

/-- Whether stage 2 takes what a package stage summed. -/
def Blk.fromSums (b : Blk) (s : Seat) (stage : Nat) : Bool := stage = 2 && s.kind != 2 && (b.grp s.grp).m != 1

/-- A seat's own contribution to a run of a chunk: what an earlier stage produced, or its src by way of the chunk's local
buffer, which is loaded where it is not yet: whole, in cut-up the run alone (R219, R233). -/
def Blk.ownData (b : Blk) (n : BitVec 4) (stage : Nat) (i : BitVec 24) (run : Nat × Nat) : Blk × Except Flt (List Word) :=
  let s := b.seat n
  let chunk := b.chunkRun s stage i
  let first := run.1 - chunk.1
  if b.fromSums s stage then (b, .ok ((List.range run.2).map fun i => s.sums.get (run.1 + i) 0))
  else if stage = 3 then (b, .ok ((List.range run.2).map fun i => s.results.get (run.1 + i) 0))
  else
    match (if (s.bufOf stage i first run.2).isSome then .ok b
      else if chunk.2 ≤ s.bufElems then b.loadBuf n false stage i 0 chunk.2 else b.loadBuf n false stage i first run.2) with
    | .error e => (b, .error e)
    | .ok c =>
      match (c.seat n).bufOf stage i first run.2 with
      | none => (c, .ok [])
      | some x =>
        let r := c.readBuf n x first run.2
        (r.1, r.2.map (s.toGrid run.1))

/-- The fold of two words (R49, R217; MAX under R44, over grid values by their signed order). -/
def Seat.foldOp (s : Seat) (x y : Word) : Word :=
  if s.ordered then (if s.op then (if x.slt y then y else x) else gridAdd x y)
  else if s.op then f32Max x y else f32Add x y

/-- A folded run, and the NaNs made from operands that are none (02 R39). -/
def Seat.foldRun (s : Seat) (xs ys : List Word) : List Word × Nat :=
  let zs := (xs.zip ys).map fun p => (p, s.foldOp p.1 p.2)
  let isNaN := fun (w : Word) => if s.ordered then w = gridNaN else isNaN32 w
  (zs.map (·.2), (zs.filter fun z => isNaN z.2 && !isNaN z.1.1 && !isNaN z.1.2).length)

/-! ### Results -/

/-- Every seat of a collective takes what a stage produced: the directions cut segments differently. -/
def Blk.modSeats (b : Blk) (id : Word) (f : Seat → Seat) : Blk :=
  (b.seatsOf id).foldl (fun b n => b.setSeat n (f (b.seat n))) b

def putRun (t : Tab Word) (first : Nat) (ws : List Word) : Tab Word :=
  ws.zipIdx.foldl (fun t p => t.put (first + p.2) p.1) t

/-- Write result words of a stage to dst (R217, R236). -/
def Blk.writeDst (b : Blk) (s : Seat) (first : Nat) (ws : List Word) : Except Flt Blk :=
  let xs := if s.ordered then ws.zipIdx.map fun p => gridResult (s.gridAt (first + p.2)) p.1 else ws
  let e := encodeRow s.dst.fmt (saturates s.arith) xs
  (b.storeFlat s.part s.dst (b.dstElem s first * s.dst.e) e.1).foldl (fun r x =>
    match r, x with
    | .error e, _ => .error e
    | .ok b, .write sp a bs => (b.noteWrite sp a bs.length).wrSpace (some s.ctx) sp a bs
    | .ok _, .fault e => .error e
    | .ok b, _ => .ok b) (.ok (b.countConv s.ctx e.2 (encodeNans s.dst.fmt (saturates s.arith) xs)))

/-- Copy emitted partials to stage (R219). -/
def Blk.writeStage (b : Blk) (s : Seat) (first : Nat) (ws : List Word) : Except Flt Blk :=
  match s.stage with
  | none => .ok b
  | some d =>
    (b.storeFlat s.part d (4 * first) (ws.flatMap fun w => toLe 4 w.toNat)).foldl (fun r x =>
      match r, x with
      | .error e, _ => .error e
      | .ok b, .write sp a bs => (b.noteWrite sp a bs.length).wrSpace (some s.ctx) sp a bs
      | .ok _, .fault e => .error e
      | .ok b, _ => .ok b) (.ok b)

/-- A chunk is a result of the collective (R211, R218, R235). -/
def Blk.isResult (b : Blk) (s : Seat) (stage seg : Nat) (phase : Bool) : Bool :=
  (b.resultParts s).contains (stage, seg) && (phase || s.kind = 1)

/-! ### Chunk records -/

def Chunk.is (c : Chunk) (stage : Nat) (phase : Bool) (i : BitVec 24) : Bool :=
  c.stage.toNat = stage && c.phase = phase && c.index = i

def Seat.chunkOf (s : Seat) (stage : Nat) (phase : Bool) (i : BitVec 24) : Option Chunk :=
  s.chunks.find? fun c => c.is stage phase i

def Seat.putChunk (s : Seat) (c : Chunk) : Seat :=
  if (s.chunkOf c.stage.toNat c.phase c.index).isSome then
    { s with chunks := s.chunks.map fun y => if y.is c.stage.toNat c.phase c.index then c else y }
  else { s with chunks := s.chunks ++ [c] }

/-- Elements of a chunk that are there. -/
def Chunk.got (c : Chunk) : Nat := sumL (c.pieces.map (·.len))

/-- A chunk that starts at this member. -/
def Blk.ownChunk (b : Blk) (s : Seat) (stage : Nat) (phase : Bool) (i : BitVec 24) (data : List Word) (verified : Nat) : Chunk :=
  { stage := BitVec.ofNat 2 stage, phase := phase, index := i, step := 0, pieces := [⟨0, 0, data.length, verified, 0, true, false, 0⟩],
    out := 0, data := data, final := b.isResult s stage (ixSeg i) phase, written := false, settled := false }

/-! ### Emission (R217, R220, R221, R234) -/

/-- Elements of a piece sent to the successor of a ring: the smaller of the two sizes. -/
def Seat.outPiece (s : Seat) (stage : Nat) : Nat := 4096 * Nat.min s.pieceUnits (s.pieceOut.get (ringNo stage) 4)

/-- Pieces received that a run of elements overlaps. -/
def Chunk.under (c : Chunk) (first len : Nat) : List Piece := c.pieces.filter fun p => meet p.first p.len first len

def leastL : List Nat → Nat
  | [] => 0
  | x :: rest => rest.foldl Nat.min x

/-- Words of a stage narrowed to its wire format under the bound arithmetic, with the saturations and the NaNs made counted
(02 R39, R46; R236). -/
def Blk.narrowed (b : Blk) (s : Seat) (wire : Nat) (xs : List Word) : Blk × List Word :=
  let ws := toWire wire (saturates s.arith) xs
  let nans := if wire < 2 || 3 < wire then 0 else encodeNans (wire + 3) (saturates s.arith) xs
  (b.countConv s.ctx ws.2 nans, ws.1)

/-- Emit piece `no` of a chunk to the successor, at the revision of what it holds or at a given one. -/
def Blk.emitPiece (b : Blk) (n : BitVec 4) (c : Chunk) (no : Nat) (rev : Option Nat := none) : Blk :=
  let s := b.seat n
  let stage := c.stage.toNat
  let ring := b.ringOf s.grp stage
  let size := Nat.max 1 (s.outPiece stage)
  let first := no * size
  let len := Nat.min size (c.data.length - first)
  let wire := b.wireOf s stage
  let part := (c.data.drop first).take len
  let r := if c.phase then (b, part) else b.narrowed s wire part
  let b := r.1
  let bytes := wireBytes wire r.2
  let ps := c.under first len
  match neighbour ring (b.ixIn ring) s.dir with
  | none => b
  | some aim =>
    let h : FoldHdr := { b.foldHdr s 1 stage aim with
      piece := BitVec.ofNat 2 no, phase := c.phase, bytes := BitVec.ofNat 17 bytes.length, chunk := c.index,
      step := BitVec.ofNat 10 (c.step + 1), rev := BitVec.ofNat 6 (rev.getD (maxL (ps.map (·.rev)))) }
    b.sendFold (some s.ctx) s.grp ⟨h, bytes, crc32c bytes, BitVec.ofNat 10 (leastL (ps.map (·.verified)))⟩

/-- Whether this member sends a chunk on: the last step of a phase is not sent (R217, R218). -/
def Blk.emits (b : Blk) (s : Seat) (c : Chunk) : Bool := c.step + 1 < (b.ringOf s.grp c.stage.toNat).length

/-- Chunks of a ring that a member receives, of both phases (R217, R218, R235). -/
def Blk.toReceive (b : Blk) (s : Seat) (ring : Nat) : Nat :=
  let stages := if ring = 1 then [1, 3] else [ring]
  sumL (stages.map fun st =>
    let n := (b.ringOf s.grp st).length
    let r := b.ixIn (b.ringOf s.grp st)
    let count := fun (phase : Bool) => sumL ((List.range (n - 1)).map fun k => b.partChunks s st (segOf n r phase (k + 1) s.dir))
    (if st != 3 && s.kind != 2 then count false else 0)
      + (if (st = 3 && s.kind != 1) || s.twoPhase st || (s.kind = 2 && st != 1) then count true else 0))

/-- Chunks of a ring received and folded, so that their local buffers are free (R219). -/
def Seat.doneChunks (s : Seat) (ring : Nat) : Nat :=
  (s.chunks.filter fun c => ringNo c.stage.toNat = ring && c.step != 0 && c.got = c.data.length).length

/-- Send FREADY to the predecessor of a ring: credit, and this seat's piece size over bits [25:23] (R212, R215,
R234). Bit 14 of its chunk index tells the direction, which those bits leave no room for (log 21). -/
def Blk.grantFold (b : Blk) (n : BitVec 4) (stage count : Nat) : Blk :=
  let s := b.seat n
  let ring := b.ringOf s.grp stage
  match neighbour ring (b.ixIn ring) (!s.dir) with
  | none => b
  | some aim =>
    let u := s.pieceUnits
    b.sendFold (some s.ctx) s.grp
      ⟨{ b.foldHdr s 2 stage aim with
          dir := bit u 2, piece := BitVec.ofNat 2 u, bytes := BitVec.ofNat 17 count, chunk := chunkIx 0 s.dir 0 }, [], 0, 0⟩

/-- A chunk has been folded: its local buffer is free, and one more chunk is granted while more are to come. -/
def Blk.bufferFree (b : Blk) (n : BitVec 4) (ring : Nat) : Blk :=
  let s := b.seat n
  if s.doneChunks ring + 2 ≤ b.toReceive s ring then b.grantFold n ring 1 else b

/-- Emit the next piece of a chunk; its first piece takes a credit, and with the last of an own chunk its local buffer is
free. -/
def Blk.emitChunk (b : Blk) (n : BitVec 4) (c : Chunk) : Blk :=
  let s := b.seat n
  let stage := c.stage.toNat
  let size := Nat.max 1 (s.outPiece stage)
  let b := b.emitPiece n c (c.out / size)
  let c' := { c with out := Nat.min c.data.length ((c.out / size + 1) * size) }
  let s' := s.putChunk c'
  let s' := { s' with st := if s'.st == .bound then .running else s'.st,
                      credit := if c.out = 0 then s'.credit.upd (ringNo stage) 0 (· - 1) else s'.credit }
  b.setSeat n (if c'.step = 0 then s'.dropBuf stage c'.index c'.out else s')

def allIn {α : Type} (t : Tab α) (keys : List Nat) : Bool := keys.all fun k => (t.find k).isSome

def runKeys (run : Nat × Nat) : List Nat := (List.range run.2).map (· + run.1)
def runBlocks (run : Nat × Nat) : List Nat := (List.range (ceilDiv run.2 32)).map (· + run.1 / 32)

/-- Whether the exponents of a run are agreed here, as ORDERED asks of data that leaves or is folded (R222). -/
def Seat.agreed (s : Seat) (run : Nat × Nat) : Bool := !s.ordered || allIn s.exps (runBlocks run)

/-- Whether the next piece of a chunk can leave. -/
def Blk.canEmit (b : Blk) (s : Seat) (c : Chunk) : Bool :=
  let size := Nat.max 1 (s.outPiece c.stage.toNat)
  s.agreed (b.chunkRun s c.stage.toNat c.index) && b.emits s c && c.out < c.data.length && Nat.min c.data.length ((c.out / size + 1) * size) ≤ c.got
    && (c.out != 0 || s.credit.get (ringNo c.stage.toNat) 0 != 0)

/-! ### A member's own chunks (R217 to R219, R222, R235) -/

/-- The stages at which a member starts chunks of its own, with their phase and segment. -/
def Blk.ownStarts (b : Blk) (s : Seat) : List (Nat × Bool × Nat) :=
  let seg := fun (st k : Nat) => let l := b.ringOf s.grp st
    segAt l.length (b.ixIn l) k s.dir
  let tiered := (b.grp s.grp).tiered
  let l := if s.kind = 2 then (if tiered then [(2, true, seg 2 0), (3, true, seg 3 0)] else [(0, true, seg 0 0)])
    else if !tiered then [(0, false, seg 0 1)]
    else [(1, false, seg 1 1), (2, false, seg 2 1)] ++ if s.kind = 0 then [(3, true, seg 3 0)] else []
  l.filter fun t => 1 < (b.ringOf s.grp t.1).length

/-- Whether a stage's own chunks come from src through the local buffers. -/
def Blk.fromSrc (b : Blk) (s : Seat) (stage : Nat) : Bool := stage != 3 && !b.fromSums s stage

/-- Elements of an own chunk that the seat has taken up so far. -/
def Seat.begun (s : Seat) (stage : Nat) (phase : Bool) (i : BitVec 24) : Nat :=
  match s.chunkOf stage phase i with
  | some c => c.got
  | none => 0

/-- The local buffer that holds the next run of an own chunk. -/
def Seat.ownBuf (s : Seat) (stage : Nat) (phase : Bool) (i : BitVec 24) : Option LocalBuf :=
  s.bufs.find? fun x => x.own && x.stage.toNat = stage && x.index = i && x.first = s.begun stage phase i

/-- Whether own chunk `j` of a stage may leave: the next of it is loaded, or its stage has produced it, and under ORDERED
its exponents are agreed. -/
def Blk.ownReady (b : Blk) (s : Seat) (stage : Nat) (phase : Bool) (i : BitVec 24) : Bool :=
  let run := b.chunkRun s stage i
  (if b.fromSrc s stage then (s.ownBuf stage phase i).isSome
    else if stage = 3 then allIn s.results (runKeys run) else allIn s.sums (runKeys run))
    && s.agreed run

/-- The next own chunk that may leave. -/
def Blk.nextOwn (b : Blk) (s : Seat) : Option (Nat × Bool × BitVec 24) :=
  (b.ownStarts s).findSome? fun t =>
    let j := s.sent.get t.1 0
    let i := chunkIx t.2.2 s.dir j
    if j < b.partChunks s t.1 t.2.2 && (s.credit.get (ringNo t.1) 0 != 0 || s.begun t.1 t.2.1 i != 0) && b.ownReady s t.1 t.2.1 i
    then some (t.1, t.2.1, i) else none

/-- Take up an own chunk, or the next of it that a local buffer holds; a chunk of an ALL_GATHER's own segment is a result and
is written here (R218, R236). -/
def Blk.makeOwn (b : Blk) (n : BitVec 4) (stage : Nat) (phase : Bool) (i : BitVec 24) : Blk :=
  let s := b.seat n
  let chunk := b.chunkRun s stage i
  let first := s.begun stage phase i
  let run := match s.ownBuf stage phase i with
    | some x => (chunk.1 + first, x.data.length)
    | none => chunk
  match b.ownData n stage i run with
  | (b, .error e) => b.ctxFault s.ctx e
  | (b, .ok xs) =>
    let wire := b.wireOf s stage
    let r := if phase then b.narrowed s wire xs else (b, xs)
    let b := r.1
    let ws := r.2
    let old := (s.chunkOf stage phase i).getD { b.ownChunk s stage phase i (List.replicate chunk.2 0) 0 with pieces := [] }
    let whole := first + ws.length = chunk.2
    let c := { old with data := splice old.data first ws,
                        pieces := old.pieces ++ [⟨old.pieces.length, first, ws.length, 0, 0, true, phase && stage != 3, 0⟩] }
    let s := { b.seat n with sent := if whole then s.sent.upd stage 0 (· + 1) else s.sent }
    if phase && stage != 3 then
      match b.writeDst s run.1 (ofWire wire ws) with
      | .error e => b.ctxFault s.ctx e
      | .ok b =>
        let b := b.setSeat n (s.putChunk { c with written := whole, settled := whole })
        if stage = 2 then b.modSeats s.id fun y => { y with results := putRun y.results run.1 (ofWire wire ws) } else b
    else b.setSeat n (s.putChunk c)

/-- Largest exponents of the blocks of a member's own contribution (R49). -/
def Blk.ownExps (b : Blk) (s : Seat) (stage : Nat) (run : Nat × Nat) : Except Flt (List Nat) :=
  if b.fromSums s stage then .ok ((runBlocks run).map fun k => s.exp1.get k 0)
  else if stage = 3 then .ok ((runBlocks run).map fun k => s.exps.get k 0)
  else (b.foldSrc s run).map fun ws => (pieces 32 ws).map fun p => maxL (p.map gridExp)

/-- The stages of the exponent pass at which a member starts (R222): every member learns every exponent. -/
def Blk.expStarts (b : Blk) (s : Seat) : List (Nat × Bool × Nat) :=
  let seg := fun (st k : Nat) => let l := b.ringOf s.grp st
    segAt l.length (b.ixIn l) k s.dir
  let l := b.ownStarts s
  if (b.grp s.grp).tiered && s.kind = 1 && 1 < (b.ringOf s.grp 3).length then l ++ [(3, true, seg 3 0)] else l

/-- The next own exponents that may leave: one chunk ahead of the data (R222). -/
def Blk.nextExp (b : Blk) (s : Seat) : Option (Nat × Bool × BitVec 24) :=
  if !s.ordered then none
  else (b.expStarts s).findSome? fun t =>
    let j := s.expSent.get t.1 0
    let i := chunkIx t.2.2 s.dir j
    let run := b.chunkRun s t.1 i
    let ready := if b.fromSrc s t.1 then j < s.sent.get t.1 0 + 2
      else if t.1 = 3 then allIn s.exps (runBlocks run) else allIn s.exp1 (runBlocks run)
    if j < b.partChunks s t.1 t.2.2 && ready then some (t.1, t.2.1, i) else none

/-- Send an exponent packet to the successor. -/
def Blk.sendExp (b : Blk) (n : BitVec 4) (stage : Nat) (phase : Bool) (i : BitVec 24) (step : Nat) (es : List Nat) : Blk :=
  let s := b.seat n
  let ring := b.ringOf s.grp stage
  match neighbour ring (b.ixIn ring) s.dir with
  | none => b
  | some aim =>
    b.sendFold (some s.ctx) s.grp
      ⟨{ b.foldHdr s 4 stage aim with
          phase := phase, bytes := BitVec.ofNat 17 es.length, chunk := i, step := BitVec.ofNat 10 step },
        es.map (BitVec.ofNat 8), 0, 0⟩

def putBlocks (t : Tab Nat) (run : Nat × Nat) (es : List Nat) : Tab Nat :=
  ((runBlocks run).zip es).foldl (fun t p => t.put p.1 p.2) t

/-- Start an own exponent chunk; the exponents of an ALL_GATHER's own segment are agreed as they leave. -/
def Blk.makeExp (b : Blk) (n : BitVec 4) (stage : Nat) (phase : Bool) (i : BitVec 24) : Blk :=
  let s := b.seat n
  let run := b.chunkRun s stage i
  match b.ownExps s stage run with
  | .error e => b.ctxFault s.ctx e
  | .ok es =>
    let b := b.setSeat n { s with expSent := s.expSent.upd stage 0 (· + 1) }
    let b := if phase && stage != 3 then b.modSeats s.id fun y => { y with exps := putBlocks y.exps run es } else b
    b.sendExp n stage phase i 1 es

/-! ### The pump -/

/-- Whether a seat has sent all that it sends. -/
def Blk.sentAll (b : Blk) (s : Seat) : Bool :=
  (s.chunks.all fun c => !b.emits s c || c.out = c.data.length)
    && (b.ownStarts s).all fun t => s.sent.get t.1 0 = b.partChunks s t.1 t.2.2

/-- Whether a seat has taken, in their final revision, all the chunks that reach it. -/
def Blk.takenAll (b : Blk) (s : Seat) : Bool :=
  (b.liveStages s.grp).all fun st =>
    b.toReceive s st ≤ (s.chunks.filter fun c => ringNo c.stage.toNat = st && c.step != 0 && c.settled).length

/-- A seat's state after a change (R208): GATHERED once every result chunk is written, SETTLED once every chunk is settled: those
of its results, and those that it takes for other members, which it has sent on (log 59). -/
def Blk.seatState (b : Blk) (n : BitVec 4) : Blk :=
  let s := b.seat n
  if !s.busy then b
  else
    let rs := b.resultChunks s none
    let written := rs.all fun p => (s.result p.1 p.2).any (·.written)
    let settled := (rs.all fun p => s.isSettled p.1 p.2) && b.takenAll s && b.sentAll s
    if settled then b.setSeat n { s with st := .settled }
    else if written && s.st == .running then b.setSeat n { s with st := .gathered } else b

/-- One thing a seat sends: forwarded data first, then own chunks under way, exponents, and the next own
chunk (R217, R222). -/
def Blk.pumpOne (b : Blk) (n : BitVec 4) : Option Blk :=
  let s := b.seat n
  match s.chunks.find? fun c => c.step != 0 && b.canEmit s c with
  | some c => some (b.emitChunk n c)
  | none =>
    match s.chunks.find? fun c => b.canEmit s c with
    | some c => some (b.emitChunk n c)
    | none =>
      match b.nextExp s with
      | some t => some (b.makeExp n t.1 t.2.1 t.2.2)
      | none => (b.nextOwn s).map fun t => b.makeOwn n t.1 t.2.1 t.2.2

/-- A seat sends what it can. -/
def Blk.pumpSeat : Nat → Blk → BitVec 4 → Blk
  | 0, b, _ => b
  | fuel + 1, b, n =>
    if !(b.seat n).live then b
    else match b.pumpOne n with
      | some c => Blk.pumpSeat fuel c n
      | none => b.seatState n

/-- Things a seat can still send: a bound on the pump. -/
def Blk.pumpFuel (_ : Blk) (s : Seat) : Nat := 16 * (s.n / 512 + s.chunks.length + 64)

/-- Every seat of a collective sends what it can; twice, since one direction's results feed the other. -/
def Blk.pump (b : Blk) (id : Word) : Blk :=
  let once := fun (b : Blk) => (b.seatsOf id).foldl (fun b n => Blk.pumpSeat (b.pumpFuel (b.seat n)) b n) b
  once (once b)

/-! ### FREADY (R212, R215, R216) -/

/-- Why a packet does not fit a seat's collective, if it does not: MODE, SHAPE, CONFIG (R216, R230). -/
def Blk.foldMisfit (b : Blk) (s : Seat) (h : FoldHdr) : Option Nat :=
  if h.mode != s.ordered then some 4
  else if h.kindc != s.kind || h.op != s.op || h.count.toNat != s.n then some 5
  else if h.check != b.checkOf s.grp then some 6
  else none

/-- The seat of this instance that an FREADY grants credit to: it comes from the seat's successor. -/
def Blk.readySeat (b : Blk) (h : FoldHdr) : Option (BitVec 4) :=
  let fits := (b.seatsOf h.id).filter fun (n : BitVec 4) =>
    let s := b.seat n
    let ring := b.ringOf s.grp h.stage.toNat
    neighbour ring (b.ixIn ring) s.dir = some h.src
  match fits with
  | [n] => some n
  | l => l.find? fun n => (b.seat n).dir = bit h.chunk.toNat 14

/-- A member that fails a collective takes FOLD_FAULT; its abort follows (R231). Seats of a context already
torn down are freed at once. -/
def Blk.failFold (b : Blk) (n : BitVec 4) (reason : Nat) : Blk :=
  let s := b.seat n
  if (b.ctx s.ctx).alive then b.ctxFault s.ctx (fFold reason s.id) else b.abortSeats fun y => y.id = s.id

/-- The port that a fold packet comes by: a rail packet by the port from its neighbour that its chunk takes (log 69). -/
def Blk.foldPort (b : Blk) (h : FoldHdr) : Port :=
  if h.stage = 2 then ((b.entryOf h.id).bind fun e => b.railPort e h.src h.chunk).elim .here .l
  else match b.routeTo (posOf b.self) h.src with
    | .out p => p
    | _ => .here

/-- Bytes that a fold packet brought in, charged to the collective's context (14 R379). -/
def Blk.foldIn (b : Blk) (s : Seat) (k : FoldPkt) : Blk := b.rxBytes (some s.ctx) (b.foldPort k.hdr) k.size

/-- Credit arrives for a seat. -/
def Blk.takeReady (b : Blk) (n : BitVec 4) (h : FoldHdr) : Blk :=
  let s := b.seat n
  match b.foldMisfit s h with
  | some r => b.failFold n r
  | none =>
    let ring := ringNo h.stage.toNat
    let units := 4 * b01 h.dir + h.piece.toNat
    (b.setSeat n { s with credit := s.credit.upd ring 0 (· + h.bytes.toNat % 4), pieceOut := s.pieceOut.put ring units,
                          since := b.cycle.toNat }).pump s.id

/-- A seat of the collective that a packet names, where the packet's configuration check is not the member's own (R205). -/
def Blk.wrongCheck (b : Blk) (h : FoldHdr) : Option (BitVec 4) :=
  (b.seatsOf h.id).find? fun n => h.check != b.checkOf (b.seat n).grp

/-- An FREADY of a collective that runs here: one that fits no seat of it is discarded, once its check is found to be the
member's own (R205, R215). -/
def Blk.creditIn (b : Blk) (k : FoldPkt) : Blk :=
  match b.readySeat k.hdr, b.wrongCheck k.hdr with
  | some n, _ => (b.foldIn (b.seat n) k).takeReady n k.hdr
  | none, some n => b.failFold n 6
  | none, none => b.addInst Cnt.foldDiscard 1

/-! ### `fold.start` (R210 to R213) -/

/-- A `fold.start` as it stands at issue. -/
structure StartIn where
  id : Word
  entry : Option (BitVec 4)
  kind : Nat
  op : Bool
  eager : Bool
  n : Nat
  src : Desc
  dst : Desc
  stage : Option Desc

def Blk.startIn (b : Blk) (x : Ctx) (p : Site) (f : RFields) : StartIn :=
  let id := x.s p.queue f.a
  { id := id, entry := b.entryFor x.part id, kind := f.m.toNat % 4, op := bit f.m.toNat 2, eager := bit f.m.toNat 3,
    n := (x.s p.queue f.b).toNat, src := (x.descF f.c).getD Desc.zero, dst := (x.descF f.d).getD Desc.zero, stage := x.descF f.e }

/-- How far a sequence number stands behind a group's next one; 0 where it is next (R213). -/
def seqBehind (next seq : BitVec 20) : Nat := (next - seq).toNat

/-- Seats of an entry that wear has left it. -/
def Blk.seatsOwned (b : Blk) (e : BitVec 4) : List (BitVec 4) :=
  seatNums.filter fun n => (b.seat n).entry = some e && !(b.seat n).retired

/-- Elements of the own segment of a collective over `n` elements. -/
def Blk.ownLen (b : Blk) (e : BitVec 4) (kind : BitVec 2) (n : Nat) : Nat :=
  let stage := if (b.grp e).tiered then 2 else 0
  (b.segment e kind n stage (b.ixIn (b.ringOf e stage))).2

/-- The area of a fold operand: scratchpad, or a dispatcher-owned region of the partition (R211). -/
def Blk.foldArea (b : Blk) (n : PartId) (d : Desc) : Bool :=
  d.isScratch || (d.isStack && b.inRegion n d.lo d.hi (some true))

def StartIn.faults (s : StartIn) (b : Blk) (x : Ctx) : List Flt :=
  let ds := [s.src, s.dst] ++ s.stage.toList
  let r := fun (d : Desc) => b.rangeOf x.part d
  let overlap := rangesMeet (r s.src) (r s.dst) || (match s.stage with
    | some d => rangesMeet (r s.src) (r d) || rangesMeet (r s.dst) (r d)
    | none => false)
  let fmtOk := fun (d : Desc) => d.fmt = 0 || d.fmt = 4
  (if overlap || !ds.all (b.foldArea x.part) then [fBadOperand] else [])
    ++ (if s.kind = 3 || !fmtOk s.src || !fmtOk s.dst then [fBadFormat] else [])
    ++ (if s.n < 32 || 2 ^ 28 < s.n || s.n % 32 != 0 then [fBadShape] else [])
    ++ match s.entry with
      | none => [fFold 1 s.id]
      | some e =>
        let g := b.grp e
        let own := b.ownLen e (BitVec.ofNat 2 s.kind) s.n
        let behind := seqBehind (b.fgroup e).nextSeq (seqOf s.id)
        let rail := b.railRing e
        let need := g.dirs.length
        (if s.src.elems < (if s.kind = 2 then own else s.n) || s.dst.elems < (if s.kind = 1 then own else s.n)
            || (s.kind != 2 && (match s.stage with
              | some d => d.covers < 4 * s.n
              | none => true)) then [fBadShape] else [])
          ++ (if 1 ≤ behind && behind ≤ 2 ^ 19 then
              [fFold (if (b.fgroup e).spent.contains (false, seqOf s.id) then 9 else 2) s.id] else [])
          ++ (if (b.seatsOwned e).length < need then [fFold 11 s.id] else [])
          ++ (if g.tiered && (g.dirs.any fun d => match neighbour rail (b.ixIn rail) d with
                | some aim => (b.railPorts e aim).isEmpty
                | none => true) then [fFold 12 s.id] else [])

/-- A start whose turn has not come. -/
def StartIn.ahead (s : StartIn) (b : Blk) : Bool :=
  match s.entry with
  | none => false
  | some e =>
    let d := seqBehind (b.fgroup e).nextSeq (seqOf s.id)
    d != 0 && 2 ^ 19 < d

/-- The seats of an entry that carry traffic: of three the last is standby, and takes the place of one that is retired
(R207, R233). -/
def Blk.trafficSeats (b : Blk) (e : BitVec 4) : List (BitVec 4) :=
  if (b.grp e).seats = 3 then (b.seatsOwned e).take 2 else b.seatsOwned e

/-- Free seats that a start binds, one a direction (R207, R212). -/
def Blk.seatsFor (b : Blk) (e : BitVec 4) : List (BitVec 4) :=
  ((b.trafficSeats e).filter fun n => (b.seat n).st == .free).take (b.grp e).dirs.length

/-- Bind one seat. -/
def Blk.bindSeat (b : Blk) (c : CtxId) (s : StartIn) (q : BitVec 4 × Bool) : Blk :=
  let y := b.seat q.1
  let part := (b.ctx c).part
  let b := b.setSeat q.1 { y.freed with
    st := .bound, dir := q.2, id := s.id, ctx := c, part := part, kind := BitVec.ofNat 2 s.kind, op := s.op, eager := s.eager,
    ordered := ordered (b.arith part), n := s.n, src := s.src, dst := s.dst, stage := s.stage, bound := b.cycle.toNat, since := b.cycle.toNat,
    arith := b.arith part }
  if y.pieceUnits < 4 then b.addInst Cnt.foldCutup 1 else b

/-- The next sequence number of a group's folds or comets advances; an abort's is forgotten once its number is as far ahead
as behind. -/
def FGroup.advance (comet : Bool) (g : FGroup) : FGroup :=
  let next := (if comet then g.cometSeq else g.nextSeq) + 1
  let spent := g.spent.filter fun s => !(s.1 = comet && seqBehind next s.2 = 2 ^ 19 + 1)
  if comet then { g with cometSeq := next, spent := spent } else { g with nextSeq := next, spent := spent }

/-- Sequence numbers that an abort consumed are passed over (R231; 09 R256). -/
def FGroup.skipSpent (comet : Bool) (g : FGroup) : FGroup :=
  g.spent.foldl (fun g _ => if g.spent.contains (comet, if comet then g.cometSeq else g.nextSeq) then g.advance comet else g) g

/-- The start issues: seats are bound, the sequence number is used, each predecessor gets credit for two chunks,
and FREADYs that came early are consumed (R212, R215). -/
def Blk.startFold (b : Blk) (p : Site) (s : StartIn) : Blk :=
  match s.entry with
  | none => b
  | some e =>
    let g := b.fgroup e
    let b := b.setFgroup e (FGroup.skipSpent false (g.advance false))
    let b := b.modCtx p.ctx fun x => { x with collectives := x.collectives ++ [s.id], away := x.away.filter (· != s.id) }
    let b := { b with folds := { b.folds with starts := b.folds.starts.filter fun t => !(t.1 = p.ctx && t.2.1 = p.queue) } }
    let bound := (b.seatsFor e).zip (b.grp e).dirs
    let b := bound.foldl (fun b q => b.bindSeat p.ctx s q) b
    let b := bound.foldl (fun b q => (b.liveStages e).foldl (fun b st => b.grantFold q.1 st 2) b) b
    let early := b.folds.early.filter fun k => k.hdr.id = s.id
    let b := { b with folds := { b.folds with early := b.folds.early.filter fun k => k.hdr.id != s.id } }
    (early.foldl Blk.creditIn b).pump s.id

/-- A start held back by its turn stands in its group's pending queue from then on (R212, R214). -/
def Blk.noteStart (b : Blk) (p : Site) : Blk :=
  match (b.que p).waiting, (b.que p).outside with
  | true, some (.foldTurn id) =>
    if b.folds.starts.any fun t => t.1 = p.ctx && t.2.1 = p.queue then b
    else { b with folds := { b.folds with starts := b.folds.starts ++ [(p.ctx, p.queue, id, b.cycle.toNat)] } }
  | _, _ => b

/-- Whether a start has to wait for seats: its group has enough of them, and too few are FREE. -/
def StartIn.seatless (i : StartIn) (b : Blk) : Bool :=
  i.entry.any fun e => (b.seatsFor e).length < (b.grp e).dirs.length && (b.grp e).dirs.length ≤ (b.seatsOwned e).length

/-- What a start writes in time: dst and stage. -/
def StartIn.targets (i : StartIn) (b : Blk) (n : PartId) : List Range := b.rangeOf n i.dst ++ b.rangesO n [i.stage]

/-- Whether an earlier collective of the group holds a start's areas, src among them (R212, R225). -/
def StartIn.areaHeld (i : StartIn) (b : Blk) (n : PartId) : Bool :=
  i.entry.any fun e => b.groupHolds e (b.rangeOf n i.src ++ i.targets b n)

/-- What from outside a start waits for. -/
def StartIn.waitsFor (i : StartIn) (b : Blk) (n : PartId) : Option OutWait :=
  if i.ahead b then some (.foldTurn i.id)
  else if i.areaHeld b n then some (.foldHeld (i.entry.getD 0) (b.rangeOf n i.src ++ i.targets b n)) else none

/-- The plan of a start: beside its group's, any other collective that touches what it reads or writes holds it back. -/
def StartIn.plan (i : StartIn) (b : Blk) (p : Site) (y : Ctx) : Plan :=
  { ledger := 24, tag := i.id, wait := i.seatless b || (i.waitsFor b y.part).isSome, out := i.waitsFor b y.part, faults := i.faults b y,
    reads := b.rangeOf y.part i.src, writes := i.targets b y.part, act := fun b => b.startFold p i }

def Blk.foldStartReq (b : Blk) (p : Site) (f : RFields) : Req :=
  let x := b.ctx p.ctx
  Req.mk (encR 0x48 f) f.g .other
      (b.badD x f.c needR || b.badD x f.d needW || b.badD x f.e ⟨true, true, true, false⟩ || anyUsed [f.f, f.gg, f.h, f.i])
      ([regS p f.a, regS p f.b] ++ regD f.c ++ regD f.d ++ regD f.e)
      fun b y _ => (b.startIn y p f).plan b p y

def execFoldStart (p : Site) (f : RFields) (s : State) : Host.Outcome State Fault Refusal :=
  s.block fun a b => (b.issueReq a p (b.foldStartReq p f)).noteStart p

/-! ### `fold.wait` and `fold.settle` (R209, R224, R232) -/

/-- A fold that the context started on another instance (R232), or one whose seats are gone. -/
def Blk.lostFold (b : Blk) (x : Ctx) (id : Word) : Bool :=
  x.collectives.contains id && (x.away.contains id || (b.seatsOf id).isEmpty)

def foldWaitReq (p : Site) (f : RFields) : Req :=
  Req.mk (encR 0x49 f) f.g .other
    (anyUsed [f.c, f.d, f.e, f.f, f.gg, f.h, f.i] || f.m != 0) [regS p f.a, regS p f.b]
    fun b x _ =>
      let id := x.s p.queue f.a
      let count := (x.s p.queue f.b).toNat
      { ledger := 4, tag := id, wait := !b.lostFold x id && !b.foldDone id (some count), out := some (.fold id (some count)),
        faults := if b.lostFold x id then [fFold 10 id] else [] }

def execFoldWait (p : Site) (f : RFields) (s : State) : Host.Outcome State Fault Refusal :=
  s.block fun a b => b.issueReq a p (foldWaitReq p f)

def foldSettleReq (p : Site) (f : RFields) : Req :=
  Req.mk (encR 0x4A f) f.g .other
    (anyUsed [f.b, f.c, f.d, f.e, f.f, f.gg, f.h, f.i] || f.m != 0) [regS p f.a]
    fun b x _ =>
      let id := x.s p.queue f.a
      { ledger := 4, tag := id, wait := !b.lostFold x id && !b.foldDone id none, out := some (.fold id none),
        faults := if b.lostFold x id then [fFold 10 id] else [], job := .settle id }

def execFoldSettle (p : Site) (f : RFields) (s : State) : Host.Outcome State Fault Refusal :=
  s.block fun a b => b.issueReq a p (foldSettleReq p f)

/-- A `fold.settle` completes: the seats are FREE (R208). -/
def Blk.settleFold (b : Blk) (c : CtxId) (id : Word) : Blk :=
  let b := (b.seatsOf id).foldl (fun b n => b.setSeat n (b.seat n).freed) b
  b.modCtx c fun x =>
    { x with collectives := x.collectives.filter (· != id), away := x.away.filter (· != id) }

end Sys2Proof.Machine
end

