-- ==== Sys2Proof/Machine/FoldIn.lean ====
section
/-! DEFINITION. FoldIn: what reaches a seat: data, credit, requests for retransmission, exponents and aborts
(08 R215 to R231), the local buffers (08 R219), and the timeouts (08 R214, R215). -/

namespace Sys2Proof.Machine
open Sys2Proof

/-- A fold packet is discarded (R220, R227). -/
def Blk.dropFold (b : Blk) : Blk := b.addInst Cnt.foldDiscard 1

/-- The seat of this instance that packets of a direction are for. -/
def Blk.dirSeat (b : Blk) (h : FoldHdr) : Option (BitVec 4) :=
  if h.dst != b.self then none else (b.seatsOf h.id).find? fun n => (b.seat n).dir = h.dir

/-- The seat that data of a direction is for: one that is not settled. -/
def Blk.dataSeat (b : Blk) (h : FoldHdr) : Option (BitVec 4) := (b.dirSeat h).filter fun n => (b.seat n).busy

/-- The ring index of this member, and the ring's length, where the packet comes from its predecessor. -/
def Blk.ringPlace (b : Blk) (s : Seat) (h : FoldHdr) : Option (Nat × Nat) :=
  let ring := b.ringOf s.grp h.stage.toNat
  let r := b.ixIn ring
  if ring.length ≤ 1 || neighbour ring r (!s.dir) != some h.src then none else some (ring.length, r)

/-- Whether the chunk a packet names is the one its step brings here (R217). -/
def stepFits (n r : Nat) (h : FoldHdr) (back : Bool) : Bool :=
  1 ≤ h.step.toNat && h.step.toNat < n && ixSeg h.chunk = segOf n r h.phase h.step.toNat back
    && bit h.chunk.toNat 14 = back

/-! ### TAINT (R228) -/

/-- The TAINT record of a replaced piece, and TAINTED_READ for each context that consumed it: f, step and phase of the bad link are this member's where it found
the bad CRC; elsewhere no packet carries them and they are free (log 22). -/
def Blk.taint (b : Blk) (s : Seat) (was : Piece) (k : FoldPkt) : Blk :=
  let h := k.hdr
  let ring := b.ringOf s.grp h.stage.toNat
  let known := put 8 0 (b.ixIn ring) + put 18 9 h.step.toNat + put 19 19 (b01 h.phase)
  let link := if was.ok then Config.freeNat b.free % 2 ^ 20 else known
  let b := if was.ok then b.draw else b
  let b := b.ctxEvent 0x84 s.ctx 0 (put 23 0 h.chunk.toNat + put 25 24 h.piece.toNat + put 29 28 h.rev.toNat) s.id.toNat
    (BitVec.ofNat 32 (link + put 20 20 (b01 h.dir) + put 22 21 h.stage.toNat))
  (s.readers.zipIdx.filter fun p => bit was.consumed.toNat p.2).foldl (fun b p => b.ctxFault p.1 (flt 0x18)) b

/-- Pieces already sent that hold a replaced run leave again, with their new revision (R227). -/
def Blk.reemit (b : Blk) (n : BitVec 4) (c : Chunk) (first len : Nat) : Blk :=
  let size := Nat.max 1 ((b.seat n).outPiece c.stage.toNat)
  ((List.range (ceilDiv c.out size)).filter fun no => meet (no * size) size first len).foldl
    (fun b no => b.emitPiece n c no) b

/-! ### Data (R217, R218, R221, R223, R227, R235, R236) -/

/-- Words of a piece as this member holds them: the fold with its own data, or the wire words gathered. -/
def Blk.taken (b : Blk) (n : BitVec 4) (h : FoldHdr) (run : Nat × Nat) (ws : List Word) : Blk × Except Flt (List Word × Nat) :=
  if h.phase then (b, .ok (ws, 0))
  else
    let r := b.ownData n h.stage.toNat h.chunk run
    (r.1, r.2.map fun own => (b.seat n).foldRun (ofWire h.wire.toNat ws) own)

/-- A run is the result of a reduce phase, `p` of it a piece of the packet `k`: it goes to dst, to the rail stage, or starts
its gather (R217, R235); the sum of a rail segment is narrowed once, and what it widens to is the result (R236). -/
def Blk.reduced (b : Blk) (n : BitVec 4) (c : Chunk) (run : Nat × Nat) (vs : List Word) (p : Piece) (k : FoldPkt) :
    Except Flt Blk :=
  let s := b.seat n
  let stage := c.stage.toNat
  if stage = 1 then
    .ok (if c.settled then b.modSeats s.id fun y =>
        { y with sums := putRun y.sums (b.chunkRun s stage c.index).1 c.data } else b)
  else
    let r := b.narrowed s (b.wireOf s stage) vs
    match r.1.writeDst s run.1 (ofWire (b.wireOf s stage) r.2) with
    | .error e => .error e
    | .ok b =>
      if s.kind = 1 then .ok b else
      let old := (s.chunkOf stage true c.index).getD
        { b.ownChunk s stage true c.index (List.replicate c.data.length 0) 0 with pieces := [] }
      let at' := run.1 - (b.chunkRun s stage c.index).1
      let was := old.pieces.find? fun q => q.no = p.no
      let ps := (old.pieces.filter fun q => q.no != p.no) ++ [p]
      let g := { old with data := splice old.data at' r.2, pieces := ps, settled := c.settled,
                          written := sumL (ps.map (·.len)) = c.data.length }
      let b := match was with
        | some q => if s.eager then b.taint s q k else b
        | none => b
      let b := (b.setSeat n ((b.seat n).putChunk g)).reemit n g at' r.2.length
      .ok (if stage = 2 && c.settled then b.modSeats s.id fun y =>
          { y with results := putRun y.results (b.chunkRun s stage c.index).1 (ofWire (b.wireOf s stage) g.data) } else b)

/-- A run of a gather is written to dst, and where it completes a rail chunk it is a result for the package. -/
def Blk.gatheredIn (b : Blk) (n : BitVec 4) (c : Chunk) (run : Nat × Nat) (ws : List Word) : Except Flt Blk :=
  let s := b.seat n
  let stage := c.stage.toNat
  match b.writeDst s run.1 (ofWire (b.wireOf s stage) ws) with
  | .error e => .error e
  | .ok b =>
    .ok (if stage = 2 && c.settled then b.modSeats s.id fun y =>
        { y with results := putRun y.results (b.chunkRun s stage c.index).1 (ofWire (b.wireOf s stage) c.data) } else b)

/-- Ask the predecessor to send a piece again (R227). -/
def Blk.sendNak (b : Blk) (n : BitVec 4) (h : FoldHdr) : Blk :=
  let s := b.seat n
  b.sendFold (some s.ctx) s.grp
    ⟨{ b.foldHdr s 3 h.stage.toNat h.src with
        dir := h.dir, piece := h.piece, phase := h.phase, chunk := h.chunk, step := h.step, rev := h.rev }, [], 0, 0⟩

/-- Elements of the pieces that a hop cuts chunks into, as piece `no` of a chunk of `total` elements is to be placed: those of
the chunk's piece 0; where that is not here, what a cut chunk of the ring has shown, this seat's own size, or a smaller
one, the first of them that the piece's length agrees with (R234, log 34). -/
def Seat.pieceSize (s : Seat) (c : Chunk) (no len total : Nat) : Nat :=
  match c.pieces.find? fun p => p.no = 0 with
  | some p => p.len
  | none =>
    if no = 0 then len
    else
      let seen := s.chunks.filterMap fun y =>
        if ringNo y.stage.toNat = ringNo c.stage.toNat && y.step != 0
        then ((y.pieces.find? fun p => p.no = 0 && p.len < y.data.length).map (·.len)) else none
      ((seen ++ [4096 * s.pieceUnits, 12288, 8192, 4096]).find? fun z =>
        z ≤ 4096 * s.pieceUnits && no * z < total && len = Nat.min z (total - no * z)).getD len

/-- First element in its chunk, and elements, of a piece that arrives. -/
def Blk.pieceRun (b : Blk) (s : Seat) (k : FoldPkt) : Nat × Nat :=
  let h := k.hdr
  let stage := h.stage.toNat
  let total := (b.chunkRun s stage h.chunk).2
  let old := (s.chunkOf stage h.phase h.chunk).getD
    { b.ownChunk s stage h.phase h.chunk (List.replicate total 0) 0 with step := h.step.toNat, pieces := [] }
  let len := wireElems (b.wireOf s stage) k.payload.length
  (h.piece.toNat * s.pieceSize old h.piece.toNat len total, len)

/-- Whether a piece fits its chunk and is none of an overtaken revision (R217, R227). -/
def Blk.pieceFits (b : Blk) (s : Seat) (ring r : Nat) (k : FoldPkt) : Bool :=
  let h := k.hdr
  let stage := h.stage.toNat
  let p := b.pieceRun s k
  let before := (s.chunkOf stage h.phase h.chunk).bind fun c => c.pieces.find? fun q => q.no = h.piece.toNat
  stepFits ring r h s.dir && h.wire.toNat = b.wireOf s stage && k.payload.length = h.bytes.toNat
    && p.1 + p.2 ≤ (b.chunkRun s stage h.chunk).2 && p.2 != 0 && !(before.any fun q => h.rev.toNat < q.rev)

/-- A piece arrives at its seat; a revision no lower than the highest seen replaces what was taken (R227). -/
def Blk.takeData (b : Blk) (n : BitVec 4) (ring r : Nat) (k : FoldPkt) : Blk :=
  let s := b.seat n
  let h := k.hdr
  let stage := h.stage.toNat
  let wire := b.wireOf s stage
  let chunk := b.chunkRun s stage h.chunk
  let old := (s.chunkOf stage h.phase h.chunk).getD
    { b.ownChunk s stage h.phase h.chunk (List.replicate chunk.2 0) 0 with step := h.step.toNat, pieces := [] }
  let ws := parseWire wire k.payload
  let first := (b.pieceRun s k).1
  let run := (chunk.1 + first, ws.length)
  let before := old.pieces.find? fun p => p.no = h.piece.toNat
  let ok := crc32c k.payload = k.crc
  if !b.pieceFits s ring r k then b.dropFold
  else if !ok && h.rev = 3 then b.failFold n 8
  else match b.taken n h run ws with
    | (b, .error e) => b.ctxFault s.ctx e
    | (b, .ok (vs, nans)) =>
      let verified := k.verified.toNat + b01 ok
      let p : Piece := ⟨h.piece.toNat, first, ws.length, verified, h.rev.toNat, ok,
        ok && verified = s.links stage ring h.phase h.step.toNat, 0⟩
      let ps := (old.pieces.filter fun q => q.no != p.no) ++ [p]
      let whole := sumL (ps.map (·.len)) = chunk.2
      let settled := whole && ps.all (·.settled)
      let written := old.final && whole
      let c := { old with pieces := ps, data := splice old.data first vs, written := written, settled := settled }
      let b := if nans = 0 then b else b.addCtx s.ctx Cnt.arithNan nans
      let b := if ok then b else b.sendNak n h
      let b := match before with
        | some q => if s.eager && old.final then b.taint s q k else b
        | none => b
      let s := { b.seat n with since := b.cycle.toNat, st := if (b.seat n).st == .bound then .running else (b.seat n).st }
      if !s.busy then b
      else
        let b := (b.setSeat n ((s.putChunk c).dropBuf stage c.index (if whole then chunk.2 else first + ws.length))).reemit n c first ws.length
        let last := h.step.toNat = ring - 1
        let r' : Except Flt Blk :=
          if h.phase then b.gatheredIn n c run vs
          else if last then b.reduced n c run vs p k
          else b.writeStage s run.1 vs
        match r' with
        | .error e => b.ctxFault s.ctx e
        | .ok b =>
          let b := if whole && old.got != chunk.2 then b.bufferFree n (ringNo stage) else b
          b.pump s.id

/-- A packet for which no seat waits is discarded, unless its collective runs here under another check (R205, R220). -/
def Blk.noSeat (b : Blk) (k : FoldPkt) : Blk :=
  match b.wrongCheck k.hdr with
  | some n => Blk.settle b (b.failFold n 6)
  | none => b.dropFold

/-- An FDATA packet is taken from its port FIFO. -/
def Blk.fdataIn (b : Blk) (k : FoldPkt) : Blk :=
  match b.dataSeat k.hdr with
  | none => b.noSeat k
  | some n =>
    let y := b.seat n
    let b := b.foldIn y k
    match b.foldMisfit y k.hdr with
    | some r => Blk.settle b (b.failFold n r)
    | none =>
      match b.ringPlace y k.hdr with
      | none => b.dropFold
      | some (ring, r) => Blk.settle b (b.takeData n ring r k)

/-! ### FREADY (R215, R216) -/

/-- Whether an FREADY is for a collective that may still start here. -/
def Blk.mayStart (b : Blk) (h : FoldHdr) : Bool :=
  match b.entryOf h.id with
  | none => false
  | some e =>
    let behind := seqBehind (b.fgroup e).nextSeq (seqOf h.id)
    !(1 ≤ behind && behind ≤ 2 ^ 19)

/-- An FREADY is taken from its port FIFO: one for a collective that has not started here goes into the FREADY table, one for
a collective that is over is discarded (R215). -/
def Blk.freadyIn (b : Blk) (k : FoldPkt) : Blk :=
  if (b.seatsOf k.hdr.id).isEmpty then
    (if b.mayStart k.hdr then { b with folds := { b.folds with early := b.folds.early ++ [k] } } else b.dropFold)
  else Blk.settle b (b.creditIn k)

/-! ### FNAK (R227) -/

/-- What a member sends a run of a chunk from a second time: gather data from dst, step-1 data from src, a partial that it
folded from its retained staging; what an earlier stage summed, from the seat (R219, R227). -/
def Blk.sentFrom (b : Blk) (s : Seat) (c : Chunk) (first len : Nat) : Except Flt (List Word) :=
  let stage := c.stage.toNat
  let at' := (b.chunkRun s stage c.index).1 + first
  if c.phase then
    (b.loadFlat s.part s.dst (b.dstElem s at' * s.dst.e) (len * s.dst.e)).map fun bs =>
      (toWire (b.wireOf s stage) (saturates s.arith) (s.toGrid at' (decodeRow s.dst.fmt len bs))).1
  else if !c.phase && c.step = 0 && b.fromSrc s stage then (b.foldSrc s (at', len)).map (s.toGrid at')
  else match c.phase, c.step, s.stage with
    | false, _ + 1, some d => (b.loadFlat s.part d (4 * at') (4 * len)).map fun bs =>
        (pieces 4 bs).map fun w => BitVec.ofNat 32 (leNat w)
    | _, _, _ => .ok ((c.data.drop first).take len)

/-- Send a piece again at the revision after the one refused (R227). An uncorrectable word of what it is rebuilt from
raises UNCORRECTABLE, and the collective aborts (R229). -/
def Blk.resend (b : Blk) (n : BitVec 4) (c : Chunk) (no rev : Nat) : Blk :=
  let s := b.seat n
  let size := Nat.max 1 (s.outPiece c.stage.toNat)
  let len := Nat.min size (c.data.length - no * size)
  match b.sentFrom s c (no * size) len with
  | .error e => b.ctxFault s.ctx e
  | .ok ws => (b.emitPiece n { c with data := splice c.data (no * size) ws } no (some (rev + 1))).addInst Cnt.foldRetry 1

/-- An FNAK is taken from its port FIFO. -/
def Blk.fnakIn (b : Blk) (k : FoldPkt) : Blk :=
  match b.dirSeat k.hdr with
    | none => b.noSeat k
    | some n =>
      let y := b.seat n
      let ring := b.ringOf y.grp k.hdr.stage.toNat
      match b.foldMisfit y k.hdr, y.chunkOf k.hdr.stage.toNat k.hdr.phase k.hdr.chunk with
      | some r, _ => Blk.settle b (b.failFold n r)
      | none, none => b.dropFold
      | none, some c =>
        if 3 ≤ k.hdr.rev.toNat || neighbour ring (b.ixIn ring) y.dir != some k.hdr.src || c.step + 1 != k.hdr.step.toNat
            || c.data.length ≤ k.hdr.piece.toNat * y.outPiece k.hdr.stage.toNat then b.dropFold
        else Blk.settle b ((b.foldIn y k).resend n c k.hdr.piece.toNat k.hdr.rev.toNat)

/-! ### FEXP (R222; 02 R49) -/

/-- Exponents arrive: a maximum with the member's own on the way to where they are agreed, then the agreed ones
on their way round. -/
def Blk.takeExp (b : Blk) (n : BitVec 4) (ring r : Nat) (k : FoldPkt) : Blk :=
  let s := b.seat n
  let h := k.hdr
  let stage := h.stage.toNat
  let run := b.chunkRun s stage h.chunk
  let es := k.payload.map (·.toNat)
  if !stepFits ring r h s.dir || es.length != ceilDiv run.2 32 then b.dropFold
  else
    let last := h.step.toNat = ring - 1
    let b := b.setSeat n { s with since := b.cycle.toNat }
    let agree := fun (b : Blk) (es : List Nat) => b.modSeats s.id fun y => { y with exps := putBlocks y.exps run es }
    if h.phase then
      let b := agree b es
      (if last then b else b.sendExp n stage true h.chunk (h.step.toNat + 1) es).pump s.id
    else match b.ownExps s stage run with
      | .error e => b.ctxFault s.ctx e
      | .ok own =>
        let ms := (es.zip own).map fun p => Nat.max p.1 p.2
        if !last then (b.sendExp n stage false h.chunk (h.step.toNat + 1) ms).pump s.id
        else if stage = 1 then (b.modSeats s.id fun y => { y with exp1 := putBlocks y.exp1 run ms }).pump s.id
        else ((agree b ms).sendExp n stage true h.chunk 1 ms).pump s.id

/-- An FEXP is taken from its port FIFO. -/
def Blk.fexpIn (b : Blk) (k : FoldPkt) : Blk :=
  match b.dataSeat k.hdr with
  | none => b.noSeat k
  | some n =>
    let y := b.seat n
    let b := b.foldIn y k
    match b.foldMisfit y k.hdr with
    | some r => Blk.settle b (b.failFold n r)
    | none =>
      match b.ringPlace y k.hdr with
      | none => b.dropFold
      | some (ring, r) => Blk.settle b (b.takeExp n ring r k)

/-! ### FABORT (R231) -/

/-- An abort for a collective that has not started here consumes its sequence number and goes on, once, in its direction
round every ring of the group. -/
def Blk.spendFold (b : Blk) (k : FoldPkt) : Blk :=
  match b.entryOf k.hdr.id with
  | none => b.dropFold
  | some e =>
    let g := b.fgroup e
    let seq := seqOf k.hdr.id
    let behind := seqBehind g.nextSeq seq
    if (1 ≤ behind && behind ≤ 2 ^ 19) || g.spent.contains (false, seq) then b
    else
      let b := b.setFgroup e (FGroup.skipSpent false { g with spent := g.spent ++ [(false, seq)] })
      let b := { b with folds := { b.folds with early := b.folds.early.filter fun y => y.hdr.id != k.hdr.id } }
      (b.liveStages e).foldl (fun b st =>
        let ring := b.ringOf e st
        match neighbour ring (b.ixIn ring) k.hdr.dir with
        | some aim => b.sendFold none e ⟨{ k.hdr with stage := BitVec.ofNat 2 st, src := b.self, dst := aim }, [], 0, 0⟩
        | none => b) b

/-- An FABORT is taken from its port FIFO. -/
def Blk.fabortIn (b : Blk) (k : FoldPkt) : Blk :=
  match b.seatsOf k.hdr.id with
  | [] => Blk.settle b (b.spendFold k)
  | n :: _ => Blk.settle b ((b.foldIn (b.seat n) k).failFold n (if k.hdr.check = b.checkOf (b.seat n).grp then 9 else 6))

/-! ### The port FIFOs of fold packets (R215, R222) -/

/-- A fold packet is taken from its port FIFO. -/
def Blk.foldPacket (b : Blk) (k : FoldPkt) : Blk :=
  match k.hdr.kind.toNat with
  | 1 => b.fdataIn k
  | 2 => b.freadyIn k
  | 3 => b.fnakIn k
  | 4 => b.fexpIn k
  | _ => b.fabortIn k

/-- Whether a seat has what a piece of a reduce phase is to be folded with: the sum of an earlier stage, or src by a local
buffer that holds it or is free (R219, R235). -/
def Blk.mayFold (b : Blk) (s : Seat) (k : FoldPkt) : Bool :=
  let stage := k.hdr.stage.toNat
  let p := b.pieceRun s k
  if b.fromSums s stage then allIn s.sums (runKeys ((b.chunkRun s stage k.hdr.chunk).1 + p.1, p.2))
  else (s.bufOf stage k.hdr.chunk p.1 p.2).isSome || s.bufs.length < 2

/-- Whether data, or exponents, that a seat is to take have to wait: under ORDERED data for the agreed exponents of their chunk
(R222), and partials for what they are folded with, the exponents of a rail stage for those of the package (R219, R222,
R235). -/
def Blk.mustWait (b : Blk) (s : Seat) (k : FoldPkt) : Bool :=
  let h := k.hdr
  let stage := h.stage.toNat
  let run := b.chunkRun s stage h.chunk
  (b.foldMisfit s h).isNone && (b.ringPlace s h).any fun g =>
    if h.kind = 1 then b.pieceFits s g.1 g.2 k && (!s.agreed run || (!h.phase && !b.mayFold s k))
    else stepFits g.1 g.2 h s.dir && !h.phase && b.fromSums s stage && !allIn s.exp1 (runBlocks run)

/-- What keeps a fold packet in its port FIFO by itself: an FREADY for which the table of 64 has no room (R215), data and
exponents that their seat cannot take yet. -/
def Blk.foldRefused (b : Blk) (k : FoldPkt) : Bool :=
  if k.hdr.kind = 2 then (b.seatsOf k.hdr.id).isEmpty && b.mayStart k.hdr && 64 ≤ b.folds.early.length
  else if k.hdr.kind = 1 || k.hdr.kind = 4 then (b.dataSeat k.hdr).any fun n => b.mustWait (b.seat n) k
  else false

/-- Whether a fold packet has to wait in its port FIFO, behind one of its port that waits or by itself. An FEXP, which brings
the exponents that data may wait for, passes others (log 64). -/
def Blk.foldWaits (b : Blk) (k : FoldPkt) : Bool :=
  (k.hdr.kind != 4 && b.folds.held.any fun y => b.foldPort y.hdr = b.foldPort k.hdr) || b.foldRefused k

/-- A fold packet for another instance goes on by the routes of R159; rail traffic never does (R206). -/
def Blk.passFold (b : Blk) (k : FoldPkt) : Blk := if k.hdr.stage = 2 then b.dropFold else b.sendFold none 0 k

/-- A fold packet arrives at its port FIFO. -/
def Blk.atFoldPort (b : Blk) (k : FoldPkt) : Blk :=
  if k.hdr.dst != b.self then b.passFold k
  else if b.foldWaits k then { b with folds := { b.folds with held := b.folds.held ++ [k] } } else b.foldPacket k

/-- The port FIFOs of fold packets are read again, each from its head. -/
def Blk.drainFolds (b : Blk) : Blk :=
  b.folds.held.foldl Blk.atFoldPort { b with folds := { b.folds with held := [] } }

def execFdataReceive (k : FoldPkt) (s : State) : Host.Outcome State Fault Refusal :=
  s.block fun _ b => if k.hdr.kind != 1 then b.dropFold else b.atFoldPort k

def execFreadyReceive (k : FoldPkt) (s : State) : Host.Outcome State Fault Refusal :=
  s.block fun _ b => if k.hdr.kind != 2 then b.dropFold else b.atFoldPort k

def execFnakReceive (k : FoldPkt) (s : State) : Host.Outcome State Fault Refusal :=
  s.block fun _ b => if k.hdr.kind != 3 then b.dropFold else b.atFoldPort k

def execFexpReceive (k : FoldPkt) (s : State) : Host.Outcome State Fault Refusal :=
  s.block fun _ b => if k.hdr.kind != 4 then b.dropFold else b.atFoldPort k

def execFabortReceive (k : FoldPkt) (s : State) : Host.Outcome State Fault Refusal :=
  s.block fun _ b => if k.hdr.kind != 5 then b.dropFold else b.atFoldPort k

/-! ### Local buffers and timeouts (R214, R215, R219) -/

/-- Own chunks from src that a seat starts, in order. -/
def Blk.srcChunks (b : Blk) (s : Seat) : List (Nat × BitVec 24) :=
  ((b.ownStarts s).filter fun t => b.fromSrc s t.1).flatMap fun t =>
    (List.range (b.partChunks s t.1 t.2.2)).map fun j => (t.1, chunkIx t.2.2 s.dir j)

/-- The runs in which a seat loads those chunks: each whole, in cut-up one piece of the size of the hop at a time (R233,
R234). -/
def Blk.srcRuns (b : Blk) (s : Seat) : List (Nat × BitVec 24 × Nat × Nat) :=
  (b.srcChunks s).flatMap fun c =>
    let total := (b.chunkRun s c.1 c.2).2
    let size := if total ≤ s.bufElems then Nat.max 1 total else Nat.max 1 (s.outPiece c.1)
    (List.range (ceilDiv total size)).map fun k => (c.1, c.2, k * size, Nat.min size (total - k * size))

/-- Whether a seat may load own data: one of its two local buffers is free, and the other holds none of its own, so that what
arrives always finds one (R219, log 34). -/
def Seat.mayLoad (s : Seat) : Bool := s.busy && s.bufs.length < 2 && !s.bufs.any (·.own)

/-- The next of the seat's own source data is loaded, where a local buffer is free for it (R219). -/
def execLocalBufferLoad (n : BitVec 4) (s : State) : Host.Outcome State Fault Refusal :=
  s.block fun _ b =>
    let y := b.seat n
    if !y.mayLoad then b
    else match (b.srcRuns y)[y.loads]? with
      | none => b
      | some (stage, i, first, len) =>
        match b.loadBuf n true stage i first len with
        | .error e => Blk.settle b (b.ctxFault y.ctx e)
        | .ok c => Blk.settle b ((c.setSeat n { c.seat n with loads := y.loads + 1 }).pump y.id)

/-- A start waited in its group's pending queue, ahead of its turn, beyond the group timeout (R214). -/
def execFoldSeqGap (p : Site) (s : State) : Host.Outcome State Fault Refusal :=
  s.block fun _ b =>
    match b.folds.starts.find? fun t => t.1 = p.ctx && t.2.1 = p.queue with
    | none => b
    | some t =>
      match b.entryOf t.2.2.1 with
      | none => b
      | some e =>
        if !isAhead (b.fgroup e).nextSeq (seqOf t.2.2.1) || b.cycle.toNat ≤ t.2.2.2 + (b.grp e).cycles then b
        else Blk.settle b (b.fault p (b.que p).pc (b.entryWord p (b.que p).pc) (fFold 3 t.2.2.1))

/-- A seat waited for a packet of a peer beyond the group timeout (R215). -/
def execFoldPeerTimeout (n : BitVec 4) (s : State) : Host.Outcome State Fault Refusal :=
  s.block fun _ b =>
    let y := b.seat n
    if !(y.st == .bound || y.st == .running) || b.cycle.toNat ≤ y.since + (b.grp y.grp).cycles then b
    else Blk.settle b (b.failFold n 7)

end Sys2Proof.Machine
end

