-- ==== Sys2Proof/Machine/CometPath.lean ====
section
/-! DEFINITION. CometPath: `comet.reduce`, `comet.barrier` and the messages of comet collectives (09 R241 to R252,
R255, R256). -/

namespace Sys2Proof.Machine
open Sys2Proof

/-- COMET_FAULT with its reason; detail B holds the collective ID (R255). -/
def fComet (reason : Nat) (id : Word) : Flt := flt 0x17 reason id.toNat

/-! ### Values (R250, R251) -/

/-- Whether a collective runs an exponent pass before its value pass (R251). -/
def Comet.gridded (x : Comet) : Bool := x.ordered && !x.int && x.op = 0 && x.len != 0

/-- The larger of two words as signed numbers. -/
def maxS (x y : Word) : Word := if x.slt y then y else x

/-- The combine of a collective in its present pass (R250, R251). -/
def Comet.op2 (x : Comet) (u v : Word) : Word :=
  if x.pass then maxS u v
  else if x.gridded then gridAdd u v
  else if x.op = 0 then (if x.int then u + v else f32Add u v)
  else if x.op = 1 then (if x.int then maxS u v else f32Max u v)
  else u ||| v

/-- The element that leaves a combine unchanged. -/
def Comet.pad (x : Comet) : Word :=
  if x.pass || x.gridded then 0
  else if x.op = 0 then (if x.int then 0 else negZero)
  else if x.op = 1 then (if x.int then 0x80000000 else nan32)
  else 0

/-- Whether a word is a NaN of the collective's present pass. -/
def Comet.isNaN (x : Comet) (w : Word) : Bool :=
  !x.pass && x.op = 0 && !x.int && (if x.gridded then w = gridNaN else isNaN32 w)

/-- A combine of two words, each with the NaNs that its own combines made from operands that are none (02 R39). -/
def Comet.opN (x : Comet) (u v : Word × Nat) : Word × Nat :=
  let w := x.op2 u.1 v.1
  (w, u.2 + v.2 + b01 (x.isNaN w && !x.isNaN u.1 && !x.isNaN v.1))

/-- Words and their counts of NaNs as bytes and one count. -/
def bytesAndCount (l : List (Word × Nat)) : List Byte × Nat := (bytesOfWords (l.map (·.1)), sumL (l.map (·.2)))

def Comet.combine (x : Comet) (u v : List Byte) : List Byte × Nat :=
  bytesAndCount (((wordsOf u).zip (wordsOf v)).map fun p => x.opN (p.1, 0) (p.2, 0))

/-- The R48 tree over list index of `m` values, element by element. -/
def Comet.joinAll (x : Comet) (m : Nat) : List Byte × Nat :=
  let vs := (List.range m).map fun i => wordsOf (x.values.get i [])
  bytesAndCount ((List.range (x.len / 4)).map fun j => tree x.opN (x.pad, 0) (vs.map fun v => (v.getD j 0, 0)))

/-- A member's own value in the present pass. -/
def Comet.own (x : Comet) : List Byte :=
  if x.pass then bytesOfWords ((wordsOf x.src).map fun w => BitVec.ofNat 32 (gridExp w))
  else if x.gridded then bytesOfWords ((wordsOf x.src).zipIdx.map fun p => gridOf (x.grid.getD p.2 1) p.1)
  else x.src

/-- The bytes written to dst. -/
def Comet.result (x : Comet) (v : List Byte) : List Byte :=
  if x.gridded then bytesOfWords ((wordsOf v).zipIdx.map fun p => gridResult (x.grid.getD p.2 1) p.1) else v

/-! ### The engine (R250) -/

def Blk.setComet (b : Blk) (x : Comet) : Blk :=
  { b with comets := { b.comets with live := b.comets.live.map fun y => if y.id = x.id && y.entry = x.entry then x else y } }

def Blk.dropComet (b : Blk) (x : Comet) : Blk :=
  { b with comets := { b.comets with live := b.comets.live.filter fun y => !(y.id = x.id && y.entry = x.entry) } }

/-- Members that the forward and the backward copy of a value cover, of `m`. -/
def fwdReach (m : Nat) : Nat := ceilDiv (m - 1) 2
def backReach (m : Nat) : Nat := (m - 1) / 2

/-- A member sends its value both ways round its package. -/
def Blk.cometSpread (b : Blk) (x : Comet) : Blk :=
  let ring := b.pkgRing x.entry
  let i := b.ixIn ring
  let send := fun (b : Blk) (back : Bool) => match neighbour ring i back with
    | some aim => b.sendComet (some x.ctx) (b.cometMsg x 1 0 0 aim x.own)
    | none => b
  let b := if fwdReach ring.length = 0 then b else send b false
  if backReach ring.length = 0 then b else send b true

/-- Send a rail message to a package index. -/
def Blk.cometRail (b : Blk) (x : Comet) (stage step : Nat) (aim : Nat) (v : List Byte) : Blk :=
  match (b.railByA x.entry)[aim]? with
  | some m => b.sendComet (some x.ctx) (b.cometMsg x 1 stage step m v)
  | none => b

def Comet.railAt (x : Comet) (stage step : Nat) : Option (List Byte) :=
  (x.rail.find? fun r => r.1.toNat = stage && r.2.1.toNat = step).map (·.2.2)

/-- A rail value is used: its receive entry is free again. -/
def Comet.used (x : Comet) (stage step : Nat) : Comet :=
  { x with rail := x.rail.filter fun r => !(r.1.toNat = stage && r.2.1.toNat = step) }

/-- A value that a collective combines is kept as its rail value, and the NaNs made are counted. -/
def Blk.cometAcc (b : Blk) (x : Comet) (v : List Byte × Nat) : Blk × Comet :=
  (if v.2 = 0 then b else b.addCtx x.ctx Cnt.arithNan v.2, { x with acc := some v.1 })

/-- A collective stands at DOUBLE step `s`: it exchanges, or after the last step passes its result on. The value
is what it ends with, if it ends. -/
def Blk.cometDouble (b : Blk) (x : Comet) (s : Nat) : Blk × Comet × Option (List Byte) :=
  let v := x.acc.getD []
  let rail := b.railByA x.entry
  let a := b.ixIn rail
  let p' := pow2Below rail.length
  if s < Nat.log2 p' then
    (b.cometRail x 2 s (a ^^^ 2 ^ s) v, { x with stage := 2, step := BitVec.ofNat 4 s }, none)
  else
    (if a + p' < rail.length then b.cometRail x 3 0 (a + p') v else b, { x with stage := 2, step := BitVec.ofNat 4 s }, some v)

/-- One advance of a collective, where what it awaits has come. -/
def Blk.cometOne (b : Blk) (x : Comet) : Option (Blk × Comet × Option (List Byte)) :=
  let ring := b.pkgRing x.entry
  let rail := b.railByA x.entry
  let a := b.ixIn rail
  let p' := pow2Below rail.length
  match x.acc with
  | none =>
    if (List.range ring.length).all fun i => (x.values.find i).isSome then
      let w := x.joinAll ring.length
      let v := w.1
      let (b, x) := b.cometAcc { x with values := [] } w
      if !(b.grp x.entry).tiered then some (b, x, some v)
      else if p' ≤ a then some (b.cometRail x 1 0 (a - p') v, { x with stage := 3 }, none)
      else if a + p' < rail.length then some (b, { x with stage := 1 }, none)
      else some (b.cometDouble x 0)
    else none
  | some v =>
    if x.stage = 1 then
      (x.railAt 1 0).map fun w =>
        let (b, x) := b.cometAcc (x.used 1 0) (x.combine v w)
        b.cometDouble x 0
    else if x.stage = 2 then
      let s := x.step.toNat
      (x.railAt 2 s).map fun w =>
        let (b, x) := b.cometAcc (x.used 2 s) (if a < a ^^^ 2 ^ s then x.combine v w else x.combine w v)
        b.cometDouble x (s + 1)
    else (x.railAt 3 0).map fun w => (b, { x.used 3 0 with acc := some w }, some w)

/-- A value arrives for a collective that runs here: package values by list index, rail values by stage and step. -/
def Blk.cometStore (b : Blk) (x : Comet) (k : CometMsg) : Comet :=
  let x := { x with since := b.cycle.toNat }
  if k.stage = 0 then
    match findIdx (fun i => i = k.src) (b.pkgRing x.entry) with
    | some i => { x with values := x.values.put i k.payload }
    | none => x
  else { x with rail := x.rail ++ [(k.stage, k.step, k.payload)] }

/-- Receive entries of a collective that hold a message: values of other members, rail values, messages of the pass to come
(R248). -/
def Comet.entries (x : Comet) : Nat := (x.values.length - 1) + x.rail.length + x.later.length

/-- A message that fits goes into a receive entry of its collective: as a value of the present pass, or for the pass to
come. One of a pass that is over is discarded. -/
def Blk.cometPut (b : Blk) (x : Comet) (k : CometMsg) : Blk × Comet :=
  if k.pass = x.pass then (b, b.cometStore x k)
  else if x.pass then (b, { x with later := x.later ++ [k] })
  else (b.addInst Cnt.cometDiscard 1, x)

/-- The port that a comet message comes by. -/
def Blk.cometPort (b : Blk) (k : CometMsg) : Port :=
  match b.routeTo (posOf b.self) k.src with
  | .out p => p
  | _ => .here

/-- Why a message does not fit the collective here: SHAPE, CONFIG, CRC (R255). -/
def Blk.cometMisfit (b : Blk) (x : Comet) (k : CometMsg) : Option Nat :=
  if k.op != x.op || k.int != x.int || k.mode != x.ordered || k.len.toNat != x.len then some 4
  else if k.check != b.checkOf x.entry then some 5
  else if BitVec.ofNat 16 (crc32c k.payload).toNat != k.crc then some 7
  else none

/-- A member fails a collective: COMET_FAULT, and CABORT to its partners (R256). -/
def Blk.failComet (b : Blk) (x : Comet) (reason : Nat) : Blk :=
  if (b.ctx x.ctx).alive then b.ctxFault x.ctx (fComet reason x.id) else b.abortComet x

/-- Messages that came before the start are taken up while receive entries are free; their bytes are charged now (R248;
14 R379), and one that does not fit says why (R255). -/
def Blk.cometEarly (b : Blk) (x : Comet) : Blk × Comet × Option Nat :=
  let r := b.comets.early.foldl (fun (st : Blk × Comet × Option Nat × List CometMsg) k =>
    let (b, x, bad, kept) := st
    if k.id != x.id || bad.isSome || 16 ≤ x.entries then (b, x, bad, kept ++ [k])
    else
      let b := b.rxBytes (some x.ctx) (b.cometPort k) k.size
      match b.cometMisfit x k with
      | some r => (b, x, some r, kept)
      | none =>
        let (b, x) := b.cometPut x k
        (b, x, none, kept)) (b, x, none, [])
  ({ r.1 with comets := { r.1.comets with early := r.2.2.2 } }, r.2.1, r.2.2.1)

/-- A pass starts: the own value is present and leaves, and what came for it already is stored. -/
def Blk.cometPass (b : Blk) (x : Comet) : Blk × Comet :=
  let ring := b.pkgRing x.entry
  let ks := x.later
  let x := { x with values := [(b.ixIn ring, x.own)], acc := none, stage := 0, step := 0, rail := [], later := [],
                    since := b.cycle.toNat }
  (b.cometSpread x, ks.foldl (fun x k => b.cometStore x k) x)

/-- The collective completes at this member: dst is written (R247). -/
def Blk.cometEnd (b : Blk) (x : Comet) (v : List Byte) : Blk :=
  let b := b.dropComet x
  if x.barrier || x.len = 0 then b
  else
    let r := (b.storeFlat x.part x.dst 0 (x.result v)).foldl (fun (r : Except Flt Blk) y =>
      match r, y with
      | .error e, _ => .error e
      | .ok b, .write sp a bs => (b.noteWrite sp a bs.length).wrSpace (some x.ctx) sp a bs
      | .ok _, .fault e => .error e
      | .ok b, _ => .ok b) (.ok b)
    match r with
    | .ok b => b
    | .error e => b.ctxFault x.ctx e

/-- Advance a collective as far as what has come allows. -/
def Blk.cometGo : Nat → Blk → Comet → Blk
  | 0, b, _ => b
  | fuel + 1, b, x =>
    match b.cometEarly x with
    | (b, x, some r) => (b.setComet x).failComet x r
    | (b, x, none) =>
      match b.cometOne x with
      | none => b.setComet x
      | some (b, y, none) => Blk.cometGo fuel b y
      | some (b, y, some v) =>
        if y.pass then
          let r := b.cometPass { y with pass := false, grid := (wordsOf v).map fun w => Nat.max 1 w.toNat }
          Blk.cometGo fuel r.1 r.2
        else b.cometEnd y v

/-! ### Start (R246 to R249, R252) -/

/-- A comet start as it stands at issue. -/
structure CometIn where
  id : Word
  entry : Option (BitVec 4)
  barrier : Bool
  op : BitVec 2
  int : Bool
  len : Nat
  src : Desc
  dst : Desc

def CometIn.ahead (s : CometIn) (b : Blk) : Bool :=
  match s.entry with
  | none => false
  | some e =>
    let d := seqBehind (b.fgroup e).cometSeq (seqOf s.id)
    d != 0 && 2 ^ 19 < d

/-- Limits of the engine: 16 collectives, 2 of a group (R243). -/
def CometIn.full (s : CometIn) (b : Blk) : Bool :=
  16 ≤ b.comets.live.length || 2 ≤ (b.comets.live.filter fun x => some x.entry = s.entry).length

def CometIn.faults (s : CometIn) (b : Blk) : List Flt :=
  match s.entry with
  | none => [fComet 1 s.id]
  | some e =>
    let g := b.fgroup e
    let behind := seqBehind g.cometSeq (seqOf s.id)
    (if 1 ≤ behind && behind ≤ 2 ^ 19 then [fComet (if g.spent.contains (true, seqOf s.id) then 9 else 2) s.id] else [])
      ++ (if !(b.grp e).tiered && g.members.any fun i => pkgOf i != pkgOf b.self then [fComet 8 s.id] else [])

def Blk.startComet (b : Blk) (p : Site) (s : CometIn) (src : List Byte) : Blk :=
  match s.entry with
  | none => b
  | some e =>
    let g := b.fgroup e
    let part := (b.ctx p.ctx).part
    let ord := ordered (b.arith part)
    let b := b.setFgroup e (FGroup.skipSpent true (g.advance true))
    let x : Comet :=
      { id := s.id, ctx := p.ctx, queue := p.queue, part := part, entry := e, barrier := s.barrier, op := s.op, int := s.int,
        ordered := ord, len := s.len, src := src, dst := s.dst, pass := ord && !s.int && s.op = 0 && s.len != 0, grid := [],
        values := [], acc := none, stage := 0, step := 0, rail := [], later := [], since := b.cycle.toNat }
    let b := { b with comets := { b.comets with
      live := b.comets.live ++ [x], starts := b.comets.starts.filter fun t => !(t.1 = p.ctx && t.2.1 = p.queue) } }
    let r := b.cometPass x
    Blk.cometGo 64 r.1 r.2

/-- A start held back by its turn stands in its group's comet pending queue (R248). -/
def Blk.noteComet (b : Blk) (p : Site) : Blk :=
  match (b.que p).waiting, (b.que p).outside with
  | true, some (.cometTurn id) =>
    if b.comets.starts.any fun t => t.1 = p.ctx && t.2.1 = p.queue then b
    else { b with comets := { b.comets with starts := b.comets.starts ++ [(p.ctx, p.queue, id, b.cycle.toNat)] } }
  | _, _ => b

def Blk.cometReduceReq (b : Blk) (p : Site) (f : RFields) : Req :=
  let x := b.ctx p.ctx
  Req.mk (encR 0x4C f) f.g .other
      (b.badD x f.b needR || b.badD x f.c needW || anyUsed [f.e, f.f, f.gg, f.h, f.i] || 8 ≤ f.m.toNat)
      ([regS p f.a] ++ regD f.b ++ regD f.c)
      fun b y _ =>
        let id := y.s p.queue f.a
        let src := (y.descF f.b).getD Desc.zero
        let dst := (y.descF f.c).getD Desc.zero
        let len := 4 * f.d.toNat
        let i : CometIn := { id := id, entry := b.entryFor y.part id, barrier := false, op := BitVec.ofNat 2 f.m.toNat,
                             int := bit f.m.toNat 2, len := len, src := src, dst := dst }
        let format := 64 < len || i.op = 3 || (i.op = 2 && !i.int)
        let place := !src.isScratch || !dst.isScratch || src.base % 64 != 0 || dst.base % 64 != 0
        let shape := src.covers < len || dst.covers < len
        let read := if format || place || shape then .ok [] else b.loadFlat y.part src 0 len
        { ledger := 8, tag := id, wait := i.ahead b || i.full b, out := if i.ahead b then some (.cometTurn id) else none,
          faults := (if place then [fBadOperand] else []) ++ (if format then [fBadFormat] else [])
            ++ (if shape then [fBadShape] else []) ++ (match read with
              | .error e => [e]
              | .ok _ => []) ++ i.faults b,
          reads := b.rangeOf y.part src, writes := b.rangeOf y.part dst,
          act := fun b => b.startComet p i (match read with
            | .ok bs => bs
            | .error _ => []) }

def execCometReduce (p : Site) (f : RFields) (s : State) : Host.Outcome State Fault Refusal :=
  s.block fun a b => (b.issueReq a p (b.cometReduceReq p f)).noteComet p

/-- `comet.barrier` (R247): SUM of FP32 without an exponent pass. DESIGN CHOICE (log 71). -/
def cometBarrierReq (p : Site) (f : RFields) : Req :=
  Req.mk (encR 0x4D f) f.g .other
      (anyUsed [f.b, f.c, f.d, f.e, f.f, f.gg, f.h, f.i] || f.m != 0) [regS p f.a]
      fun b y _ =>
        let id := y.s p.queue f.a
        let i : CometIn := { id := id, entry := b.entryFor y.part id, barrier := true, op := 0, int := false, len := 0,
                             src := Desc.zero, dst := Desc.zero }
        { ledger := 8, tag := id, wait := i.ahead b || i.full b, out := if i.ahead b then some (.cometTurn id) else none,
          faults := i.faults b, act := fun b => b.startComet p i [] }

def execCometBarrier (p : Site) (f : RFields) (s : State) : Host.Outcome State Fault Refusal :=
  s.block fun a b => (b.issueReq a p (cometBarrierReq p f)).noteComet p

/-! ### CDATA (R244, R248, R250, R255, R256) -/

/-- A comet message with a reserved value, or a field outside its use (R244). -/
def badComet (k : CometMsg) : Bool :=
  k.op = 3 || 4 ≤ k.stage.toNat || (k.stage != 2 && k.step != 0) || 9 ≤ k.step.toNat || k.rsv != 0 || k.rsv8 != 0
    || 64 < k.len.toNat || k.len.toNat % 4 != 0 || k.payload.length != k.len.toNat || (k.len = 0 && k.crc != 0)
    || (k.kind = 3 && k.len != 0)

def Blk.discardComet (b : Blk) : Blk := b.addInst Cnt.cometDiscard 1

/-- The number of members behind its sender, as the copy runs, at which this one stands, and whether the copy
runs forward (R250). -/
def copyPlace (m o i : Nat) : Nat × Bool :=
  let d := (i + m - o) % m
  if d ≤ fwdReach m then (d, true) else (m - d, false)

/-- Forward a package value by cut-through where its copy covers more members; what a member forwards of another's value is
charged to no context (14 R379). -/
def Blk.cometOn (b : Blk) (e : BitVec 4) (k : CometMsg) : Blk :=
  let ring := b.pkgRing e
  match findIdx (fun i => i = k.src) ring with
  | none => b
  | some o =>
    let i := b.ixIn ring
    let r := copyPlace ring.length o i
    if r.1 < (if r.2 then fwdReach ring.length else backReach ring.length) then
      match neighbour ring i (!r.2) with
      | some aim => b.sendComet none { k with dst := aim }
      | none => b
    else b

def Blk.liveComet (b : Blk) (id : Word) : Option Comet := b.comets.live.find? fun x => x.id = id

/-- Whether the collective of a message may still start here. -/
def Blk.cometMay (b : Blk) (id : Word) : Bool :=
  match b.entryOf id with
  | none => false
  | some e =>
    let behind := seqBehind (b.fgroup e).cometSeq (seqOf id)
    !(1 ≤ behind && behind ≤ 2 ^ 19)

/-- A value for this instance: into a receive entry of a collective that runs here, else into the early-arrival table. -/
def Blk.takeComet (b : Blk) (k : CometMsg) : Blk :=
  match b.entryOf k.id, b.liveComet k.id with
  | none, _ => b.discardComet
  | some e, some x =>
    let b := b.rxBytes (some x.ctx) (b.cometPort k) k.size
    match b.cometMisfit x k with
    | some r => b.failComet x r
    | none =>
      let b := if k.stage = 0 then b.cometOn e k else b
      let (b, x) := b.cometPut x k
      Blk.cometGo 64 b x
  | some e, none =>
    if !b.cometMay k.id then b.discardComet
    else
      let b := if k.stage = 0 then b.cometOn e k else b
      { b with comets := { b.comets with early := b.comets.early ++ [k] } }

/-- A message for another instance goes on by the routes of R159 (R250). -/
def Blk.passComet (b : Blk) (k : CometMsg) : Blk := b.sendComet none k

/-! ### CABORT and timeouts (R255, R256) -/

/-- An abort of a collective not yet started: its sequence number is consumed, and the abort goes on to every
member that the collective would message. -/
def Blk.spendComet (b : Blk) (e : BitVec 4) (k : CometMsg) : Blk :=
  let g := b.fgroup e
  let seq := seqOf k.id
  let behind := seqBehind g.cometSeq seq
  if (1 ≤ behind && behind ≤ 2 ^ 19) || g.spent.contains (true, seq) then b
  else
    let b := b.setFgroup e (FGroup.skipSpent true { g with spent := g.spent ++ [(true, seq)] })
    let b := { b with comets := { b.comets with early := b.comets.early.filter fun y => y.id != k.id } }
    let ring := b.pkgRing e
    let i := b.ixIn ring
    let rail := b.railByA e
    let near := if 1 < ring.length then [neighbour ring i false, neighbour ring i true].filterMap id else []
    let far := if (b.grp e).tiered then (railPlan rail.length (b.ixIn rail) 0).filterMap fun t => rail[t.2.2]? else []
    ((near ++ far).eraseDups).foldl (fun b aim => b.sendComet none { k with src := b.self, dst := aim, ttl := b.ttlInit }) b

/-- A CABORT for this instance. -/
def Blk.takeCabort (b : Blk) (k : CometMsg) : Blk :=
  match b.liveComet k.id, b.entryOf k.id with
  | some x, _ => (b.rxBytes (some x.ctx) (b.cometPort k) k.size).failComet x 9
  | none, some e => b.spendComet e k
  | none, none => b.discardComet

/-! ### The port FIFOs of comet messages (R242, R248) -/

/-- A comet message leaves its message buffer: link credit for it goes back (R242; 17 R424). -/
def Blk.freeMsg (b : Blk) (k : CometMsg) : Blk :=
  match b.cometPort k with
  | .here => b
  | p => b.modLink p.ix fun l => { l with rxWords := l.rxWords.wr 3 (l.rxWords.rd 3 + 1) }

/-- A comet message is taken from its port FIFO. -/
def Blk.cometPacket (b : Blk) (k : CometMsg) : Blk :=
  let b := b.freeMsg k
  if k.dst != b.self then b.passComet k
  else Blk.settle b (if k.kind = 1 then b.takeComet k else b.takeCabort k)

/-- CDATA for which no receive entry, or no place in the early-arrival table, is free stays in its port FIFO (R248). -/
def Blk.cometRefused (b : Blk) (k : CometMsg) : Bool :=
  k.kind = 1 && k.dst = b.self && match b.liveComet k.id with
    | some x => (b.cometMisfit x k).isNone && 16 ≤ x.entries
    | none => b.cometMay k.id && 64 ≤ b.comets.early.length

/-- Whether a comet message has to wait in its port FIFO, behind one of its port that waits or by itself. -/
def Blk.cometWaits (b : Blk) (k : CometMsg) : Bool :=
  (b.comets.held.any fun y => b.cometPort y = b.cometPort k) || b.cometRefused k

/-- A comet message stays in one of the 32 message buffers of its port; where all of them are taken, the peer has no credit for
it, and it is not accepted (R242). -/
def Blk.holdComet (b : Blk) (k : CometMsg) : Blk :=
  if 32 ≤ (b.comets.held.filter fun y => b.cometPort y = b.cometPort k).length then b
  else { b with comets := { b.comets with held := b.comets.held ++ [k] } }

/-- A comet message arrives at its port FIFO. -/
def Blk.atCometPort (b : Blk) (k : CometMsg) : Blk := if b.cometWaits k then b.holdComet k else b.cometPacket k

def execCdataReceive (k : CometMsg) (s : State) : Host.Outcome State Fault Refusal :=
  s.block fun _ b => if k.kind != 1 || badComet k then (b.freeMsg k).discardComet else b.atCometPort k

def execCabortReceive (k : CometMsg) (s : State) : Host.Outcome State Fault Refusal :=
  s.block fun _ b => if k.kind != 3 || badComet k then (b.freeMsg k).discardComet else b.atCometPort k

/-- A start waited for its turn, or a collective for a message, beyond the group timeout (R248, R255). -/
def execCometTimeout (p : Site) (id : Word) (s : State) : Host.Outcome State Fault Refusal :=
  s.block fun _ b =>
    match b.comets.live.find? fun x => x.id = id && x.ctx = p.ctx with
    | some x => if b.cycle.toNat ≤ x.since + (b.grp x.entry).cycles then b else Blk.settle b (b.failComet x 6)
    | none =>
      match b.comets.starts.find? fun t => t.1 = p.ctx && t.2.1 = p.queue && t.2.2.1 = id, b.entryOf id with
      | some t, some e =>
        if !isAhead (b.fgroup e).cometSeq (seqOf id) || b.cycle.toNat ≤ t.2.2.2 + (b.grp e).cycles then b
        else Blk.settle b (b.fault p (b.que p).pc (b.entryWord p (b.que p).pc) (fComet 3 id))
      | _, _ => b

end Sys2Proof.Machine
end

