-- ==== Sys2Proof/Machine/Vec.lean ====
section
/-! DEFINITION. Vec: runs of elements of a row under a clamp mode (11 R289), and the vector lane instructions
(13 R340 to R342; 12 R306). -/

namespace Sys2Proof.Machine
open Sys2Proof

/-! ### Runs of a row's elements -/

/-- Write elements from `col` on of the row at a byte offset; in a block-scaled row `col` starts a block, and a
block takes its scale over the elements written (R40). -/
def Blk.storeRun (b : Blk) (n : PartId) (d : Desc) (off : Int) (col : Nat) (ws : List Word) : List Fx :=
  let sat := saturates (b.arith n)
  if ws.isEmpty then []
  else if d.block then
    let qs := (pieces 32 ws).map (quantBlock (fmtOf d.fmt) sat)
    b.storeAt n d (off + (col : Int)) (qs.flatMap (·.1)) ++ b.storeAt n d (off + ((d.n0 + col / 32 : Nat) : Int)) (qs.map (·.2.1))
      ++ encodeFx d.fmt sat ws
  else
    b.storeAt n d (off + ((col * d.e : Nat) : Int)) (encodeRow d.fmt sat ws).1 ++ encodeFx d.fmt sat ws

/-- The one element an EDGE write beyond a row's end reaches: the last value written stays. In a block-scaled
row it is narrowed under its block's scale as that then stands. -/
def Blk.storeEdge (b : Blk) (n : PartId) (d : Desc) (off : Int) (k : Nat) (w : Word) : List Fx :=
  if d.block then
    match b.bytesAt n d (off + ((d.n0 + k / 32 : Nat) : Int)) 1 with
    | .error e => [.fault e]
    | .ok s =>
      let scale := (s.headD 0).toNat
      let r := if scale = 255 then ((fmtOf d.fmt).nan, false)
        else match valOf w with
          | .fin g m e => (fmtOf d.fmt).round (saturates (b.arith n)) (.fin g m (e + 127 - (scale : Int)))
          | v => (fmtOf d.fmt).round (saturates (b.arith n)) v
      b.storeAt n d (off + (k : Int)) [BitVec.ofNat 8 r.1] ++ countFx Cnt.arithSat (b01 r.2)
        ++ countFx Cnt.arithNan (b01 (r.1 = (fmtOf d.fmt).nan && !isNaN32 w))
  else b.storeRun n d off k [w]

/-- Write elements of a row from number `i0` on under its clamp mode (R289). -/
def Blk.writeRun (b : Blk) (n : PartId) (d : Desc) (r : Reach) (i0 : Int) (ws : List Word) : List Fx :=
  match r with
  | .fault => [.fault fBadIndex]
  | .fill => countFx Cnt.tensorClamps ws.length
  | .row off rc =>
    let (pre, first, mid, post) := spanIn d.n0 i0 ws.length
    if d.clamp = 2 && pre != 0 then [.fault fBadIndex]
    else
      let run := b.storeRun n d off first ((ws.drop pre).take mid)
      if d.clamp = 2 && post != 0 then run ++ [.fault fBadIndex]
      else
        let last := ws.getLastD 0
        let edge := if d.clamp != 1 then []
          else if post != 0 then (b.afterWrites run).storeEdge n d off (d.n0 - 1) last
          else if mid = 0 && pre != 0 then b.storeEdge n d off 0 last
          else []
        run ++ edge ++ countFx Cnt.tensorClamps (if rc then ws.length else pre + post)

/-! ### `vld` and `vst` (R341) -/

/-- A v register of the present run; one that the run has not written reads +0 (R306). -/
def Queue.v (u : Queue) (f : BitVec 5) : List Word := u.vregs.get (f.toNat % 16) (List.replicate vecLen 0)

/-- The v registers of a queue as reads meet them (02 R55). -/
def Queue.vRead (u : Queue) (m : Mem) (p : Site) : Queue :=
  if (m.hurtOf 23 fun _ => true).isEmpty then u
  else { u with vregs := (List.range 16).map fun r => (r, m.arrayWords 23 (vWord p (BitVec.ofNat 4 r)) (u.v (BitVec.ofNat 5 r))) }

/-- Ledger of `vld` and `vst`. -/
def moveVecLedger (d : Desc) : Nat :=
  let vb := if d.block then 1056 else vecLen * d.e
  let w := if d.isScratch then Nat.min 1024 (128 * popCount 16 d.banks.toNat) else if d.isStack then 400
    else if d.isOwned then 512 else 1024
  ceilDiv vb (Nat.max 1 w) + 2

/-- Faults of the descriptor and column of `vld` and `vst`. -/
def vecFaults (d : Desc) (col : Int) : List Flt :=
  (if d.block && col % 32 != 0 then [fBadOperand] else []) ++ if 2 < d.rank.toNat then [fBadShape] else []

/-- A partition without lanes issues no vec-, func- or norm-class instruction (14 R355). -/
def Blk.noLanes (b : Blk) (p : Site) : Bool := b.partLanes (b.ctx p.ctx).part = 0

/-- The lanes' cycles for a cost at 64 lanes (00 R4; 14 R355). -/
def Blk.laneCost (b : Blk) (n : PartId) (l : Nat) : Nat := ceilDiv (l * 64) (Nat.max 1 (b.partLanes n))

/-- The ranges of `vld` and `vst`, with the bytes that one vector moves. -/
def vecRange (d : Desc) (l : List Range) : List Range :=
  l.map fun r => { r with bytes := if d.block then 1056 else vecLen * d.e }

/-- The row of an OWNED descriptor that `vld` reads. -/
def Blk.vldOwned (b : Blk) (x : Ctx) (d : Desc) (reg : BitVec 4) (run : Nat) (row col : Int) (n : Plan) : Plan :=
  match b.ownerOf x d with
  | .error e => { n with faults := n.faults ++ [e] }
  | .ok (bind, img) =>
    let n := { n with binds := [bind], reads := [] }
    match d.ownReach row with
    | .fault => { n with fx := [.fault fBadIndex] }
    | .fill =>
      { n with fx := b.clampFx x.part d vecLen ++
          [.vreg reg run (List.replicate vecLen (d.fillWord (saturates (b.arith x.part))))] }
    | .row r rc =>
      let (k, p) := ownRow img r.toNat
      if k.owner = b.self then
        let n := { n with reads := vecRange d (b.rangeOf x.part p) }
        match b.readRun x.part { p with clamp := d.clamp, fill := d.fill } (.row (p.base : Int) rc) col vecLen with
        | .error e => { n with fx := [.fault e] }
        | .ok (ws, c) => { n with fx := c ++ [.vreg reg run ws] }
      else
        let (pre, _, _, post) := spanIn d.n0 col vecLen
        if d.clamp = 2 && (pre != 0 || post != 0) then { n with fx := [.fault fBadIndex] }
        else { n with fx := b.clampFx x.part d (if rc then vecLen else pre + post),
                      job := .vload reg run r.toNat (BitVec.ofInt 32 col).toNat d
                        [b.remoteFetch x.part bind (OwnHdr.of img) k.owner r.toNat 0] }

/-- The words that `vld` takes from a remote row's bytes. -/
def Blk.vloadWords (b : Blk) (n : PartId) (d : Desc) (col : Nat) (bs : List Byte) : List Word :=
  let row := decodeRow d.fmt d.n0 bs
  let c := sInt (BitVec.ofNat 32 col)
  (List.range vecLen).map fun (i : Nat) =>
    let k := c + (i : Int)
    if inIx k d.n0 then row.getD k.toNat 0
    else if d.clamp = 1 then row.getD (clampIx k d.n0) 0
    else d.fillWord (saturates (b.arith n))

def Blk.vldReq (b : Blk) (p : Site) (f : RFields) : Req :=
  let x := b.ctx p.ctx
  Req.mk (encR 0x50 f) f.g .vec
      (badV f.a || b.badD x f.b ⟨false, true, false, true⟩ || anyUsed [f.e, f.f, f.gg, f.h, f.i] || f.m != 0 || b.noLanes p)
      ([regV p (BitVec.ofNat 4 f.a.toNat), regS p f.c, regS p f.d] ++ regD f.b)
      fun b x u =>
        let d := (x.descF f.b).getD Desc.zero
        let row := sInt (x.s p.queue f.c)
        let col := sInt (x.s p.queue f.d)
        let reg := BitVec.ofNat 4 f.a.toNat
        let n : Plan := { ledger := moveVecLedger d, units := [.lanes], faults := vecFaults d col,
                          pend := [regV p reg], reads := vecRange d (b.rangeOf x.part d) }
        if !n.faults.isEmpty then n
        else if d.isOwned then b.vldOwned x d reg u.runNo row col n
        else match b.readRun x.part d (d.reach row 0 0) col vecLen with
          | .error e => { n with fx := [.fault e] }
          | .ok (ws, c) => { n with fx := c ++ [.vreg reg u.runNo ws] }

def execVld (p : Site) (f : RFields) (s : State) : Host.Outcome State Fault Refusal :=
  s.block fun a b => b.issueReq a p (b.vldReq p f)

/-- A `vst` to a row of a distributed tensor: in place where this instance owns it (R298). -/
def Blk.vstOwned (b : Blk) (x : Ctx) (d : Desc) (row col : Int) (ws : List Word) (n : Plan) : Plan :=
  match b.ownerOf x d with
  | .error e => { n with faults := n.faults ++ [e] }
  | .ok (bind, img) =>
    let n := { n with binds := [bind], writes := [] }
    match d.ownReach row with
    | .fault => { n with fx := [.fault fBadIndex] }
    | .fill => { n with fx := countFx Cnt.tensorClamps ws.length }
    | .row r rc =>
      let (k, p) := ownRow img r.toNat
      if k.owner != b.self then { n with fx := [.fault (flt 0x0C)] }
      else { n with writes := vecRange d (b.rangeOf x.part p), fx := upToFault (b.writeRun x.part { p with clamp := d.clamp, fill := d.fill } (.row (p.base : Int) rc) col ws) }

def Blk.vstReq (b : Blk) (p : Site) (f : RFields) : Req :=
  let x := b.ctx p.ctx
  Req.mk (encR 0x51 f) f.g .vec
      (badV f.a || b.badD x f.b ⟨false, false, true, true⟩ || anyUsed [f.e, f.f, f.gg, f.h, f.i] || f.m != 0 || b.noLanes p)
      ([regV p (BitVec.ofNat 4 f.a.toNat), regS p f.c, regS p f.d] ++ regD f.b)
      fun b x u =>
        let d := (x.descF f.b).getD Desc.zero
        let row := sInt (x.s p.queue f.c)
        let col := sInt (x.s p.queue f.d)
        let n : Plan := { ledger := moveVecLedger d, units := [.lanes], faults := vecFaults d col,
                          writes := vecRange d (b.rangeOf x.part d) }
        if !n.faults.isEmpty then n
        else
          let ws := (u.vRead b.mem p).v f.a
          let m := if d.isOwned then b.vstOwned x d row col ws n
            else { n with fx := upToFault (b.writeRun x.part d (d.reach row 0 0) col ws) }
          { m with fx := readVs p [f.a] ++ m.fx }

def execVst (p : Site) (f : RFields) (s : State) : Host.Outcome State Fault Refusal :=
  s.block fun a b => b.issueReq a p (b.vstReq p f)

/-! ### Arithmetic (R342) -/

/-- A lane instruction: its fields, the v registers it reads, and its result with the NaNs and saturations it
counts (02 R39). -/
def Blk.laneReq (b : Blk) (p : Site) (op : Nat) (f : RFields) (bad : Bool) (srcs : List (BitVec 5))
    (scalars : List (BitVec 5)) (fma : Bool) (h : Ctx → Queue → List Word × Nat × Nat) : Req :=
  let reg := BitVec.ofNat 4 f.a.toNat
  Req.mk (encR op f) f.g .vec (bad || badV f.a || srcs.any badV || b.noLanes p)
    ([regV p reg] ++ srcs.map (fun v => regV p (BitVec.ofNat 4 v.toNat)) ++ scalars.map (regS p))
    fun b x u =>
      let r := h x (u.vRead b.mem p)
      { ledger := b.laneCost x.part 1, units := [.lanes], pend := [regV p reg],
        fx := readVs p srcs ++ countFx Cnt.arithNan r.2.1 ++ countFx Cnt.arithSat r.2.2 ++ [.vreg reg u.runNo r.1],
        energy := if fma then b.coef 2 * vecLen else 0 }

/-- NaN results whose operands are none. -/
def newNaNs (rs : List (Word × List Word)) : Nat := (rs.filter fun r => isNaN32 r.1 && !r.2.any isNaN32).length

/-- An element-wise operation of two registers, typed FP32 or INT32. -/
def lane2 (int : Bool) (hf hi : Word → Word → Word) (u v : List Word) : List Word × Nat × Nat :=
  if int then ((u.zip v).map fun q => hi q.1 q.2, 0, 0)
  else
    let rs := (u.zip v).map fun q => (hf q.1 q.2, [q.1, q.2])
    (rs.map (·.1), newNaNs rs, 0)

/-- The form of `vadd`, `vsub`, `vmul`, `vmax` and `vmin`. -/
def Blk.typedReq (b : Blk) (p : Site) (op : Nat) (f : RFields) (fma : Bool) (hf hi : Word → Word → Word) : Req :=
  b.laneReq p op f (anyUsed [f.d, f.e, f.f, f.gg, f.h, f.i] || 2 ≤ f.m.toNat) [f.b, f.c] [] fma
    fun _ u => lane2 (f.m = 1) hf hi (u.v f.b) (u.v f.c)

def Blk.vbcastReq (b : Blk) (p : Site) (f : RFields) : Req :=
  b.laneReq p 0x52 f (anyUsed [f.c, f.d, f.e, f.f, f.gg, f.h, f.i] || f.m != 0) [] [f.b] false
    fun x _ => (List.replicate vecLen (x.s p.queue f.b), 0, 0)

def execVbcast (p : Site) (f : RFields) (s : State) : Host.Outcome State Fault Refusal :=
  s.block fun a b => b.issueReq a p (b.vbcastReq p f)

def Blk.vaddReq (b : Blk) (p : Site) (f : RFields) : Req :=
  b.typedReq p 0x53 f true f32Add (· + ·)

def execVadd (p : Site) (f : RFields) (s : State) : Host.Outcome State Fault Refusal :=
  s.block fun a b => b.issueReq a p (b.vaddReq p f)

def Blk.vsubReq (b : Blk) (p : Site) (f : RFields) : Req :=
  b.typedReq p 0x54 f true f32Sub (· - ·)

def execVsub (p : Site) (f : RFields) (s : State) : Host.Outcome State Fault Refusal :=
  s.block fun a b => b.issueReq a p (b.vsubReq p f)

def Blk.vmulReq (b : Blk) (p : Site) (f : RFields) : Req :=
  b.typedReq p 0x55 f true f32Mul (· * ·)

def execVmul (p : Site) (f : RFields) (s : State) : Host.Outcome State Fault Refusal :=
  s.block fun a b => b.issueReq a p (b.vmulReq p f)

def Blk.vfmaReq (b : Blk) (p : Site) (f : RFields) : Req :=
  b.laneReq p 0x56 f (anyUsed [f.e, f.f, f.gg, f.h, f.i] || f.m != 0) [f.b, f.c, f.d] [] true
    fun _ u =>
      let rs := ((u.v f.b).zip ((u.v f.c).zip (u.v f.d))).map fun q => (f32Fma q.1 q.2.1 q.2.2, [q.1, q.2.1, q.2.2])
      (rs.map (·.1), newNaNs rs, 0)

def execVfma (p : Site) (f : RFields) (s : State) : Host.Outcome State Fault Refusal :=
  s.block fun a b => b.issueReq a p (b.vfmaReq p f)

def Blk.vmaxReq (b : Blk) (p : Site) (f : RFields) : Req :=
  b.typedReq p 0x57 f false f32Max fun x y => if x.slt y then y else x

def execVmax (p : Site) (f : RFields) (s : State) : Host.Outcome State Fault Refusal :=
  s.block fun a b => b.issueReq a p (b.vmaxReq p f)

def Blk.vminReq (b : Blk) (p : Site) (f : RFields) : Req :=
  b.typedReq p 0x58 f false f32Min fun x y => if y.slt x then y else x

def execVmin (p : Site) (f : RFields) (s : State) : Host.Outcome State Fault Refusal :=
  s.block fun a b => b.issueReq a p (b.vminReq p f)

/-- Condition codes that `vcmp` reserves: all but 0 to 5 (R332). -/
def badVCond (cc : BitVec 4) : Bool := 6 ≤ cc.toNat

def Blk.vcmpReq (b : Blk) (p : Site) (f : RFields) : Req :=
  b.laneReq p 0x59 f (anyUsed [f.d, f.e, f.f, f.gg, f.h, f.i] || badVCond f.m) [f.b, f.c] [] false
    fun _ u => (((u.v f.b).zip (u.v f.c)).map fun q => if f32Cmp f.m.toNat q.1 q.2 then 0xFFFFFFFF else 0, 0, 0)

def execVcmp (p : Site) (f : RFields) (s : State) : Host.Outcome State Fault Refusal :=
  s.block fun a b => b.issueReq a p (b.vcmpReq p f)

def Blk.vselReq (b : Blk) (p : Site) (f : RFields) : Req :=
  b.laneReq p 0x5A f (anyUsed [f.e, f.f, f.gg, f.h, f.i] || f.m != 0) [f.b, f.c, f.d] [] false
    fun _ u => (((u.v f.b).zip ((u.v f.c).zip (u.v f.d))).map fun q => if q.1 != 0 then q.2.1 else q.2.2, 0, 0)

def execVsel (p : Site) (f : RFields) (s : State) : Host.Outcome State Fault Refusal :=
  s.block fun a b => b.issueReq a p (b.vselReq p f)

/-- One element converted, and whether it saturated or clamped (R342). -/
def convWord (m : Nat) (sat : Bool) (w : Word) : Word × Bool :=
  let held := fun (fmt : Nat) =>
    let r := narrowElem fmt sat w
    (widenElem fmt r.1, r.2)
  match m with
  | 0 => toIntW 32 (valOf w)
  | 1 => (toF32 (ofInt32 (sInt w)), false)
  | 2 => held 0
  | 3 => held 1
  | 4 => held 5
  | 5 => held 6
  | _ =>
    let r := narrowElem 7 sat w
    (widenElem 7 r.1, r.2)

def Blk.vcvtReq (b : Blk) (p : Site) (f : RFields) : Req :=
  let sat := saturates (b.arith (b.ctx p.ctx).part)
  b.laneReq p 0x5B f (anyUsed [f.c, f.d, f.e, f.f, f.gg, f.h, f.i] || 7 ≤ f.m.toNat) [f.b] [] false
    fun _ u =>
      let rs := (u.v f.b).map (convWord f.m.toNat sat)
      let nan := if f.m = 4 then newNaNs (((u.v f.b).zip rs).map fun q => (q.2.1, [q.1])) else 0
      (rs.map (·.1), nan, (rs.filter (·.2)).length)

def execVcvt (p : Site) (f : RFields) (s : State) : Host.Outcome State Fault Refusal :=
  s.block fun a b => b.issueReq a p (b.vcvtReq p f)

end Sys2Proof.Machine
end

