-- ==== Sys2Proof/Machine/Func.lean ====
section
/-! DEFINITION. Func: the function pipes (10 R257 to R262), the row commands `norm.*` (10 R265 to R270; 13 R343), and
the mixer commands (13 R344, R345; 16 R400 to R407). -/

namespace Sys2Proof.Machine
open Sys2Proof

/-! ### Rows -/

/-- The indices of row `i` of a descriptor (R557). -/
def Desc.rowIx (d : Desc) (i : Nat) : Int × Int × Int :=
  (((i % d.n1 : Nat) : Int), ((i / d.n1 % d.n2 : Nat) : Int), ((i / (d.n1 * d.n2) : Nat) : Int))

/-- Read the row of `d` at the indices that row `i` of `like` has, `like.n0` elements wide (R289). -/
def Blk.rowLike (b : Blk) (n : PartId) (d like : Desc) (i : Nat) : Except Flt (List Word × List Fx) :=
  let ix := like.rowIx i
  b.readRun n d (d.reach ix.1 ix.2.1 ix.2.2) 0 like.n0

/-- Write words where row `i` of `like` stands. -/
def Blk.putLike (b : Blk) (n : PartId) (d like : Desc) (i : Nat) (ws : List Word) : List Fx :=
  let ix := like.rowIx i
  b.writeRun n d (d.reach ix.1 ix.2.1 ix.2.2) 0 ws

/-- Row by row: the effects of every row up to the first failure. -/
def rowsFx (rows : Nat) (go : Nat → Except Flt (List Fx)) : List Fx :=
  upToFault ((List.range rows).flatMap fun i => match go i with
    | .error e => [.fault e]
    | .ok fx => fx)

/-- Floating-point formats of a source. -/
def floatFmt (fmt : Nat) : Bool := fmt ≤ 6

/-- A func- or norm-class command does not issue while a `sample` is in flight (R259). -/
def Blk.rowWaits (b : Blk) : Bool := b.sampling

/-! ### Functions (R260 to R262) -/

/-- Destination format of a func instruction's out field. -/
def outFmt (m : BitVec 4) : Nat := if m = 0 then 4 else if m = 1 then 0 else 1

/-- One row of a function: results, and NaNs from operands that are none. -/
def fnRow (h : Word → Word → Word) (pair : Bool) (xs ys : List Word) : List Word × Nat :=
  let rs := (xs.zip ys).map fun q => (h q.1 q.2, if pair then [q.1, q.2] else [q.1])
  (rs.map (·.1), newNaNs rs)

/-- Offsets of `exp`, one a row. -/
def Blk.offsets (b : Blk) (n : PartId) (d : Option Desc) (rows : Nat) : Except Flt (List Word) :=
  match d with
  | none => .ok []
  | some d => b.elemWords n d rows

/-- The effects of a function instruction. -/
def Blk.fnFx (b : Blk) (n : PartId) (src dst : Desc) (other : Option Desc) (off : Option Desc) (h : Word → Word → Word) : List Fx :=
  match b.offsets n off src.rows with
  | .error e => [.fault e]
  | .ok os =>
    rowsFx src.rows fun i =>
      match b.rowLike n src src i with
      | .error e => .error e
      | .ok (xs, _) =>
        let second := match other with
          | some d => b.rowLike n d src i
          | none => .ok (if off.isSome then List.replicate src.n0 (os.getD i 0) else xs, [])
        match second with
        | .error e => .error e
        | .ok (ys, c) =>
          let r := fnRow h (other.isSome || off.isSome) xs ys
          .ok (c ++ countFx Cnt.arithNan r.2 ++ b.putLike n dst src i r.1)

/-- A function instruction: `two` takes a second source in C, `offset` an optional offset there. -/
def Blk.fnReq (b : Blk) (p : Site) (op : Nat) (f : RFields) (two offset : Bool) (h : Word → Word → Word) : Req :=
  let x := b.ctx p.ctx
  Req.mk (encR op f) f.g .other
    (b.badD x f.a needR || b.badD x f.b needW
      || (if two then b.badD x f.c needR else if offset then b.badD x f.c optR else used f.c)
      || anyUsed [f.d, f.e, f.f, f.gg, f.h, f.i] || 3 ≤ f.m.toNat || b.noLanes p)
    (regD f.a ++ regD f.b ++ regD f.c)
    fun b x _ =>
      let src := (x.descF f.a).getD Desc.zero
      let dst := (x.descF f.b).getD Desc.zero
      let second := if two then x.descF f.c else none
      let off := if offset then x.descF f.c else none
      let fmt := !floatFmt src.fmt || dst.fmt != outFmt f.m || (match second with
          | some d => !floatFmt d.fmt
          | none => false) || (match off with
          | some d => d.fmt != 4
          | none => false)
      let shape := match off with
        | some d => d.elems < src.rows
        | none => false
      let g := if off.isSome then fun u o => h (f32Sub u o) o else h
      { ledger := ceilDiv src.elems 240 + 24, wait := b.rowWaits, units := [.lanes],
        faults := (if fmt then [fBadFormat] else []) ++ if shape then [fBadShape] else [],
        reads := b.rangesO x.part [some src, second, off], writes := b.rangeOf x.part dst,
        fx := if fmt || shape then [] else b.fnFx x.part src dst second off g, energy := b.coef 3 * src.elems }

/-- A function of one operand. -/
def fn1 (n : Nat) (u _ : Word) : Word := toF32 (fnOf n (valOf u))

def execExp (p : Site) (f : RFields) (s : State) : Host.Outcome State Fault Refusal :=
  s.block fun a b => b.issueReq a p (b.fnReq p 0x60 f false true (fn1 0))

def execLog (p : Site) (f : RFields) (s : State) : Host.Outcome State Fault Refusal :=
  s.block fun a b => b.issueReq a p (b.fnReq p 0x61 f false false (fn1 1))

def execRecip (p : Site) (f : RFields) (s : State) : Host.Outcome State Fault Refusal :=
  s.block fun a b => b.issueReq a p (b.fnReq p 0x62 f false false (fn1 2))

def execRsqrt (p : Site) (f : RFields) (s : State) : Host.Outcome State Fault Refusal :=
  s.block fun a b => b.issueReq a p (b.fnReq p 0x63 f false false (fn1 3))

def execSigmoid (p : Site) (f : RFields) (s : State) : Host.Outcome State Fault Refusal :=
  s.block fun a b => b.issueReq a p (b.fnReq p 0x64 f false false (fn1 4))

def execTanh (p : Site) (f : RFields) (s : State) : Host.Outcome State Fault Refusal :=
  s.block fun a b => b.issueReq a p (b.fnReq p 0x65 f false false (fn1 5))

def execGelu (p : Site) (f : RFields) (s : State) : Host.Outcome State Fault Refusal :=
  s.block fun a b => b.issueReq a p (b.fnReq p 0x66 f false false (fn1 6))

def execSilu (p : Site) (f : RFields) (s : State) : Host.Outcome State Fault Refusal :=
  s.block fun a b => b.issueReq a p (b.fnReq p 0x67 f false false (fn1 7))

def execSoftplus (p : Site) (f : RFields) (s : State) : Host.Outcome State Fault Refusal :=
  s.block fun a b => b.issueReq a p (b.fnReq p 0x68 f false false (fn1 8))

def execSin (p : Site) (f : RFields) (s : State) : Host.Outcome State Fault Refusal :=
  s.block fun a b => b.issueReq a p (b.fnReq p 0x69 f false false (fn1 9))

def execCos (p : Site) (f : RFields) (s : State) : Host.Outcome State Fault Refusal :=
  s.block fun a b => b.issueReq a p (b.fnReq p 0x6A f false false (fn1 10))

def Blk.swigluReq (b : Blk) (p : Site) (f : RFields) : Req :=
  b.fnReq p 0x6B f true false fun u v => toF32 (fnSwiglu (valOf u) (valOf v))

def execSwiglu (p : Site) (f : RFields) (s : State) : Host.Outcome State Fault Refusal :=
  s.block fun a b => b.issueReq a p (b.swigluReq p f)

/-! ### Row statistics (R265 to R268) -/

/-- A pair (h, c) that stands for h + c. -/
abbrev Pair := Word × Word

/-- Join two pairs (R266). -/
def joinPair (p q : Pair) : Pair :=
  let sum := (valOf p.1).add (valOf q.1)
  let s := toF32 sum
  let t := toF32 (sum.add (valOf s).neg)
  (s, f32Add (f32Add p.2 q.2) t)

def padPair : Pair := (negZero, negZero)

/-- The joins in the order of R47. -/
def joinAll (ord : Bool) (lanes : Nat) (l : List Pair) : Pair :=
  if ord then tree joinPair padPair l
  else tree joinPair padPair ((List.range lanes).map fun r => (strided lanes r l).foldl joinPair padPair)

/-- Mean, rstd and whether the variance was clamped, of a row (R266). -/
def rowStat (ord : Bool) (lanes : Nat) (rms : Bool) (eps : Word) (xs : List Word) : Word × Word × Bool :=
  let w : Val := .fin false xs.length 0
  let p := if rms then 0 else xs.headD 0
  let ds := xs.map fun x => f32Sub x p
  let s := joinAll ord lanes (ds.map fun d => (d, 0))
  let q := joinAll ord lanes (ds.map fun d =>
    let h := f32Mul d d
    (h, f32Fma d d (h ^^^ 0x80000000)))
  let sv := (valOf s.1).add (valOf s.2)
  let qv := (valOf q.1).add (valOf q.2)
  -- num × w under LAYER, num itself under RMS
  let num := if rms then qv else (qv.mul w).add (sv.mul sv).neg
  let neg := match num with
    | .fin g m _ => g && m != 0
    | .inf g => g
    | .nan => false
  let num := if neg then .fin false 0 0 else num
  let mean := if rms then 0 else toF32 ((((valOf p).mul w).add sv).div w)
  let var := toF32 (num.div (if rms then w else w.mul w))
  (mean, rsqrt32 (f32Add var eps), neg)

/-- An eps that is finite and not negative (R265). -/
def epsOk (w : Word) : Bool := finite32 w false

/-- The ORDERED factor of a row reduction (R47). -/
def ordCost (ord : Bool) (l : Nat) : Nat := if ord then ceilDiv (l * 69) 64 else l

def Blk.normStatReq (b : Blk) (p : Site) (f : RFields) : Req :=
  let x := b.ctx p.ctx
  Req.mk (encR 0x70 f) f.g .other
      (b.badD x f.a needR || b.badD x f.b needW || anyUsed [f.d, f.e, f.f, f.gg, f.h, f.i] || 2 ≤ f.m.toNat || b.noLanes p)
      (regD f.a ++ regD f.b ++ [regS p f.c])
      fun b x _ =>
        let src := (x.descF f.a).getD Desc.zero
        let st := (x.descF f.b).getD Desc.zero
        let eps := x.s p.queue f.c
        let rms := f.m = 1
        let r := src.rows
        let w := src.n0
        let ord := ordered (b.arith x.part)
        let shape := 16384 < w || st.covers < 8 * r
        let l := ceilDiv (r * w) (if rms then 128 else 64) + ceilDiv r 16 + 32
        { ledger := b.laneCost x.part (ordCost ord l), wait := b.rowWaits, units := [.lanes],
          tile := tileOf (b.laneCost x.part (ordCost ord (ceilDiv w (if rms then 128 else 64)))),
          faults := (if epsOk eps then [] else [fBadOperand]) ++ (if floatFmt src.fmt then [] else [fBadFormat])
            ++ (if shape then [fBadShape] else []),
          reads := b.rangeOf x.part src, writes := b.rangeOf x.part st,
          fx := if shape || !floatFmt src.fmt then [] else rowsFx r fun i =>
            (b.rowWords x.part src i).map fun xs =>
              let y := rowStat ord (b.partLanes x.part) rms eps xs
              let bad := xs.any isNaN32
              let nans := if bad then 0 else b01 (isNaN32 y.1) + b01 (isNaN32 y.2.1)
              (if y.2.2 then [.clampEvent i] else []) ++ countFx Cnt.arithNan nans
                ++ b.storeFlat x.part st (8 * i) (toLe 4 y.1.toNat ++ toLe 4 y.2.1.toNat),
          energy := b.coef 2 * (r * w) }

def execNormStat (p : Site) (f : RFields) (s : State) : Host.Outcome State Fault Refusal :=
  s.block fun a b => b.issueReq a p (b.normStatReq p f)

/-- y of `norm.apply` for one element, exactly (R269). -/
def applyNorm (mean rstd x gamma beta : Word) : Val :=
  ((valOf (f32Mul (f32Sub x mean) rstd)).mul (valOf gamma)).add (valOf beta)

/-- An optional vector of `w` elements, or a default. -/
def Blk.vecOr (b : Blk) (n : PartId) (d : Option Desc) (w : Nat) (dflt : Word) : Except Flt (List Word × List Fx) :=
  match d with
  | none => .ok (List.replicate w dflt, [])
  | some d => b.readRun n d (d.reach 0 0 0) 0 w

def Blk.normApplyReq (b : Blk) (p : Site) (f : RFields) : Req :=
  let x := b.ctx p.ctx
  Req.mk (encR 0x71 f) f.g .other
      (b.badD x f.a needR || b.badD x f.b needR || b.badD x f.c needW || b.badD x f.d optR || b.badD x f.e optR
        || anyUsed [f.f, f.gg, f.h, f.i] || f.m != 0 || b.noLanes p)
      ([f.a, f.b, f.c, f.d, f.e].flatMap regD)
      fun b x _ =>
        let src := (x.descF f.a).getD Desc.zero
        let st := (x.descF f.b).getD Desc.zero
        let dst := (x.descF f.c).getD Desc.zero
        let gamma := x.descF f.d
        let beta := x.descF f.e
        let r := src.rows
        let w := src.n0
        let fmt := !floatFmt src.fmt || !floatFmt dst.fmt || (gamma.toList ++ beta.toList).any fun d => !floatFmt d.fmt
        let shape := st.covers < 8 * r
        { ledger := b.laneCost x.part (ceilDiv (3 * r * w) 1024 + 16), wait := b.rowWaits, units := [.lanes],
          tile := tileOf (b.laneCost x.part (ceilDiv (3 * w) 1024)),
          faults := (if fmt then [fBadFormat] else []) ++ if shape then [fBadShape] else [],
          reads := b.rangesO x.part [some src, some st, gamma, beta], writes := b.rangeOf x.part dst,
          fx := if fmt || shape then [] else match b.vecOr x.part gamma w one32, b.vecOr x.part beta w 0 with
            | .error e, _ => [.fault e]
            | _, .error e => [.fault e]
            | .ok g, .ok be => rowsFx r fun i =>
              match b.rowWords x.part src i, b.loadFlat x.part st (8 * i) 8 with
              | .error e, _ => .error e
              | _, .error e => .error e
              | .ok xs, .ok sb =>
                let mean := BitVec.ofNat 32 (leNat (sb.take 4))
                let rstd := BitVec.ofNat 32 (leNat (sb.drop 4))
                let rs := (xs.zip (g.1.zip be.1)).map fun q =>
                  (outWord dst.fmt (applyNorm mean rstd q.1 q.2.1 q.2.2), [mean, rstd, q.1, q.2.1, q.2.2])
                .ok (g.2 ++ be.2 ++ countFx Cnt.arithNan (newNaNs rs) ++ b.putLike x.part dst src i (rs.map (·.1))),
          energy := b.coef 2 * (r * w) }

def execNormApply (p : Site) (f : RFields) (s : State) : Host.Outcome State Fault Refusal :=
  s.block fun a b => b.issueReq a p (b.normApplyReq p f)

/-! ### Row maxima, sums and scaling (R343) -/

/-- A row reduction to R FP32 values. -/
def Blk.reduceReq (b : Blk) (p : Site) (op : Nat) (f : RFields) (h : Bool → Nat → List Word → Word × Nat) : Req :=
  let x := b.ctx p.ctx
  Req.mk (encR op f) f.g .other
    (b.badD x f.a needR || b.badD x f.b needW || anyUsed [f.c, f.d, f.e, f.f, f.gg, f.h, f.i] || f.m != 0 || b.noLanes p)
    (regD f.a ++ regD f.b)
    fun b x _ =>
      let src := (x.descF f.a).getD Desc.zero
      let dst := (x.descF f.b).getD Desc.zero
      let r := src.rows
      let ord := ordered (b.arith x.part)
      let fmt := !floatFmt src.fmt || dst.fmt != 4
      let shape := dst.elems < r
      { ledger := b.laneCost x.part (ordCost ord (ceilDiv (r * src.n0) 1024 + 16)), wait := b.rowWaits, units := [.lanes],
        tile := tileOf (b.laneCost x.part (ordCost ord (ceilDiv src.n0 1024))),
        faults := (if fmt then [fBadFormat] else []) ++ if shape then [fBadShape] else [],
        reads := b.rangeOf x.part src, writes := b.rangeOf x.part dst,
        fx := if fmt || shape then [] else rowsFx r fun i =>
          (b.rowWords x.part src i).map fun xs =>
            let y := h ord (b.partLanes x.part) xs
            countFx Cnt.arithNan y.2 ++ b.storeFlat x.part dst (4 * i) (toLe 4 y.1.toNat),
        energy := b.coef 2 * (r * src.n0) }

/-- The largest non-NaN element under R43. -/
def rowMax (xs : List Word) : Word :=
  (bestBy (fun x y => lt43 (valOf y) (valOf x)) (xs.filter fun x => !isNaN32 x)).getD nan32

def Blk.normMaxReq (b : Blk) (p : Site) (f : RFields) : Req := b.reduceReq p 0x72 f fun _ _ xs => (rowMax xs, 0)

def execNormMax (p : Site) (f : RFields) (s : State) : Host.Outcome State Fault Refusal :=
  s.block fun a b => b.issueReq a p (b.normMaxReq p f)

def Blk.normSumReq (b : Blk) (p : Site) (f : RFields) : Req :=
  b.reduceReq p 0x73 f fun ord lanes xs =>
    let y := rowSum ord lanes (xs.map fun x => if isNaN32 x then negZero else x)
    (y, b01 (isNaN32 y))

def execNormSum (p : Site) (f : RFields) (s : State) : Host.Outcome State Fault Refusal :=
  s.block fun a b => b.issueReq a p (b.normSumReq p f)

def Blk.normScaleReq (b : Blk) (p : Site) (f : RFields) : Req :=
  let x := b.ctx p.ctx
  Req.mk (encR 0x74 f) f.g .other
      (b.badD x f.a needR || b.badD x f.b needR || b.badD x f.c needW || anyUsed [f.d, f.e, f.f, f.gg, f.h, f.i] || f.m != 0
        || b.noLanes p)
      ([f.a, f.b, f.c].flatMap regD)
      fun b x _ =>
        let src := (x.descF f.a).getD Desc.zero
        let fac := (x.descF f.b).getD Desc.zero
        let dst := (x.descF f.c).getD Desc.zero
        let r := src.rows
        let fmt := !floatFmt src.fmt || fac.fmt != 4 || !floatFmt dst.fmt
        let shape := fac.elems < r
        { ledger := b.laneCost x.part (ceilDiv (r * src.n0) 1024 + 8), wait := b.rowWaits, units := [.lanes],
          tile := tileOf (b.laneCost x.part (ceilDiv src.n0 1024)),
          faults := (if fmt then [fBadFormat] else []) ++ if shape then [fBadShape] else [],
          reads := b.rangesO x.part [some src, some fac], writes := b.rangeOf x.part dst,
          fx := if fmt || shape then [] else match b.elemWords x.part fac r with
            | .error e => [.fault e]
            | .ok fs => rowsFx r fun i => (b.rowWords x.part src i).map fun xs =>
                let k := fs.getD i 0
                let rs := xs.map fun y => (outWord dst.fmt ((valOf y).mul (valOf k)), [y, k])
                countFx Cnt.arithNan (newNaNs rs) ++ b.putLike x.part dst src i (rs.map (·.1)),
          energy := b.coef 2 * (r * src.n0) }

def execNormScale (p : Site) (f : RFields) (s : State) : Host.Outcome State Fault Refusal :=
  s.block fun a b => b.issueReq a p (b.normScaleReq p f)

/-! ### The mixer (R344, R345, R405) -/

/-- A command that bound the context key is in flight or suspended (R405). -/
def Blk.keyHeld (b : Blk) (c : CtxId) : Bool :=
  (b.inFlight c).any fun f =>
    let op := opcodeOf f.word
    op = 0x29 || op = 0x79 || (0x20 ≤ op && op ≤ 0x22 && f.binds.any fun x => noisy (b.bound x))

/-- The key the DRBG has supplied for a context's FRESH (R344). -/
def Aon.servedKey (a : Aon) (c : CtxId) : Option (List Byte) := (a.noise.served.find? fun s => s.1 = c).map (·.2)

/-- A FRESH `mix.seed` at its queue's head asks the DRBG once, and takes what it supplies as it issues. -/
def Aon.seedDraw (a : Aon) (old new : Blk) (p : Site) (w : Quad) (fresh : Bool) : Aon :=
  if !fresh then a
  else if (new.que p).pc != (old.que p).pc && (a.servedKey p.ctx).isSome then
    { a with noise := { a.noise with served := a.noise.served.filter fun s => s.1 != p.ctx } }
  else if (new.que p).waiting && (old.ctx p.ctx).guard ⟨false, 0, 0⟩ && !old.keyHeld p.ctx
      && (a.servedKey p.ctx).isNone && !a.noise.waiting.any (fun x => x.map (·.1.ctx) = some p.ctx) then
    { a with noise := { a.noise with waiting := a.noise.waiting ++ [some (p, w)] } }
  else a

def Blk.mixSeedReq (a : Aon) (b : Blk) (p : Site) (f : RFields) : Req :=
  let x := b.ctx p.ctx
  let fresh := f.m = 1
  Req.mk (encR 0x78 f) f.g .other
      ((if fresh then used f.a else b.badD x f.a needR) || anyUsed [f.b, f.c, f.d, f.e, f.f, f.gg, f.h, f.i] || 2 ≤ f.m.toNat)
      (regD f.a)
      fun b x _ =>
        let held := b.keyHeld p.ctx
        if fresh then
          match a.servedKey p.ctx with
          | none => if a.noise.st == .failed then { ledger := 8, wait := held, faults := [fBadOperand] } else { ledger := 8, wait := true }
          | some k => { ledger := 8, wait := held, fx := [.key (BitVec.ofNat 128 (leNat k)) true] }
        else
          let d := (x.descF f.a).getD Desc.zero
          let shape := d.covers < 16
          { ledger := 8, wait := held, faults := if shape then [fBadShape] else [], reads := b.rangeOf x.part d,
            fx := if shape then [] else match b.loadFlat x.part d 0 16 with
              | .error e => [.fault e]
              | .ok bs => [.key (BitVec.ofNat 128 (leNat bs)) false] }

def execMixSeed (p : Site) (f : RFields) (s : State) : Host.Outcome State Fault Refusal :=
  s.both fun (a, b) =>
    let c := b.issueReq a p (b.mixSeedReq a p f)
    let asks := f.m = 1 && b.open a p && (b.ctx p.ctx).guard f.g && b.regsFree p.ctx f.g []
    (a.seedDraw b c p (encR 0x78 f) asks, c)

/-- Word `i` of a draw (R345). -/
def drawWord (key : BitVec 128) (stream : Word) (ctr : Nat) (uniform : Bool) : Word :=
  let w := mix key stream (BitVec.ofNat 64 ctr)
  if uniform then toF32 (unit23 w) else w

def Blk.mixDrawReq (b : Blk) (p : Site) (f : RFields) : Req :=
  let x := b.ctx p.ctx
  Req.mk (encR 0x79 f) f.g .other
      (b.badD x f.a needW || anyUsed [f.e, f.f, f.gg, f.h, f.i] || 2 ≤ f.m.toNat)
      (regD f.a ++ [regS p f.b, regS p f.c, regS p f.d])
      fun b x _ =>
        let dst := (x.descF f.a).getD Desc.zero
        let stream := x.s p.queue f.b
        let ctr := (x.s p.queue f.d).toNat * 2 ^ 32 + (x.s p.queue f.c).toNat
        let n := dst.elems
        let uniform := f.m = 1
        let fmt := dst.fmt != (if uniform then 4 else 8)
        { ledger := ceilDiv n 128 + 16, wait := b.seeding p.ctx, units := [.mixer],
          faults := (if 0xF0000000 ≤ stream.toNat then [fBadOperand] else []) ++ if fmt then [fBadFormat] else [],
          writes := b.rangeOf x.part dst,
          fx := if fmt then [] else
            upToFault (b.storeElems x.part dst false ((List.range n).map fun i => drawWord x.key stream (ctr + i) uniform)) }

def execMixDraw (p : Site) (f : RFields) (s : State) : Host.Outcome State Fault Refusal :=
  s.block fun a b => b.issueReq a p (b.mixDrawReq p f)

end Sys2Proof.Machine
end

