-- ==== Sys2Proof/Machine/Complete.lean ====
section
/-! DEFINITION. Complete: completion of commands in flight (01 R22 to R24; 12 R303, R321, R322), and units that
pass from a suspended command and back (14 R374). -/

namespace Sys2Proof.Machine
open Sys2Proof

/-! ### When a command may complete -/

/-- The `score` or `hash` of a pair that a `select` completes after. -/
def Blk.pairOf (b : Blk) (f : Flight) : Option Flight :=
  if opcodeOf f.word = 0x28 then
    b.flights.find? fun x => x.ctx = f.ctx && x.queue = f.queue && x.qidx + 1 = f.qidx && (match x.job with
      | .score _ => true
      | _ => false)
  else none

/-- ECLK cycles a command has run, suspensions left out (R321). -/
def Flight.ran (f : Flight) (now : Nat) : Nat := f.before + (now - f.issued - f.suspTotal)

/-- Ledger cycles that a command's first tiles take: `k` of them since it was issued or restored (R346, R369). -/
def Flight.tileCycles (f : Flight) (k : Nat) : Nat := f.before + tileEnd f.tile k

/-- A `combine` whose remaining return-map entries need no FETCH walks past them and sums what has landed. -/
def Blk.walkRest (b : Blk) (f : Flight) (x : Combine) : Blk :=
  match b.dispOf f.ctx x.layer x.seq with
  | none => b
  | some d =>
    match b.walkMap d (x.rows * x.items + 1) x with
    | .error e => b.flightFault f e
    | .ok (y, none) => Blk.sumRows (x.rows + 1) (b.setJob f (.combine y)) f y
    | .ok (_, some _) => b

/-- Whether a command's own work has ended. -/
def Blk.workDone (b : Blk) (f : Flight) : Bool :=
  match f.job with
  | .plain => true
  | .score _ => !(b.que ⟨f.ctx, f.queue⟩).pairOpen
  | .select _ => (b.pairOf f).isNone
  | .place _ => true
  | .send x => b.sendDone f.ctx x
  | .combine x => x.rows ≤ x.nextRow
  | .remote _ _ l => l.all fun a => a.landed.isSome
  | .vload _ _ _ _ _ l => l.all fun a => a.landed.isSome
  | .flip _ _ => false
  | .settle _ => true

/-- Cycles that a command's bytes need on M0, of 400 B each (R20). -/
def Flight.m0Cycles (f : Flight) : Nat := ceilDiv (m0Bytes (f.reads ++ f.writes)) 400

/-- A command completes no sooner than its ledger cost allows, nor than its bytes have crossed M0 in cycles without a bubble, and
not while it is suspended (R22; 18 R465). -/
def Blk.mayComplete (b : Blk) (f : Flight) : Bool :=
  (b.ctx f.ctx).alive && f.suspended.isNone && f.ledger ≤ f.ran b.cycle.toNat
    && f.m0Cycles + f.bubbled ≤ Nat.max f.m0Cycles (f.ran b.cycle.toNat) && b.workDone f

/-! ### The excess and its causes (R321) -/

/-- Excess half-cycles covered by the records of the causes in order, and what they leave to BACKPRESSURE. -/
def shareExcess (x stretch bubble stack : Nat) : Nat × Nat × Nat × Nat :=
  let s := Nat.min x stretch
  let u := Nat.min (x - s) bubble
  let t := Nat.min (x - s - u) stack
  (s, u, t, x - s - u - t)

/-- Energy in units of 2^-10 µJ from 0.1 pJ at a calibration gain of 4,096ths (18 R472; 14 R380). -/
def energyUnits (e gain : Nat) : Nat := e * gain * 1024 / (4096 * 10000000)

/-- Half-cycles of BUBBLE: those by which the bubbles that took M0 request slots keep a command's bytes beyond its ledger cost
(R23; 18 R465). -/
def Flight.bubbleCost (f : Flight) : Nat := 2 * (f.m0Cycles + f.bubbled - f.ledger)

/-- The counters of a completed command (R322, R378). -/
def Blk.tally (b : Blk) (f : Flight) (gain : Nat) (stack : Word) : Blk :=
  let actual := 2 * f.ran b.cycle.toNat + f.stretch
  let x := shareExcess (actual - 2 * f.ledger) f.stretch f.bubbleCost stack.toNat
  let b := b.account f.ctx f.ledger actual
  let b := (((b.addCtx f.ctx Cnt.stretch x.1).addCtx f.ctx Cnt.bubble x.2.1).addCtx f.ctx Cnt.stack x.2.2.1).addCtx
    f.ctx Cnt.back x.2.2.2
  ((b.addOwn f.ctx Cnt.energy (energyUnits f.energy gain)).addCtx f.ctx Cnt.m0Rd (m0Bytes f.reads)).addCtx
    f.ctx Cnt.m0Wr (m0Bytes f.writes)

/-! ### Units that were released (R346, R374) -/

/-- Units that R346 releases while a command is suspended. -/
def freedUnits (op : Nat) : List Unit' :=
  if (0x38 ≤ op && op ≤ 0x3B) || 0x60 ≤ op then opUnits op else []

/-- Units a suspended command keeps. -/
def Flight.kept (f : Flight) : List Unit' := f.units.filter fun u => !(freedUnits (opcodeOf f.word)).contains u

/-- A suspended command goes on, once what it released is free again. -/
def Flight.resume (f : Flight) (now : Nat) : Flight :=
  match f.suspended with
  | none => f
  | some at' => { f with suspended := none, suspTotal := f.suspTotal + (now - at'), units := f.units ++ f.lacks }

/-- Replace a command in flight. -/
def Blk.modFlight (b : Blk) (f : Flight) (g : Flight → Flight) : Blk :=
  { b with flights := b.flights.map fun x => if x.ctx = f.ctx && x.queue = f.queue && x.qidx = f.qidx then g x else x }

/-- A bound epoch that is neither the ACTIVE nor the DRAINING one here (R76). -/
def Blk.stale (b : Blk) (x : Binding) : Bool :=
  x.epoch != 0 &&
    (let t := b.table x.layer x.kind
     !((t.bank x.bank).st = .active && t.epoch = x.epoch)
       && !((t.bank x.bank).st = .draining && nextEpoch x.epoch = t.epoch))

/-- A command that was suspended so that another partition's could take its unit goes on when the unit is free
and no command of a partition with a lower pass waits for it (R374); `any`: no command at all waits for it. -/
def Blk.resumeDirs (b : Blk) (any : Bool) : Blk :=
  b.flights.foldl (fun b f =>
    let n := (b.ctx f.ctx).part
    let us := f.lacks
    if f.suspended.isNone || (b.slot n).running != some f.ctx || !(b.ctx f.ctx).alive then b
    else if us.any (b.unitBusy n) then b
    else if (b.dirWaiters n us).any (fun m => any || (b.slot m).pass.toNat < (b.slot n).pass.toNat) then b
    else b.modFlight f fun x => x.resume b.cycle.toNat) b

/-! ### COMMAND_COMPLETE -/

/-- What a command does as it completes: its effects, with what came from elsewhere since it issued, under the arithmetic
word that it bound (R46, R346). -/
def Blk.allFx (b : Blk) (f : Flight) : List Fx :=
  let n := (b.ctx f.ctx).part
  let b := b.withArith n f.arith
  match f.job with
  | .combine x => f.fx ++ b.combineEnd n x
  | .remote _ dst l => b.withRemote n dst f.fx l
  | .vload reg run _ col t l =>
    f.fx ++ (match l with
    | a :: _ => (match a.landed with
        | some bs => [.vreg reg run (b.vloadWords n t col bs)]
        | none => [])
    | [] => [])
  | _ => f.fx

/-- What a completed command hands on to its dispatch or its collective. -/
def Blk.handOn (b : Blk) (f : Flight) : Blk :=
  match f.job with
  | .select x => b.finishSelect f.ctx x
  | .place x => b.finishPlace f.ctx x
  | .send x => b.finishSend f.ctx x
  | .settle id => b.settleFold f.ctx id
  | .score _ =>
    { b with flights := b.flights.map fun x =>
        if x.ctx = f.ctx && x.queue = f.queue && x.qidx = f.qidx + 1 then
          { x with issued := b.cycle.toNat, suspTotal := 0, stretch := 0 } else x }
  | _ => b

/-- The slot that switches away from a context counts its switch time from the end of the last tile (R372). -/
def Blk.tileEnded (b : Blk) (c : CtxId) : Blk :=
  let n := (b.ctx c).part
  let s := b.slot n
  if s.outgoing = some c then b.setSlot n { s with switchFrom := b.cycle.toNat } else b

/-- A command completes: its results stand, its done predicate is set, what it bound is released (R69, R303). -/
def Blk.complete (b : Blk) (f : Flight) (gain : Nat) (stack : Word) : Blk :=
  let b := b.noteReads f.reads
  if let some u := b.failingUnit f then b.checkFail f u
  else match b.applyFx f (b.allFx f) with
  | (c, some e) => c.flightFault f e
  | (c, none) =>
    let c := c.tally f gain stack
    let c := { c with flights := c.flights.filter fun x => !(x.ctx = f.ctx && x.queue = f.queue && x.qidx = f.qidx) }
    let c := (f.binds.foldl Blk.dropRef c).handOn f
    let c := c.modCtx f.ctx fun x => x.donePred c.cycle.toNat f.dp
    let n := (c.ctx f.ctx).part
    let c := c.setSlot n (let s := c.slot n
      if s.running = some f.ctx then { s with idleFrom := c.cycle.toNat } else s)
    ((c.tileEnded f.ctx).resumeDirs false).retireDisps

/-- The next packet of a `send` passes the deal network's stages on its way to its ring queue: where a stage's parity fails,
the command ends and the bytes are not passed on (05 R148). -/
def execSendPacketEmit (p : Site) (s : State) : Host.Outcome State Fault Refusal :=
  s.block fun _ b => Blk.settle b (match (b.sendOf p).bind fun x => (b.failingUnit x.1).map fun u => (x.1, u) with
    | some (f, u) => b.checkFail f u
    | none => b.emitNext p)

/-- The command of a queue at an index. -/
def Blk.flightAt (b : Blk) (p : Site) (qidx : Word) : Option Flight :=
  b.flights.find? fun f => f.ctx = p.ctx && f.queue = p.queue && f.qidx = qidx

/-- A command's ledger elapses and its work ends. Half-cycles of STRETCH and BUBBLE are those that the state has counted for it,
those of STACK are as the unit recorded them; the rest is BACKPRESSURE (R321). -/
def execCommandComplete (p : Site) (qidx : Word) (_bubble stack _back : Word) (s : State) :
    Host.Outcome State Fault Refusal :=
  s.both fun (a, b) =>
    match b.flightAt p qidx with
    | none => (a, b)
    | some f0 =>
      let b0 := match f0.job with
        | .combine x => if (b.ctx f0.ctx).alive && f0.suspended.isNone then b.walkRest f0 x else b
        | _ => b
      match b0.flightAt p qidx with
      | none => (a, b0)
      | some f =>
        if b0.mayComplete f then
          ({ a with gov := a.gov.addEnergy f.energy },
           Blk.settle b (b0.complete f a.gov.gain stack))
        else (a, b0)

end Sys2Proof.Machine
end

