-- ==== Sys2Proof/Machine/Save.lean ====
section
/-! DEFINITION. Save: the frame of a context as it is written (14 R363, R364, R378;
16 R407). -/

namespace Sys2Proof.Machine
open Sys2Proof

/-! ### The frame -/

def zeroBytes (n : Nat) : List Byte := List.replicate n 0

/-! ### Writing a frame -/

/-- The part of the header that the state gives: flags bit 0 is CLEAN. -/
def Blk.frameHeader (b : Blk) (a : Aon) (c : CtxId) : List Byte :=
  let x := b.ctx c
  toLe 4 0x4D415246 ++ [1, a.vault.fuses.variant, BitVec.ofNat 8 (b.partLanes x.part),
    BitVec.ofNat 8 (b01 (b.inFlight c).isEmpty)] ++ toLe 2 b.self.toNat ++ [BitVec.ofNat 8 x.part.toNat, 0]
    ++ toLe 4 c.toNat ++ toLe 8 b.cycle.toNat ++ zeroBytes 8

/-- A queue's entry. -/
def Queue.entry (u : Queue) : List Byte :=
  toLe 8 (put 39 0 u.base.toNat + put 44 40 u.size.toNat + put 46 45 u.state + put 55 48 u.tag.toNat)

/-- The loop stack of a queue: level 0 is the outermost. -/
def Queue.loopBytes (u : Queue) : List Byte :=
  ((u.loops.reverse.flatMap fun l =>
      toLe 4 l.start.toNat ++ toLe 4 (put 15 0 l.body.toNat + put 17 16 l.test.toNat + put 20 18 l.pred.toNat)
        ++ toLe 4 l.trips.toNat ++ toLe 4 l.cap.toNat) ++ zeroBytes 64).take 64

/-- Epoch bound for a kind, or 0. -/
def Flight.epochOf (f : Flight) (k : BitVec 2) : Nat := ((f.binds.find? fun b => b.kind = k).map (·.epoch.toNat)).getD 0

/-- Whether an opcode is of the fold or comet class. -/
def collective (op : Nat) : Bool := 0x48 ≤ op && op ≤ 0x4F

/-- An in-flight record (R364). -/
def Flight.record (f : Flight) : List Byte :=
  toLe 8 f.word.toNat ++ toLe 4 f.qidx.toNat ++ toLe 4 f.tiles
    ++ [BitVec.ofNat 8 (((f.binds.head?).map (·.layer.toNat)).getD 0),
        BitVec.ofNat 8 (maskOf (f.binds.map fun b => b.kind.toNat)), BitVec.ofNat 8 f.arith.toNat, BitVec.ofNat 8 f.queue.toNat]
    ++ toLe 2 (f.epochOf 0) ++ toLe 2 (f.epochOf 1) ++ toLe 2 (f.epochOf 2) ++ toLe 2 0 ++ toLe 4 f.tag.toNat

/-- The record of an unsettled collective that no command in flight names (08 R232). -/
def collectiveRecord (id : Word) : List Byte := toLe 8 (0x48 * 2 ^ 56) ++ zeroBytes 20 ++ toLe 4 id.toNat

/-- Collectives of a context that its commands in flight do not name. -/
def Blk.looseFolds (b : Blk) (c : CtxId) : List Word :=
  (b.ctx c).collectives.filter fun id => !((b.inFlight c).any fun f => collective (opcodeOf f.word) && f.tag = id)

def Blk.records (b : Blk) (c : CtxId) : List Byte :=
  (((b.inFlight c).flatMap Flight.record ++ (b.looseFolds c).flatMap collectiveRecord) ++ zeroBytes 512).take 512

/-- The frame of a context. -/
def Blk.frame (b : Blk) (a : Aon) (c : CtxId) : List Byte :=
  let x := b.ctx c
  b.frameHeader a c ++ zeroBytes 32 ++ b.descriptor c ++ queueNums.flatMap (fun q => (x.que q).entry)
    ++ [(x.dones.foldl (fun x d => x.setPred d.2 true) x).preds] ++ x.eregs.toList ++ zeroBytes 3 ++ zeroBytes 24 ++ toLe 32 x.holds.toNat ++ toLe 16 x.key.toNat
    ++ [x.keySource] ++ zeroBytes 3 ++ toLe 4 x.seeds.toNat ++ zeroBytes 8
    ++ queueNums.flatMap (fun q => (x.que q).loopBytes)
    ++ queueNums.flatMap (fun q => (x.que q).sregs.toList.flatMap fun w => toLe 4 w.toNat)
    ++ x.tregs.toList.flatMap (fun w => toLe 64 w.toNat) ++ b.records c
    ++ (List.range 64).flatMap (fun i => toLe 8 (x.counters.get i 0).toNat) ++ zeroBytes 1024

/-! ### Places (R365) -/

/-- The window address of a location in a region of a partition, dispatcher-owned or not. -/
def Blk.place (b : Blk) (n : PartId) (loc : Word) (len : Nat) (owned : Bool) : Option Nat :=
  let r := b.region n (fld loc 27 24)
  let off := fld loc 23 0 * 4096
  if fld loc 31 28 = 0 && r.valid && r.owned = owned && off + len ≤ r.len then some (r.start + off) else none

/-- Write bytes whole at a location, as the block's own units do: what the lines held before is gone. Only commands write
table banks: where one that is locked lies there, nothing is written and BANK_LOCKED is raised (03 R75; log 55). -/
def Blk.stow (b : Blk) (at' : Nat) (bs : List Byte) : Blk :=
  match b.lockAt at' bs.length with
  | some f => b.event f.code.toNat f.a.toNat f.b.toNat
  | none =>
    match b.mem.wrStack at' bs with
    | .ok m => { b with mem := m }
    | .error _ => b.poke at' bs

/-- Save a context: its frame is written to its own place (R363, R367). -/
def Blk.writeFrame (b : Blk) (a : Aon) (c : CtxId) : Blk :=
  let b := b.modCtx c fun x => { x with lanesSaved := BitVec.ofNat 7 (b.partLanes x.part) }
  let x := b.ctx c
  let loc : Word := BitVec.ofNat 32 x.frame.toNat
  match b.place x.part loc 4096 true with
  | some at' => b.stow at' (b.frame a c)
  | none => b

end Sys2Proof.Machine
end

