-- ==== Sys2Proof/Machine/Replan.lean ====
section
/-! DEFINITION. Replan: what a command does that was restored from another target (14 R368, R369; 02 R46, R53): its effect
is formed anew, from its word and the registers of its context, as it resumes; what remains of it is charged at the lane
count of its partition here. -/

namespace Sys2Proof.Machine
open Sys2Proof

/-- The request that the word of a suspendable command makes: of those that name no dispatch. -/
def Blk.reqOf (b : Blk) (p : Site) (w : Quad) : Option Req :=
  let op := opcodeOf w
  let f := decR w
  if op = 0x29 then some (b.sampleReq p f)
  else if op = 0x31 then some (b.countReq p f)
  else if op = 0x32 then some (b.scanReq p f)
  else if op = 0x39 then some (b.permuteReq p f)
  else if op = 0x3A then some (b.gatherReq p f)
  else if op = 0x3B then some (b.scatterReq p f)
  else if 0x60 ≤ op && op ≤ 0x6A then some (b.fnReq p op f false (op = 0x60) (fn1 (op - 0x60)))
  else if op = 0x6B then some (b.swigluReq p f)
  else if op = 0x70 then some (b.normStatReq p f)
  else if op = 0x71 then some (b.normApplyReq p f)
  else if op = 0x72 then some (b.normMaxReq p f)
  else if op = 0x73 then some (b.normSumReq p f)
  else if op = 0x74 then some (b.normScaleReq p f)
  else if op = 0x79 then some (b.mixDrawReq p f)
  else none

/-- Commands whose ledger the lane count of their partition rescales, of those that are suspended (00 R4; 10 R270; 13
R343). -/
def laneBoundOp (op : Nat) : Bool := 0x70 ≤ op && op ≤ 0x74

/-- Ledger cycles that remain, on another number of lanes (R4, R369). -/
def rescale (op rest old lanes : Nat) : Nat :=
  if laneBoundOp op && lanes != 0 then ceilDiv (rest * old) lanes else rest

/-- A suspended command whose tiles so far ran on `old` lanes goes on on `lanes` of them (R369). -/
def Flight.rescaled (f : Flight) (old lanes : Nat) : Flight :=
  let gone := Nat.min f.ledger (f.tileCycles (f.tiles - f.tiles0))
  { f with ledger := gone + rescale (opcodeOf f.word) (f.ledger - gone) old lanes }

/-- The block as a command sees it that bound an arithmetic word, on a number of lanes. -/
def Blk.boundAs (b : Blk) (n : PartId) (arith : BitVec 5) (lanes : Nat) : Blk :=
  let b := b.withArith n arith
  b.setReg 0x100 n.toNat (setFld (b.reg 0x100 n.toNat) 30 24 lanes)

/-- A restored command as it resumes: its tiles so far are charged as they were, the rest at this partition's lane count,
and its results follow from its operands as they stand (R53, R369). -/
def Flight.replanned (f : Flight) (n old : Plan) (here : Nat) (was : Nat) : Flight :=
  let gone := Nat.min old.ledger (tileEnd old.tile f.tiles)
  { f with ledger := gone + rescale (opcodeOf f.word) (old.ledger - gone) was here, before := gone, tile := n.tile,
           bankRd := banksOf n.reads, bankWr := banksOf n.writes, reads := n.reads, writes := n.writes, fx := n.fx, job := n.job,
           energy := n.energy, moved := none }

/-- Take up a restored command: form what it does (R369). -/
def Blk.takeUp (b : Blk) (f : Flight) : Blk :=
  match f.moved with
  | none => b
  | some was =>
    let p : Site := ⟨f.ctx, f.queue⟩
    let x := b.ctx f.ctx
    let here := b.partLanes x.part
    match b.reqOf p f.word with
    | none => b.modFlight f fun y => { y with moved := none }
    | some r =>
      let plan := fun (lanes : Nat) => r.plan (b.boundAs x.part f.arith lanes) x (x.que f.queue)
      let n := plan here
      let y := f.replanned n (plan was) here was
      n.act (b.modFlight f fun _ => { y with energy := y.energy + b.traffic (n.reads ++ n.writes) })

end Sys2Proof.Machine
end

