-- ==== Sys2Proof/Machine/Switch.lean ====
section
/-! DEFINITION. Switch: tile boundaries, switch points and switches (12 R314; 14 R371 to R374), trumps (14 R375 to
R377), the context cache (14 R361), and the end of a teardown (13 R349; 14 R381). -/

namespace Sys2Proof.Machine
open Sys2Proof

/-! ### WORK_TILE_BOUNDARY (R314, R346, R374) -/

/-- The `select` of a `score` or `hash`, which is suspended and resumed with it (R98). -/
def Flight.mate (f x : Flight) : Bool :=
  (match f.job with
    | .score _ => true
    | _ => false) && x.ctx = f.ctx && x.queue = f.queue && x.qidx = f.qidx + 1

def Flight.same (f x : Flight) : Bool := x.ctx = f.ctx && x.queue = f.queue && x.qidx = f.qidx

/-- A command is suspended, with its `select`; it keeps the units that R346 names. -/
def Blk.suspend (b : Blk) (f : Flight) : Blk :=
  { b with flights := b.flights.map fun x =>
      if f.same x || f.mate x then { x with suspended := some b.cycle.toNat, units := x.kept } else x }

/-- A `select` whose `score` or `hash` still runs has no boundaries of its own. -/
def Blk.hasTile (b : Blk) (f : Flight) : Bool :=
  f.suspended.isNone && f.suspends && (b.ctx f.ctx).alive && (b.pairOf f).isNone

/-- A command reaches a tile boundary, once it has run its tiles so far (R21, R346): it is suspended where its context is switched out, or where another
partition's command waits for its deal direction. -/
def execWorkTileBoundary (p : Site) (qidx : Word) (s : State) : Host.Outcome State Fault Refusal :=
  s.block fun _ b =>
    match b.flightAt p qidx with
    | none => b
    | some f =>
      if !b.hasTile f || f.ran b.cycle.toNat < f.tileCycles (f.tiles + 1 - f.tiles0) then b
      else
        let b := b.modFlight f fun x => { x with tiles := x.tiles + 1 }
        let n := (b.ctx f.ctx).part
        let s := b.slot n
        if s.outgoing = some f.ctx then
          (b.suspend f).setSlot n { s with switchD := true, switchFrom := b.cycle.toNat }
        else if (b.dirWaiters n (freedUnits (opcodeOf f.word))).isEmpty then b.resumeDirs true
        else b.suspend f

/-! ### Switch points (R371) -/

/-- A switch point of a partition may arise: a context runs, outside a lane run, and no switch is under way. -/
def Blk.maySwitch (b : Blk) (n : PartId) : Option CtxId :=
  let s := b.slot n
  match s.running with
  | some c => if s.incoming.isNone && !b.inLaneRun c then some c else none
  | none => none

/-- The running context has used its quantum, and an eligible context has a lower pass. -/
def execQuantumExpiry (n : PartId) (s : State) : Host.Outcome State Fault Refusal :=
  s.block fun _ b =>
    match b.maySwitch n, b.nextCtx n with
    | some c, some next =>
      if b.quantum n ≤ (b.slot n).charged && (b.ctx next).pass.toNat < (b.ctx c).pass.toNat
      then Blk.settle b (b.switchPoint n next false) else b
    | _, _ => b

/-- Whether a queue has an instruction that could issue. -/
def Queue.issuable (u : Queue) : Bool := u.ready && !u.waiting

/-- The running context has had nothing issuable and nothing in flight for 64 cycles. -/
def execIdle64Cycles (n : PartId) (s : State) : Host.Outcome State Fault Refusal :=
  s.block fun _ b =>
    match b.maySwitch n, b.nextCtx n with
    | some c, some next =>
      if (b.slot n).idleFrom + 64 ≤ b.cycle.toNat && (b.inFlight c).isEmpty
          && !(queueNums.any fun q => ((b.ctx c).que q).issuable)
      then Blk.settle b (b.switchPoint n next false) else b
    | _, _ => b

/-! ### SWITCH_COMPLETE (R372, R370, R373, R76) -/

/-- The switch time, by what the switch point found. -/
def Blk.switchTime (b : Blk) (n : PartId) : Nat :=
  Nat.min 208 (120 + 12 * (b.slot n).switchQ + 40 * b01 (b.slot n).switchD)

/-- A restored command of a dispatch that is not here (R92). -/
def Flight.homeless (f : Flight) : Bool :=
  f.job = .plain && (let op := opcodeOf f.word
    op = 0x28 || op = 0x30 || op = 0x38 || (0x40 ≤ op && op ≤ 0x42))

/-- The suspended commands of a context go on, where the units they released are free; a command whose bound
epoch is gone faults (R76), and so does one whose dispatch is not here (R92). -/
def Blk.resumeCtx (b : Blk) (c : CtxId) : Blk :=
  (b.inFlight c).foldl (fun b f =>
    if f.suspended.isNone || !(b.ctx c).alive then b
    else if f.stale then b.flightFault f (flt 0x08)
    else if f.homeless then b.flightFault f fBadDispatch
    else if f.lacks.any (b.unitBusy (b.ctx c).part) then b
    else (b.takeUp f).modFlight f fun x => x.resume b.cycle.toNat) b

/-- A queue whose head index is as given: that of its outermost loop, else its next entry (R307). -/
def Queue.withHead (u : Queue) (h : Word) : Queue :=
  match u.loops with
  | [] => { u with pc := h }
  | _ => { u with loops := modLast (fun _ => true) (fun l => { l with start := h }) u.loops }

/-- A context as the words of its descriptor have it (R359). Its state, its partition and its commands in flight the units
hold themselves (log 58). -/
def Ctx.withDesc (x : Ctx) (bs : List Byte) : Ctx :=
  let w := fun (i n : Nat) => leNat ((bs.drop i).take n)
  { x with
    lanesSaved := BitVec.ofNat 7 (field (w 0 4) 25 19), shares := BitVec.ofNat 16 (w 0 4), frame := BitVec.ofNat 28 (w 4 4),
    pass := BitVec.ofNat 64 (w 8 8), since := BitVec.ofNat 64 (w 0x10 8),
    queues := Vector.ofFn fun (q : Fin 4) =>
      { (x.queues[q]).withHead (BitVec.ofNat 32 (w (0x20 + 4 * q.val) 4)) with tail := BitVec.ofNat 32 (w (0x30 + 4 * q.val) 4) } }

/-- A context takes changed words of its descriptor. -/
def Blk.reDesc (b : Blk) (c : CtxId) (f : List Byte → List Byte) : Blk :=
  let old := b.descriptor c
  if f old = old then b else b.modCtx c fun x => x.withDesc (f old)

/-- A descriptor in the cache is read: its damaged words are noted, and an uncorrectable one faults its context (R476). -/
def Blk.readDesc (b : Blk) (c : CtxId) : Blk :=
  let r := b.readArray 19 fun w => w / 16 = c.toNat
  if r.2 then r.1.ctxFault c (flt 0x10) else r.1.reDesc c (b.mem.arrayBytes 19 (c.toNat * 16))

/-- A context that leaves its run slot is saved (R363). -/
def Blk.saveOut (b : Blk) (a : Aon) (c : Option CtxId) : Blk :=
  match c with
  | some c => if (b.ctx c).life = .live then b.writeFrame a c else b
  | none => b

/-- A switch ends: the outgoing context's registers go to its frame, the incoming one runs. What the switch takes beyond
its time is a fetch from the stack, which SCHED_STACK counts (R372). -/
def execSwitchComplete (n : PartId) (s : State) : Host.Outcome State Fault Refusal :=
  s.block fun a b =>
    let s := b.slot n
    match s.incoming with
    | none => b
    | some c =>
      let tiles := match s.outgoing with
        | some o => b.tilesRun o
        | none => []
      let now := b.cycle.toNat
      if !tiles.isEmpty || now < s.switchFrom + b.switchTime n then b
      else
        let old := b
        let late := now - (s.switchFrom + b.switchTime n)
        let b := if late = 0 then b else b.addInst Cnt.schedStack late
        let b := (b.saveOut a s.outgoing).setSlot n { s with
          running := some c, incoming := none, outgoing := none, charged := 0, switchD := false, byTrump := false,
          trumpFirst := if s.byTrump then some (now + 2048) else none, idleFrom := now }
        let b := (b.touched c).readDesc c
        let b := b.addCtx c Cnt.switches 1
        Blk.settle old (b.resumeCtx c)

/-! ### Trumps (R375, R376) -/

/-- Cycle in which a queue's next entry was published. -/
def Queue.publishedAt (u : Queue) : Option Nat :=
  (u.pubs.find? fun p => (p.1 - u.pc) != 0 && (p.1 - u.pc).toNat ≤ u.left.toNat).map (·.2)

/-- The trump age of a context. -/
def Blk.trumpAge (b : Blk) (c : CtxId) : Nat :=
  let x := b.ctx c
  let pubs := queueNums.filterMap fun q => if (x.que q).ready then (x.que q).publishedAt else none
  let oldest := match pubs with
    | [] => b.cycle.toNat
    | p :: rest => rest.foldl Nat.min p
  b.cycle.toNat - Nat.max oldest x.since.toNat

/-- Contexts of a partition that qualify for a trump. -/
def Blk.trumpable (b : Blk) (n : PartId) : List CtxId :=
  (b.eligibles n).filter fun c => (b.slot n).incoming != some c && b.trumpCycles n < b.trumpAge c

/-- The one of them that a trump takes: the oldest, ties to the lower number. -/
def Blk.trumpNext (b : Blk) (n : PartId) : Option CtxId :=
  bestBy (fun x y => b.trumpAge y < b.trumpAge x) (b.trumpable n)

/-- Trump the context whose turn it is, outside the window of the last trump. -/
def Blk.doTrump (b : Blk) (n : PartId) : Blk :=
  let s := b.slot n
  let open' := match s.lastTrump with
    | some t => t + 4000000 ≤ b.cycle.toNat
    | none => true
  match b.trumpNext n with
  | none => b
  | some c =>
    if !open' || (b.maySwitch n).isNone then b
    else
      let age := b.trumpAge c
      let old := b
      let b := (b.ctxEvent 0x89 c 0 age).addCtx c Cnt.trumps 1
      let b := Blk.settle old (b.switchPoint n c true)
      b.setSlot n { b.slot n with lastTrump := some b.cycle.toNat }

def execTrump (c : CtxId) (s : State) : Host.Outcome State Fault Refusal :=
  s.block fun _ b =>
    let n := (b.ctx c).part
    if b.trumpNext n = some c then b.doTrump n else b

/-- The window of 4,000,000 cycles after a trump ends: what qualified in it is trumped. -/
def execTrumpWindowEnd (n : PartId) (s : State) : Host.Outcome State Fault Refusal :=
  s.block fun _ b => if (b.slot n).lastTrump.isSome then b.doTrump n else b

/-! ### TEARDOWN_COMPLETE -/

/-- The teardown of a context ends: it is DEAD, its frame keeps its registers and counters, its records and holds among them,
as they stood at the fault, what it held is released, and it leaves its run slot (R381). -/
def Blk.tornDown (b : Blk) (a : Aon) (c : CtxId) : Blk :=
  let b := ((b.touched c).modCtx c fun x => { x with life := .dead }).writeFrame a c
  (b.releaseAll c).leaveSlot c

/-- The unit of a command has reached the end of the tile it was in, or of the command, or the command is suspended (R381). -/
def Flight.tileEnded (f : Flight) (now : Nat) : Bool :=
  f.suspended.isSome || Nat.min (f.tileCycles (f.tiles + 1 - f.tiles0)) f.ledger ≤ f.ran now

def execTeardownComplete (c : CtxId) (s : State) : Host.Outcome State Fault Refusal :=
  s.block fun a b =>
    if (b.ctx c).torn && (b.inFlight c).all fun f => f.tileEnded b.cycle.toNat then Blk.settle b (b.tornDown a c) else b

end Sys2Proof.Machine
end

