-- ==== Sys2Proof/Machine/Frame.lean ====
section
/-! DEFINITION. Frame: the 4 KiB frame of a context as it is written and read (14 R363, R364, R378; 16 R407), and the
creation image (14 R366). -/

namespace Sys2Proof.Machine
open Sys2Proof

/-! ### Reading a frame -/

def byteAt' (bs : List Byte) (i : Nat) : Byte := bs.getD i 0

/-- A 32-bit word of bytes. -/
def w32 (bs : List Byte) (off : Nat) : Word := BitVec.ofNat 32 (le bs off 4)

/-- A queue entry's base, size, halted state and tag. -/
def queueOf (v : Nat) : Queue :=
  { Queue.reset with base := BitVec.ofNat 40 (field v 39 0), size := BitVec.ofNat 5 (field v 44 40), halted := field v 46 45 = 2,
                     tag := BitVec.ofNat 8 (field v 55 48) }

/-- A used queue lies whole in one valid region that is not dispatcher-owned (12 R307). -/
def Blk.queueOk (b : Blk) (n : PartId) (u : Queue) : Bool :=
  u.size = 0 || (4 ≤ u.size.toNat && u.size.toNat ≤ 20 && u.base.toNat % 64 = 0
    && b.inRegion n (u.base.toNat : Int) ((u.base.toNat + 8 * 2 ^ u.size.toNat : Nat) - 1 : Int) (some false))

/-- A loop level of 16 bytes; none where it is unused. The cap as declared stands in the `loopv` before the body. -/
def loopOf (cap0 : Word → Word) (bs : List Byte) : Option LoopLv :=
  let c := le bs 4 4
  if field c 15 0 = 0 then none
  else some ⟨w32 bs 0, BitVec.ofNat 16 (field c 15 0), BitVec.ofNat 2 (field c 17 16), BitVec.ofNat 3 (field c 20 18), w32 bs 8,
             w32 bs 12, cap0 (w32 bs 0)⟩

/-- Queue `q` of a frame. Where it stands inside a loop body, the frame does not say: any entry of the innermost
body (log 23). -/
def Blk.frameQueue (b : Blk) (n : PartId) (bs : List Byte) (q : Nat) : Queue :=
  let u := queueOf (le bs (0x80 + 8 * q) 8)
  let head := w32 bs (0x60 + 4 * q)
  let tail := w32 bs (0x70 + 4 * q)
  let cap0 := fun (start : Word) =>
    let at' := u.base.toNat + 8 * ((start - 1).toNat % 2 ^ u.size.toNat)
    BitVec.ofNat 32 (leNat (b.mem.stack.rdBytes (b.stackAt n at') 4))
  let loops := ((List.range 4).filterMap fun v => loopOf cap0 ((bs.drop (0x100 + 64 * q + 16 * v)).take 16)).reverse
  let pc := match loops with
    | l :: _ => l.start + BitVec.ofNat 32 (Config.freeNat (b.free + q) % (l.body.toNat + 1))
    | [] => head
  { u with pc := pc, tail := tail, loops := loops, pubs := if tail = pc then [] else [(tail, b.cycle.toNat)],
           sregs := Vector.ofFn fun (i : Fin 32) => w32 bs (0x200 + 128 * q + 4 * i.val) }

/-- The context of a frame, in a partition. -/
def Blk.frameCtx (b : Blk) (n : PartId) (loc : Word) (bs : List Byte) : Ctx :=
  { Ctx.reset with
    life := .live, part := n, lanesSaved := BitVec.ofNat 7 (byteAt' bs 6).toNat, shares := BitVec.ofNat 16 (le bs 0x40 2),
    frame := BitVec.ofNat 28 loc.toNat, pass := BitVec.ofNat 64 (le bs 0x48 8), since := b.cycle,
    queues := Vector.ofFn fun (q : Fin 4) => b.frameQueue n bs q.val, preds := byteAt' bs 0xA0,
    eregs := Vector.ofFn fun (i : Fin 4) => byteAt' bs (0xA1 + i.val), holds := BitVec.ofNat 256 (le bs 0xC0 32),
    key := BitVec.ofNat 128 (le bs 0xE0 16), keySource := byteAt' bs 0xF0, seeds := w32 bs 0xF4,
    tregs := Vector.ofFn fun (i : Fin 16) => BitVec.ofNat 512 (le bs (0x400 + 64 * i.val) 64),
    counters := (List.range 64).filterMap fun i =>
      let v := le bs (0xA00 + 8 * i) 8
      if v = 0 then none else some (i, BitVec.ofNat 64 v) }

/-- A record of 32 bytes. -/
structure FRec where
  word : Quad
  qidx : Word
  tiles : Nat
  layer : Layer
  kinds : Nat
  arith : BitVec 5
  queue : BitVec 2
  epochs : List Nat
  id : Word

def FRec.of (bs : List Byte) : FRec :=
  { word := BitVec.ofNat 64 (le bs 0 8), qidx := w32 bs 8, tiles := le bs 12 4, layer := byteAt' bs 16,
    kinds := (byteAt' bs 17).toNat, arith := BitVec.ofNat 5 (byteAt' bs 18).toNat, queue := BitVec.ofNat 2 (byteAt' bs 19).toNat,
    epochs := [le bs 20 2, le bs 22 2, le bs 24 2], id := w32 bs 28 }

/-- The records of a frame that are in use. -/
def frameRecs (bs : List Byte) : List FRec :=
  ((List.range 16).map fun i => FRec.of ((bs.drop (0x800 + 32 * i)).take 32)).filter fun r => r.word != 0

/-- The bank that holds an epoch of a table here, for a record's binding. -/
def Blk.recBinds (b : Blk) (r : FRec) : List Binding :=
  (bitsOf 3 r.kinds).map fun k =>
    let kind := BitVec.ofNat 2 k
    let e := BitVec.ofNat 16 (r.epochs.getD k 0)
    let t := b.table r.layer kind
    ⟨r.layer, kind, if t.epoch = e then t.active else !t.active, e⟩

/-- A record becomes a suspended command that resumes at its next tile (R368), from a frame saved on `lanes` lanes; an epoch
that is gone here is not bound, and faults as the command resumes (R76). -/
def Blk.restored (b : Blk) (c : CtxId) (lanes : Nat) (r : FRec) : Flight :=
  let f := decR r.word
  let binds := b.recBinds r
  { ctx := c, queue := r.queue, qidx := r.qidx, word := r.word, issued := b.cycle.toNat, ledger := 0,
    suspended := some b.cycle.toNat, suspTotal := 0, tiles := r.tiles, stretch := 0, bubbled := 0, units := [],
    binds := binds.filter fun x => !b.stale x,
    arith := r.arith, tag := r.id, dp := f.g.dp, pend := if f.g.dp = 0 then [] else [regP f.g.dp], bankRd := 0, bankWr := 0,
    reads := [], writes := [], fx := [], job := .plain, energy := 0, tile := [2048], stale := binds.any b.stale,
    moved := some lanes, before := 0, tiles0 := r.tiles }

/-- A frame passes the checks of R368 for a partition. -/
def Blk.frameOk (b : Blk) (n : PartId) (bs : List Byte) : Bool :=
  let holds := le bs 0xC0 32
  le bs 0 4 = 0x4D415246 && byteAt' bs 4 = 1
    && (List.range 4).all (fun i => b.ownsLayer n (byteAt' bs (0xA1 + i)).toNat)
    && (List.range 256).all (fun l => !bit holds l || b.ownsLayer n l)
    && (frameRecs bs).all (fun r => r.kinds = 0 || b.ownsLayer n r.layer.toNat)
    && (List.range 4).all fun q => b.queueOk n (queueOf (le bs (0x80 + 8 * q) 8))

/-! ### The creation image (R366) -/

/-- The image passes its checks. -/
def Blk.imageOk (b : Blk) (n : PartId) (bs : List Byte) : Bool :=
  le bs 0 4 = 0x49585443 && byteAt' bs 4 = 1 && (byteAt' bs 5).toNat ≤ 1 && le bs 6 2 != 0
    && (b.place n (w32 bs 8) 4096 true).isSome && le bs 0x0C 4 = 0
    && (List.range 4).all (fun q =>
        let v := le bs (0x10 + 8 * q) 8
        field v 63 45 = 0 && b.queueOk n (queueOf v))
    && (byteAt' bs 5 = 0 || zeros ((bs.drop 0x30).take 16))

/-- The context an image creates, with a key. -/
def Blk.createdCtx (b : Blk) (n : PartId) (bs : List Byte) (key : BitVec 128) : Ctx :=
  { Ctx.reset with
    life := .live, part := n, shares := BitVec.ofNat 16 (le bs 6 2), frame := BitVec.ofNat 28 (le bs 8 4), since := b.cycle,
    queues := Vector.ofFn fun (q : Fin 4) => queueOf (le bs (0x10 + 8 * q.val) 8), key := key, keySource := byteAt' bs 5,
    seeds := 1 }

end Sys2Proof.Machine
end

