-- ==== Sys2Proof/Machine/CtxOps.lean ====
section
/-! DEFINITION. CtxOps: the operations of ND_CTX_OP (14 R365 to R368), and what CHIP_FAILED writes out (19 R489,
R490). -/

namespace Sys2Proof

/-- The index of a path's copies (22 R543). -/
def Path.ix : Path → Nat
  | .host => 0
  | .mgmt => 1

end Sys2Proof

namespace Sys2Proof.Machine
open Sys2Proof

/-- The two domains, as a register access changes them. -/
abbrev Pair' := Aon × Blk

/-- The result an operation of a path shows (22 R543). -/
def Blk.ctxResult (b : Blk) (p : Path) (r : Nat) : Blk := b.setReg 0x210 p.ix (setFld (b.reg 0x210 p.ix) 30 28 r)

/-- Whether ND_CTX_OP.busy reads 1 (R365; 21 R534). -/
def Blk.ctxBusy (b : Blk) : Bool := b.ctxOp.isSome || b.start.storeInit.isSome

/-- No command in flight and no published entry that has not issued. -/
def Blk.drained (b : Blk) (c : CtxId) : Bool :=
  (b.inFlight c).isEmpty && queueNums.all fun q => ((b.ctx c).que q).tail = ((b.ctx c).que q).head

/-- Whether a frame names this instance and a context: the context's own frame. -/
def Blk.ownFrame (b : Blk) (c : CtxId) (bs : List Byte) : Bool := le bs 8 2 = b.self.toNat && le bs 0x0C 4 = c.toNat

/-- Bytes at a location, where the location and the read are good. -/
def Blk.bytesIn (b : Blk) (n : PartId) (loc : Word) (len : Nat) (owned : Bool) : Option (List Byte) :=
  match b.place n loc len owned with
  | none => none
  | some a => (b.window a len).toOption

/-! ### The checks of an operation, in order (R365) -/

/-- Condition 1: the partition. -/
def Blk.opPartOk (b : Blk) (op : Nat) (n : PartId) (c : CtxId) : Bool :=
  if op = 1 || op = 4 then b.partValid n && bit (b.reg 0x028).toNat 31
  else (b.ctx c).life != .free && (b.ctx c).part = n

/-- Condition 2: the state. -/
def Blk.opStateOk (b : Blk) (op : Nat) (n : PartId) (c : CtxId) (arg : Word) : Bool :=
  let x := b.ctx c
  if op = 1 then x.life = .free
  else if op = 4 then
    x.life = .free || (x.life = .exported && (match b.bytesIn n arg 4096 true with
      | some bs => b.ownFrame c bs
      | none => true))
  else if op = 5 then x.life = .dead || x.life = .exported || (x.alive && b.drained c)
  else x.alive

/-- Condition 3: the argument. -/
def Blk.opArgOk (b : Blk) (op : Nat) (n : PartId) (arg : Word) : Bool :=
  if op = 1 then (match b.bytesIn n arg 64 false with
    | some bs => b.imageOk n bs
    | none => false)
  else if op = 3 then (b.place n arg 4096 true).isSome
  else if op = 4 then (match b.bytesIn n arg 4096 true with
    | some bs => b.frameOk n bs
    | none => false)
  else if op = 6 then fld arg 15 0 != 0 && fld arg 31 16 = 0
  else true

/-- The result an operation gets at once, or none where it starts. -/
def Blk.opCheck (b : Blk) (op : Nat) (n : PartId) (c : CtxId) (arg : Word) : Option Nat :=
  if 7 ≤ op then some 3
  else if b.health.chipFailed && op != 5 then some 4
  else if !b.opPartOk op n c then some 4
  else if !b.opStateOk op n c arg then some 2
  else if !b.opArgOk op n arg then some 3
  else none

/-! ### What operations do -/

/-- What an exported or idle context still holds is released, without a record (R367). -/
def Blk.letGo (b : Blk) (c : CtxId) : Blk :=
  (((b.abortDispatches c).abortSeats fun s => s.ctx = c).abortComets fun x => x.ctx = c).releaseAll c

/-- A context becomes FREE. Its cache entry stays, and goes to the store as FREE when it is replaced (R361). -/
def Blk.freeCtx (b : Blk) (c : CtxId) : Blk :=
  let b := if (b.ctx c).life = .dead then b else b.letGo c
  let b := b.leaveSlot c
  { b.touched c with ctxs := b.ctxs.drop c.toNat }

/-- An EXPORT takes a context out of its run slot, outside a lane run: its units finish their tiles (R371). -/
def Blk.exportLeave (b : Blk) (c : CtxId) : Blk :=
  let n := (b.ctx c).part
  let s := b.slot n
  if s.running = some c && !b.inLaneRun c then
    match (b.eligibles n).filter (· != c) with
    | [] => b.setSlot n { s with running := none, outgoing := some c, switchFrom := b.cycle.toNat, switchD := false }
    | l => match bestBy (fun x y => (b.ctx x).pass.toNat < (b.ctx y).pass.toNat) l with
      | some inc => b.switchPoint n inc false
      | none => b
  else if s.incoming = some c then b.setSlot n { s with incoming := none }
  else b

/-- The part of an operation that is done as it starts. -/
def startOp (op : Nat) (c : CtxId) (arg : Word) (s : Pair') : Pair' :=
  let (a, b) := s
  if op = 1 then
    let n := a.noise
    let a := { a with noise := { n with served := n.served.filter (fun s => s.1 != c), waiting := n.waiting.filter fun w => w.map (·.1.ctx) != some c } }
    let fresh : Bool := match b.ctxOp with
      | some o => (match b.bytesIn o.part arg 64 false with
          | some bs => byteAt' bs 5 = 1
          | none => false)
      | none => false
    if !fresh then (a, b)
    else if a.noise.st == .failed then (a, { b with ctxOp := b.ctxOp.map fun o => { o with noKey := true } })
    else ({ a with noise := { a.noise with waiting := a.noise.waiting ++ [none] } }, b)
  else if op = 2 then (a, (b.touched c).ctxFault c (flt 0x19))
  else if op = 3 then (a, b.exportLeave c)
  else if op = 5 then (a, b.freeCtx c)
  else if op = 6 then (a, (b.touched c).modCtx c fun x => { x with shares := BitVec.ofNat 16 (fld arg 15 0) })
  else (a, b)

/-- A write of ND_CTX_OP: the operand fields, and the operation where the unit is not busy. -/
def ctxOpWrite (p : Path) (v : Word) (s : Pair') : Pair' :=
  let (a, b) := s
  let old := b
  let op := fld v 27 24
  let b := b.setReg 0x210 p.ix (setFld (setFld (b.reg 0x210 p.ix) 23 21 (fld v 23 21)) 17 0 (fld v 17 0))
  if op = 0 || b.ctxBusy then (a, b)
  else
    let n : PartId := BitVec.ofNat 3 (fld v 23 21)
    let c : CtxId := BitVec.ofNat 18 (fld v 17 0)
    let arg := b.reg 0x214 p.ix
    match b.opCheck op n c arg with
    | some r => (a, b.ctxResult p r)
    | none =>
      let b := { b.ctxResult p 0 with ctxOp := some { path := p, op := op, part := n, ctx := c, arg := arg, noKey := false } }
      let r := startOp op c arg (a, b)
      (r.1, Blk.settle old r.2)

/-! ### CONTEXT_OP_COMPLETE -/

/-- The key a CREATE uses: the image's, or what the DRBG supplied. -/
def Aon.createKey (a : Aon) (c : CtxId) (bs : List Byte) : Option (BitVec 128) :=
  if byteAt' bs 5 = 0 then some (BitVec.ofNat 128 (le bs 0x30 16))
  else (a.servedKey c).map fun k => BitVec.ofNat 128 (leNat k)

/-- CREATE: the frame is cleared and written, the context is IDLE (R366). -/
def finishCreate (o : CtxOp) (s : Pair') : Option (Pair' × Nat) :=
  let (a, b) := s
  match b.bytesIn o.part o.arg 64 false with
  | none => some (s, 3)
  | some bs =>
    if !b.imageOk o.part bs then some (s, 3)
    else if o.noKey then some (s, 4)
    else match a.createKey o.ctx bs with
      | none => none
      | some k =>
        let b := b.setCtx o.ctx (b.createdCtx o.part bs k)
        let b := b.modCtx o.ctx fun x => { x with pass := b.startPass o.part o.ctx 0 }
        let b := match b.place o.part (w32 bs 8) 4096 true with
          | some at' => b.stow at' (b.frame a o.ctx)
          | none => b
        let a := { a with noise := { a.noise with served := a.noise.served.filter fun s => s.1 != o.ctx } }
        some ((a, b.touched o.ctx), 1)

/-- Whether every command of a context has completed or is suspended. -/
def Blk.stilled (b : Blk) (c : CtxId) : Bool := (b.inFlight c).all fun f => f.suspended.isSome

def finishExport (o : CtxOp) (s : Pair') : Option (Pair' × Nat) :=
  let (a, b) := s
  let b := b.exportLeave o.ctx
  let n := o.part
  if (b.slot n).running = some o.ctx || !b.stilled o.ctx then (if (b.ctx o.ctx).torn then some ((a, b), 2) else none)
  else
    let b := b.writeFrame a o.ctx
    let b := match b.place n o.arg 4096 true with
      | some at' => b.stow at' (b.frame a o.ctx)
      | none => b
    let b := b.leaveSlot o.ctx
    some ((a, (b.touched o.ctx).modCtx o.ctx fun x => { x with life := .exported }), 1)

/-- The commands of a context that is restored into a partition of `lanes` lanes: what remains of them is charged at that
partition's lane count (R369). -/
def Blk.rescaleAll (b : Blk) (c : CtxId) (old lanes : Nat) : Blk :=
  { b with flights := b.flights.map fun f => if f.ctx = c && old != lanes then f.rescaled old lanes else f }

/-- RESTORE: an EXPORTED context on its own instance resumes with all it still holds; on any other target its
records become suspended commands, with the references of what they bound (R368, R69, R77). -/
def finishRestore (o : CtxOp) (s : Pair') : Option (Pair' × Nat) :=
  let (a, b) := s
  match b.bytesIn o.part o.arg 4096 true with
  | none => some (s, 3)
  | some bs =>
    if !b.frameOk o.part bs then some (s, 3)
    else
      let old := b.ctx o.ctx
      let own := old.life = .exported
      let x := b.frameCtx o.part o.arg bs
      let x := if own then
          { x with collectives := old.collectives, away := old.away,
                   queues := Vector.ofFn fun (q : Fin 4) => { x.queues[q] with pc := old.queues[q].pc } }
        else
          let ids := ((frameRecs bs).filter fun r => collective (opcodeOf r.word) && opcodeOf r.word < 0x4C).map (·.id)
          { x with collectives := ids, away := ids }
      let recs := if own then [] else (frameRecs bs).filter fun r => r.word != BitVec.ofNat 64 (0x48 * 2 ^ 56)
      let b := b.setCtx o.ctx x
      let fs := recs.map (b.restored o.ctx x.lanesSaved.toNat)
      let b := if own then b.rescaleAll o.ctx x.lanesSaved.toNat (b.partLanes o.part) else b
      let b := (fs.flatMap (·.binds)).foldl Blk.takeRef { b.draw with flights := b.flights ++ fs }
      let b := b.modCtx o.ctx fun x => { x with pass := b.startPass o.part o.ctx x.pass }
      some ((a, b.touched o.ctx), 1)

/-- An operation's end: its effects and its result; none while it still runs. -/
def finishOp (o : CtxOp) (s : Pair') : Option (Pair' × Nat) :=
  if o.op = 1 then finishCreate o s
  else if o.op = 2 then (if (s.2.ctx o.ctx).torn then none else some (s, 1))
  else if o.op = 3 then finishExport o s
  else if o.op = 4 then finishRestore o s
  else some (s, 1)

def execContextOpComplete (s : State) : Host.Outcome State Fault Refusal :=
  s.both fun ab =>
    match ab.2.ctxOp with
    | none => ab
    | some o =>
      match finishOp o ab with
      | none => (ab.1, if o.op = 3 then Blk.settle ab.2 (ab.2.exportLeave o.ctx) else ab.2)
      | some (r, code) => (r.1, Blk.settle ab.2 { r.2.ctxResult o.path code with ctxOp := none })

/-! ### CHIP_FAILED's write-out (19 R489, R490) -/

/-- An entry of the checkpoint index. -/
def Blk.ckptEntry (b : Blk) (c : CtxId) (torn bad : Bool) : List Byte :=
  let x := b.ctx c
  toLe 8 (put 63 46 c.toNat + put 45 43 x.part.toNat + put 42 42 (b01 torn) + put 41 41 (b01 bad)
    + put 39 0 (fld (BitVec.ofNat 32 x.frame.toNat) 27 24 * 2 ^ 36 + fld (BitVec.ofNat 32 x.frame.toNat) 23 0 * 4096))

/-- Contexts that are neither FREE nor DEAD. -/
def Blk.survivors (b : Blk) : List CtxId := b.ctxIds.filter fun c => (b.ctx c).alive || (b.ctx c).life = .exported

/-- Steps 4 to 6 of R489: aborts, frames and the index. -/
def Blk.writeOut (b : Blk) (a : Aon) : Blk :=
  let b := (b.ctxIds.foldl Blk.abortDispatches b)
  let b := (b.abortSeats fun _ => true).abortComets fun _ => true
  let b := (b.ctxIds.filter fun c => (b.ctx c).torn).foldl (fun b c => b.tornDown a c) b
  let b : Blk := { b with flights := b.flights.map fun (f : Flight) =>
    if f.suspends && f.suspended.isNone then { f with suspended := some b.cycle.toNat, units := f.kept } else f }
  let live := b.survivors
  let b : Blk := live.foldl (fun (b : Blk) c =>
    let b := if (b.ctx c).life = .exported then b else b.writeFrame a c
    ((b.touched c).leaveSlot c).modCtx c fun x => { x with life := .exported }) b
  let entries := live.flatMap (fun c => b.ckptEntry c false false) ++ b.health.torn.flatMap fun c => b.ckptEntry c true false
  let count := live.length + b.health.torn.length
  let head := toLe 4 0x4B434C46 ++ [1, b.health.cause, 0, 0] ++ toLe 2 b.self.toNat ++ zeroBytes 2 ++ toLe 4 count
    ++ toLe 8 b.health.failedAt.toNat ++ zeroBytes 8
  let reg := b.reg 0x024
  let b := if bit reg.toNat 31 then b.stow (fld reg 27 0 * 4096) (head ++ entries) else b
  { b with health := { b.health with writeout := false } }

/-- Every unit has reached its tile boundary: the frames and the index are written. -/
def execChipFailedWriteoutDone (s : State) : Host.Outcome State Fault Refusal :=
  s.both fun (a, b) => if b.health.chipFailed && b.health.writeout then (a, b.writeOut a) else (a, b)

end Sys2Proof.Machine
end

