-- ==== Sys2Proof/Machine/EphVault.lean ====
section
/-! DEFINITION. EphVault: the ephemeris operations of ND_EPH_CTL (04 R123 to R125) and the vault operations of
ND_VAULT_OP (20 R515). -/

namespace Sys2Proof.Machine
open Sys2Proof

/-- The CTR_DRBG is seeded anew from a conditioned block, where it is due and one is there (16 R412). -/
def Noise.reseed (n : Noise) : Noise :=
  match n.ready with
  | x :: rest => { n with ready := rest, drbg := n.drbg.reseed x, reseedDue := false, requests := 0 }
  | [] => n

/-- A generate request of the vault's CTR_DRBG, and the state after it; after a return from RETRY it is reseeded first (16
R412). What it gives before it is instantiated is open (log 10). -/
def Aon.drawBytes (a : Aon) (n : Nat) : List Byte × Aon :=
  let x := if a.noise.reseedDue then a.noise.reseed else a.noise
  let r := if x.instantiated then x.drbg.generate n else (Config.drbg x.drawn n, x.drbg)
  (r.1, { a with noise := { x with drbg := r.2, drawn := x.drawn + 1, requests := x.requests + 1 } })

/-- The owner key hash in force (20 R499). -/
def Aon.ownerHash (a : Aon) : Option (List Byte) := a.vault.fuses.owners.getLast?

/-- Whether a signature block is a good owner signature of the covered bytes (R508, R509). -/
def Aon.ownerSigned (a : Aon) (covered block : List Byte) : Bool :=
  match SigBlock.parse block, a.ownerHash with
  | some s, some h => s.alg = 1 && s.slot = 0xFF && Config.ownerVerify h covered s.sig
  | _, _ => false

/-! ### Ephemeris images (R124) -/

/-- The (partition, layer) a path's ND_HAND_SEL selects. -/
def Blk.handIx (b : Blk) (p : Path) : Nat := fld (b.reg 0x340 p.ix) 10 0

/-- The result field of a path's ND_EPH_CTL. -/
def Blk.ephResult (b : Blk) (p : Path) (r : Nat) : Blk := b.setReg 0x350 p.ix (setFld (b.reg 0x350 p.ix) 10 9 r)

/-- The primary slots that the layer's active SLOT table gives. -/
def Blk.primaryNow (b : Blk) (l : Layer) : List SlotEnt :=
  let x := b.bindNow l 1
  if x.epoch = 0 then [] else match b.bound x with
    | .ok bs => slotEnts bs
    | .error _ => []

/-- The number of experts of the layer's active GATE table (R125). -/
def Blk.gateExperts (b : Blk) (l : Layer) : Option Nat :=
  let x := b.bindNow l 0
  if x.epoch = 0 then none else match b.bound x with
    | .ok bs => some (le bs 8 2)
    | .error _ => none

/-- The image that SAVE writes, unsigned. -/
def Blk.ephImage (b : Blk) (n : PartId) (l : Layer) : List Byte :=
  let x := b.eph n l
  let experts := (b.gateExperts l).getD x.experts
  let owned := b.ownedExperts (b.primaryNow l)
  toLe 4 0x45504845 ++ [1, l] ++ toLe 2 experts ++ toLe 2 owned.length
    ++ [2, BitVec.ofNat 8 (fld (b.handCfg n l) 25 24)] ++ toLe 4 x.lastTk ++ toLe 4 x.lastQ ++ toLe 4 x.seq.toNat
    ++ toLe 4 0 ++ toLe 4 (0x40 + 8 * experts + 12 * owned.length) ++ zeroBytes 32
    ++ (List.range experts).flatMap (fun e => toLe 4 (x.md.get e 0) ++ toLe 4 (x.vd.get e 0))
    ++ owned.flatMap fun e => toLe 4 e ++ toLe 4 (x.mr.get e 0) ++ toLe 4 (x.vr.get e 0)

/-- An image's length without its signature. -/
def ephLen (hd : List Byte) : Nat := 0x40 + 8 * le hd 6 2 + 12 * le hd 8 2

/-- Header check of a LOAD (R125 step 1). -/
def Blk.ephHeaderOk (b : Blk) (l : Layer) (hd : List Byte) : Bool :=
  le hd 0 4 = 0x45504845 && le hd 4 1 = 1 && le hd 5 1 = l.toNat && b.gateExperts l = some (le hd 6 2)

/-- The histories an image carries. -/
def Eph.loaded (x : Eph) (bs : List Byte) : Eph :=
  let e := le bs 6 2
  let ix := List.range (le bs 8 2)
  let rec' := fun (i : Nat) => 0x40 + 8 * e + 12 * i
  { x with
    md := (List.range e).foldl (fun t i => t.put i (le bs (0x40 + 8 * i) 4)) [],
    vd := (List.range e).foldl (fun t i => t.put i (le bs (0x44 + 8 * i) 4)) [],
    mr := ix.foldl (fun t i => t.put (le bs (rec' i) 4) (le bs (rec' i + 4) 4)) [],
    vr := ix.foldl (fun t i => t.put (le bs (rec' i) 4) (le bs (rec' i + 8) 4)) [],
    lastTk := le bs 0x0C 4, lastQ := le bs 0x10 4, experts := e, steps := 2, warm := true }

/-- The histories cleared (R123). -/
def Eph.cleared (x : Eph) : Eph :=
  { x with md := [], vd := [], mr := [], vr := [], steps := 0, warm := false, seq := 0, lastQ := 0, lastTk := 0, sizes := [] }

/-- Recompute sizes, plan and prefetch set in place of an observation (R123).
DESIGN CHOICE: the policy is that of ND_HAND_CFG at completion (log 71). -/
def Blk.ephReplan (b : Blk) (n : PartId) (l : Layer) : Blk :=
  b.afterHistories n l (b.handCfg n l) (b.primaryNow l) ((b.eph n l).opens + 1)

/-- A write of ND_EPH_CTL.op (R123). -/
def ephCtlWrite (p : Path) (v : Word) (s : Pair') : Pair' :=
  let (a, b) := s
  let op := fld v 2 0
  if op = 0 || b.ephOp.isSome then (a, b)
  else if 4 ≤ op then (a, b.ephResult p 3)
  else (a, { b.ephResult p 0 with
             ephOp := some { path := p, op := op, key := b.handIx p, unsigned := bit (a.reg 0x804).toNat 0 } })

/-- SAVE: a locked bank or home copy takes no image (R75, R386). -/
def Blk.ephSave (b : Blk) (n : PartId) (l : Layer) (at' : Nat) : Blk × Nat :=
  match b.wrStack at' (b.ephImage n l) with
  | .ok b => (b, 1)
  | .error f => (b.event f.code.toNat f.a.toNat f.b.toNat, 2)

/-- LOAD: the header, then the signature, then the histories (R125). -/
def ephLoad (o : EphOp) (n : PartId) (l : Layer) (at' : Nat) (s : Pair') : Pair' × Nat :=
  let (a, b) := s
  match b.window at' 64 with
  | .error _ => (s, 3)
  | .ok hd =>
    if !b.ephHeaderOk l hd then (s, 3)
    else match b.window at' (ephLen hd + le hd 0x18 4) with
      | .error _ => (s, 2)
      | .ok bs =>
        let bare := le hd 0x18 4 = 0
        if !(if bare then o.unsigned else a.ownerSigned (bs.take (ephLen hd)) (bs.drop (ephLen hd))) then (s, 2)
        else
          let a := if bare then a.auditVault 3 false o.key else a
          ((a, (b.setEph n l ((b.eph n l).loaded bs)).ephReplan n l), 1)

/-- The running ephemeris operation takes effect and shows its result. -/
def execEphemerisOpComplete (s : State) : Host.Outcome State Fault Refusal :=
  s.both fun (a, b) =>
    match b.ephOp with
    | none => (a, b)
    | some o =>
      let n : PartId := BitVec.ofNat 3 (o.key / 256)
      let l : Layer := BitVec.ofNat 8 o.key
      let at' := fld (b.reg 0x34C o.key) 27 0 * 4096
      let r : Pair' × Nat :=
        if o.op = 1 then (let w := b.ephSave n l at'; ((a, w.1), w.2))
        else if o.op = 2 then ephLoad o n l at' (a, b)
        else ((a, (b.setEph n l (b.eph n l).cleared).ephReplan n l), 1)
      (r.1.1, Blk.settle b { r.1.2.ephResult o.path r.2 with ephOp := none })

/-! ### Vault operations (R515) -/

/-- The result field of a path's ND_VAULT_OP. -/
def Blk.vaultResult (b : Blk) (p : Path) (r : Nat) : Blk := b.setReg 0x80C p.ix (setFld (b.reg 0x80C p.ix) 30 28 r)

/-- A write of ND_VAULT_OP: the part field, and the operation where the vault is not busy. -/
def vaultOpWrite (p : Path) (role : Role) (v : Word) (s : Pair') : Pair' :=
  let (a, b) := s
  let op := fld v 27 24
  let b := b.setReg 0x80C p.ix (setFld (b.reg 0x80C p.ix) 23 21 (fld v 23 21))
  if op = 0 || a.vaultOp.isSome then (a, b)
  else if 3 ≤ op then (a, b.vaultResult p 3)
  else ({ a with vaultOp := some { path := p, role := role, op := op, part := BitVec.ofNat 3 (fld v 23 21),
                                   arg0 := b.reg 0x810 p.ix, arg1 := b.reg 0x814 p.ix } }, b.vaultResult p 0)

def Role.code : Role → Nat
  | .operator => 0
  | .installer => 1
  | .maker => 2

/-- The header of a transit image (log 24 for the places of its fields). -/
def Blk.transitHeader (b : Blk) (n : PartId) (frame iv : List Byte) : List Byte :=
  toLe 4 0x534E5254 ++ [1] ++ toLe 2 b.self.toNat ++ [BitVec.ofNat 8 n.toNat] ++ (frame.drop 0x0C).take 4
    ++ (iv ++ zeroBytes 12).take 12 ++ zeroBytes 40

/-- SEAL_OUT. -/
def sealOut (o : VaultOp) (s : Pair') : Pair' × Nat :=
  let (a, b) := s
  match b.place o.part o.arg0 4096 true, b.place o.part o.arg1 4176 false with
  | some src, some dst =>
    match (if a.vaultFail then none else a.vault.fleet), b.window src 4096 with
    | some key, .ok frame =>
      let (iv, a) := a.drawBytes 12
      let hd := b.transitHeader o.part frame iv
      (match b.wrStack dst (hd ++ gcmSeal key iv hd frame) with
        | .ok b => ((a, b), 1)
        | .error _ => ((a, b), 4))
    | _, _ => (s, 4)
  | _, _ => (s, 3)

/-- SEAL_IN. -/
def sealIn (o : VaultOp) (s : Pair') : Pair' × Nat :=
  let (a, b) := s
  match b.place o.part o.arg0 4176 false, b.place o.part o.arg1 4096 true with
  | some src, some dst =>
    match (if a.vaultFail then none else a.vault.fleet), b.window src 4176 with
    | some key, .ok bs =>
      if le bs 0 4 != 0x534E5254 then (s, 4)
      else (match gcmOpen key ((bs.drop 12).take 12) (bs.take 64) (bs.drop 64) with
        | some frame => (match b.wrStack dst frame with
            | .ok b => ((a, b), 1)
            | .error _ => (s, 4))
        | none => (s, 4))
    | _, _ => (s, 4)
  | _, _ => (s, 3)

/-- The running vault operation takes effect, shows its result, and is audited unless malformed. -/
def execVaultOpComplete (s : State) : Host.Outcome State Fault Refusal :=
  s.both fun (a, b) =>
    match a.vaultOp with
    | none => (a, b)
    | some o =>
      let r := if o.op = 1 then sealOut o (a, b) else sealIn o (a, b)
      let a : Aon := if r.2 = 3 then r.1.1 else r.1.1.audit 8 o.role.code o.path.ix (r.2 = 4) o.op
      ({ a with vaultOp := none }, r.1.2.vaultResult o.path r.2)

end Sys2Proof.Machine
end

