-- ==== Sys2Proof/Machine/Fec.lean ====
section
/-!
DEFINITION. The forward error correction of a far link: the Reed–Solomon code RS(528, 512) over GF(2^10) (17 R431) and
the order in which a group's symbols and data bits travel (R432).
-/

namespace Sys2Proof.Machine

/-- A symbol of GF(2^10). -/
abbrev Sym := BitVec 10

/-- The product with α: x^10 = x^3 + 1 (R431). -/
def Sym.timesAlpha (a : Sym) : Sym := (a <<< 1) ^^^ (if a.getLsbD 9 then 9 else 0)

/-- The product of two symbols. -/
def Sym.times (a b : Sym) : Sym :=
  (List.range 10).foldl (fun s i => s.timesAlpha ^^^ (if b.getLsbD (9 - i) then a else 0)) 0

/-- A power of a symbol. -/
def Sym.power (a : Sym) : Nat → Sym
  | 0 => 1
  | n + 1 => (Sym.power a n).times a

/-- The inverse of a symbol other than 0, a^1022: nine times, square and multiply, then square. -/
def Sym.inverse (a : Sym) : Sym :=
  let r := (List.range 8).foldl (fun s _ => (s.times s).times a) a
  r.times r

/-- A polynomial's value at x, the coefficient of the highest power first. -/
def symEval (p : List Sym) (x : Sym) : Sym := p.foldl (fun s c => s.times x ^^^ c) 0

/-- The product of two polynomials, constants first. -/
def symMul : List Sym → List Sym → List Sym
  | [], _ => []
  | a :: p, q =>
    let t := 0 :: symMul p q
    let u := q.map a.times
    (List.range (max t.length u.length)).map fun i => (t[i]?).getD 0 ^^^ (u[i]?).getD 0

/-- The generator: the product of (x − α^i) for i from 0 to 15, constants first (R431). -/
def fecGenerator : List Sym := (List.range 16).foldl (fun g i => symMul [Sym.power 2 i, 1] g) [1]

/-- The parity of data symbols: the remainder of data × x^16 by the generator, highest power first. -/
def fecParity (data : List Sym) : List Sym :=
  let g := (fecGenerator.take 16).reverse
  data.foldl (fun r d =>
    let k := d ^^^ (r.head?).getD 0
    List.zipWith (fun x c => x ^^^ k.times c) (r.drop 1 ++ [0]) g) (List.replicate 16 0)

/-- The systematic codeword of data symbols (R431). -/
def fecEncode (data : List Sym) : List Sym := data ++ fecParity data

/-- The sixteen syndromes of a received word: its values at α^0 to α^15. -/
def fecSyndromes (w : List Sym) : List Sym := (List.range 16).map fun i => symEval w (Sym.power 2 i)

/-- A word is a codeword: every root of the generator is a root of it. -/
def fecOk (w : List Sym) : Bool := (fecSyndromes w).all (· = 0)

/-- The search for the error locator: its present polynomial and length, and those of the last change of length with the
discrepancy met there and the shift since. -/
structure FecSearch where
  loc : List Sym := [1]
  len : Nat := 0
  prev : List Sym := [1]
  gap : Nat := 1
  disc : Sym := 1
  deriving DecidableEq, Repr

/-- One syndrome more is taken in. -/
def FecSearch.take (s : List Sym) (x : FecSearch) (n : Nat) : FecSearch :=
  let d := (List.range (x.len + 1)).foldl (fun d i =>
    if i ≤ n then d ^^^ ((x.loc[i]?).getD 0).times ((s[n - i]?).getD 0) else d) 0
  if d = 0 then { x with gap := x.gap + 1 }
  else
    let k := d.times x.disc.inverse
    let low := List.replicate x.gap 0 ++ x.prev.map k.times
    let loc := (List.range (max x.loc.length low.length)).map fun i => (x.loc[i]?).getD 0 ^^^ (low[i]?).getD 0
    if 2 * x.len ≤ n then { loc := loc, len := n + 1 - x.len, prev := x.loc, gap := 1, disc := d }
    else { x with loc := loc, gap := x.gap + 1 }

/-- The error locator of syndromes. -/
def fecLocator (s : List Sym) : FecSearch := (List.range 16).foldl (FecSearch.take s) {}

/-- The error at a position whose locator is x: 0 where x's inverse is no root of the error locator. -/
def fecErrorAt (loc omega : List Sym) (x : Sym) : Sym :=
  let z := x.inverse
  if symEval loc.reverse z != 0 then 0
  else
    let slope := symEval ((loc.drop 1).zipIdx.map fun (c, i) => if i % 2 = 0 then c else 0).reverse z
    (x.times (symEval omega.reverse z)).times slope.inverse

/-- The errors of a received word, in the order of its positions. -/
def fecErrors (w : List Sym) : List Sym :=
  let s := fecSyndromes w
  let loc := (fecLocator s).loc
  let omega := (symMul s loc).take 16
  let n := w.length
  -- position p holds the coefficient of x^(n − 1 − p)
  let locators := ((List.range n).foldl (fun (l : List Sym × Sym) _ => (l.2 :: l.1, l.2.timesAlpha)) ([], 1)).1
  locators.map (fecErrorAt loc omega)

/-- The decoder: the codeword within 8 symbols of a received word and the number of symbols it corrects, or none (R431). -/
def fecDecode (w : List Sym) : Option (List Sym × Nat) :=
  if fecOk w then some (w, 0)
  else
    let e := fecErrors w
    let fixed := List.zipWith (· ^^^ ·) w e
    let n := (e.filter (· != 0)).length
    if n ≤ 8 && fecOk fixed then some (fixed, n) else none

/-! ### Groups (R432) -/

/-- The codeword and the position of symbol j of a group in group order (R432). -/
def groupPlace (j : Nat) : Nat × Nat := (j / 8 % 4, 8 * (j / 32) + j % 8)

/-- The data symbols of a group's ten flits of 256 bytes, in group order: data bit b is bit b mod 10 of symbol b / 10. -/
def groupData (flits : List Byte) : List Sym :=
  let bitAt := fun (i : Nat) => ((flits[i / 8]?).getD 0).getLsbD (i % 8)
  (List.range 2048).map fun j =>
    (List.range 10).foldl (fun s i => s ||| (if bitAt (10 * j + i) then BitVec.ofNat 10 (2 ^ i) else 0)) 0

/-- The four codewords of a group. -/
def groupWords (flits : List Byte) : List (List Sym) :=
  let d := groupData flits
  (List.range 4).map fun c =>
    fecEncode ((List.range 512).map fun p => (d[32 * (p / 8) + 8 * c + p % 8]?).getD 0)

/-- The bytes of a group's ten flits, as its four decoded codewords carry them. -/
def groupBytes (words : List (List Sym)) : List Byte :=
  let sym := fun (j : Nat) => (((words[(groupPlace j).1]?).getD [])[(groupPlace j).2]?).getD 0
  (List.range 2560).map fun k =>
    (List.range 8).foldl (fun b i => if (sym ((8 * k + i) / 10)).getLsbD ((8 * k + i) % 10) then b ||| BitVec.ofNat 8 (2 ^ i) else b) 0

end Sys2Proof.Machine
end

