-- ==== Sys2Proof/Machine/Owner.lean ====
section
/-! DEFINITION. Owner: the owner's side of the exchange (06 R165, R175 to R182, R184; 07 R196, R197; 11 R299; 15
R388, R396 to R398; 17 R444 to R447): packets for this instance's dies, units of the receive regions, and the reports of
the dies. -/

namespace Sys2Proof

/-- A header with every field cleared that its kind does not use (R166, R167). -/
def PktHdr.used (h : PktHdr) : PktHdr :=
  let c := { PktHdr.zero with kind := h.kind, ttl := h.ttl, src := h.src, dst := h.dst, die := h.die, part := h.part,
                              layer := h.layer, seq := h.seq }
  let row := { h with rsv := 0 }
  match h.kind.toNat with
  | 1 => row
  | 2 => { row with bytes := 0, crc := 0 }
  | 3 => row
  | 4 => { c with die := 3, position := h.position &&& 0x1FFFF, gidx := h.gidx, hand := h.hand }
  | 5 => { c with group := h.group, gidx := h.gidx, position := h.position &&& 1 }
  | 6 => { c with gidx := h.gidx, position := h.position &&& 1 }
  | 7 => { c with gidx := h.gidx }
  | 8 => { c with group := h.group }
  | 9 => { row with bytes := 0 }
  | _ => { c with die := 3 }

/-- Whether a packet is malformed as one of a kind (R167). -/
def Packet.malformed (k : Packet) (kind : Nat) : Bool :=
  let h := k.hdr
  h.kind.toNat != kind || h != h.used || h.bytes.toNat != k.payload.length
    || ((kind = 1 || kind = 3) && 65536 < h.bytes.toNat) || (kind = 4 && 65536 < h.position.toNat)
    || (kind = 9 && (h.crc = 0 || 5 < h.crc.toNat))
    || (kind = 1 && 4 ≤ h.fmt.toNat) || ((kind = 2 || kind = 3) && 3 ≤ h.fmt.toNat) || (kind = 4 && 9 ≤ h.hand.toNat)
    || (h.die = 3 && (kind = 1 || kind = 5 || kind = 6 || kind = 7 || kind = 8))
    || (h.die = 3) != (h.slot = 0xFFF) && kind = 2

end Sys2Proof

namespace Sys2Proof.Machine
open Sys2Proof

/-! ### Arrival -/

/-- The port class a packet of a source arrives by (log 25). -/
def Blk.arrival (b : Blk) (src : InstId) : Port :=
  if src = b.self then .here else if pkgOf src != pkgOf b.self then .l 0 else .o 0

/-- Whether a packet from an owner names a dispatch. -/
def Dispatch.named (d : Dispatch) (h : PktHdr) : Bool := d.part = h.part && d.layer = h.layer && seqLow d.seq = h.seq

/-- Change the dispatch of this instance that a packet names. -/
def Blk.modOwn (b : Blk) (h : PktHdr) (f : Dispatch → Dispatch) : Blk :=
  { b with disps := modLast (·.named h) f b.disps }

/-- The dispatch of this instance that control and return packets name: the last one opened, where a RESET has repeated its
number. -/
def Blk.ownDisp (b : Blk) (h : PktHdr) : Option Dispatch :=
  (b.disps.filter (·.named h)).getLast?

/-- Whom owner-side bytes are charged to: a context of this instance that is its own source (R379). -/
def Blk.payer (b : Blk) (h : PktHdr) : Option CtxId :=
  if h.src = b.self then (b.ownDisp h).map (·.ctx) else none

/-- A packet for another instance goes on, by the far queue where its way is a far port; a full one refuses it, and it stays
at its port (R159, R173, R174). -/
def Blk.passOn (b : Blk) (k : Packet) : Blk :=
  if b.heldFar k then b else (b.rxBytes none (b.arrival k.hdr.src) k.size).txBy true none k

/-- A packet of a kind arrives: one for another instance goes on, a malformed one comes back as a BOUNCE. -/
def Blk.arriving (b : Blk) (kind : Nat) (k : Packet) (payer : Option CtxId) (go : Blk → Blk) : Blk :=
  if k.hdr.dst != b.self then b.passOn k
  else
    let b := b.rxBytes payer (b.arrival k.hdr.src) k.size
    if k.malformed kind then b.bounce k 5 else go b

/-- A packet that is discarded (R184, R186). -/
def Blk.exchDiscard (b : Blk) (c : Option CtxId) : Blk := b.addFor c Cnt.discard 1

/-- A packet to this source is discarded: it counts for the living context whose dispatch it names (R186). -/
def Blk.discardOwn (b : Blk) (h : PktHdr) : Blk :=
  b.exchDiscard (((b.ownDisp h).filter fun d => (b.ctx d.ctx).alive).map (·.ctx))

/-! ### Units of the receive regions (R175 to R178) -/

def InDisp.is (d : InDisp) (h : PktHdr) : Bool := d.src = h.src && d.part = h.part && d.layer = h.layer && d.seq = h.seq

def Blk.inDisp (b : Blk) (h : PktHdr) : Option InDisp := b.exch.inDisps.find? fun d => d.is h

def Blk.modIn (b : Blk) (h : PktHdr) (f : InDisp → InDisp) : Blk :=
  { b with exch := { b.exch with inDisps := b.exch.inDisps.map fun d => if d.is h then f d else d } }

/-- Units of a die that dispatches hold. -/
def Blk.heldUnits (b : Blk) (die : BitVec 2) : Nat := sumL (b.exch.inDisps.map fun d => d.granted.get die.toNat 0)

/-- Units of a die's region: 256 B each. -/
def Blk.regionUnits (b : Blk) (die : BitVec 2) : Nat := fld (b.reg 0x390 die.toNat) 23 0 * 16

def Blk.freeUnits (b : Blk) (die : BitVec 2) : Nat := b.regionUnits die - b.heldUnits die

/-- Units that DEALs of a dispatch used at a die and that are not yet free. -/
def InDisp.usedAt (d : InDisp) (die : BitVec 2) : Nat :=
  sumL ((d.used.filter fun p => p.1 / 256 = die.toNat).map (·.2))

/-- A header towards the source of an arrived packet. -/
def Blk.answer (b : Blk) (kind : Nat) (h : PktHdr) (die : BitVec 2) : PktHdr := b.header kind h.src die h.part h.layer h.seq

/-- Grant units to a dispatch: the GRANT leaves (R176, R177). -/
def Blk.grant (b : Blk) (h : PktHdr) (die : BitVec 2) (units : Nat) (claim : Bool) : Blk :=
  let b := b.modIn h fun d => { d with granted := d.granted.upd die.toNat 0 (· + units) }
  b.tx (b.payer h) ⟨{ b.answer 6 h die with gidx := BitVec.ofNat 32 units, position := BitVec.ofNat 20 (b01 claim) }, []⟩

/-- The header fields that name a dispatch. -/
def InDisp.name (d : InDisp) : PktHdr := { PktHdr.zero with src := d.src, part := d.part, layer := d.layer, seq := d.seq }

def ClaimQ.name (c : ClaimQ) : PktHdr := { PktHdr.zero with src := c.src, part := c.part, layer := c.layer, seq := c.seq }

/-- Grant owed units of a die, in OPEN arrival order (R176). -/
def Blk.serveOwed (b : Blk) (die : BitVec 2) : Blk :=
  b.exch.inDisps.foldl (fun b d =>
    let n := Nat.min (d.owed.get die.toNat 0) (b.freeUnits die)
    if n = 0 then b
    else (b.modIn d.name fun d => { d with owed := d.owed.upd die.toNat 0 (· - n) }).grant d.name die n false) b

/-- Serve the CLAIMs of a die in arrival order, each once its DEALs' units are free; a CLAIM that came before its OPEN
waits for it (R177). -/
def Blk.serveClaims (die : BitVec 2) : List ClaimQ → Blk → Blk
  | [], b => b
  | c :: rest, b =>
    if c.die != die || !(match b.inDisp c.name with
        | some d => d.opened
        | none => false) then Blk.serveClaims die rest b
    else
      let free := b.freeUnits die
      if free < c.units / 64 || free = 0 then b
      else
        let b := { b with exch := { b.exch with claimQ := dropFirst (fun x => x = c) b.exch.claimQ } }
        Blk.serveClaims die rest (b.grant c.name die (Nat.min c.units free) true)

/-- Units became free, or a want or a CLAIM came: what can be granted is. -/
def Blk.serveDie (b : Blk) (die : BitVec 2) : Blk :=
  let b := b.serveOwed die
  if (b.exch.inDisps.any fun d => d.owed.get die.toNat 0 != 0) then b else Blk.serveClaims die b.exch.claimQ b

def ClaimQ.is (c : ClaimQ) (h : PktHdr) (die : BitVec 2) : Bool :=
  c.src = h.src && c.part = h.part && c.layer = h.layer && c.seq = h.seq && c.die = die

/-- Nothing further is granted to a dispatch at a die (R178). -/
def Blk.endGrants (b : Blk) (h : PktHdr) (die : BitVec 2) : Blk :=
  let b : Blk := { b with exch := { b.exch with claimQ := b.exch.claimQ.filter fun c => !c.is h die } }
  b.modIn h fun d => { d with owed := d.owed.put die.toNat 0 }

/-! ### Residence and the die's channel (15 R396, R397; 17 R444 to R446) -/

/-- The SLOT image an owner goes by: its own current one (R165). -/
def Blk.slotsNow (b : Blk) (l : Layer) : Option (List Byte) :=
  let x := b.bindNow l 1
  if x.epoch = 0 then none else (b.bound x).toOption

/-- This instance's entry of an expert. -/
def Blk.ownSlot (b : Blk) (l : Layer) (e : BitVec 11) : Option SlotEnt :=
  (b.slotsNow l).bind fun bs => (slotEnts bs).find? fun x => x.expert = e && x.owner = b.self

def Blk.residents (b : Blk) (l : Layer) (die : BitVec 2) : List (BitVec 11) :=
  b.refresh.resident.get (l.toNat * 4 + die.toNat) []

def Blk.setResidents (b : Blk) (l : Layer) (die : BitVec 2) (x : List (BitVec 11)) : Blk :=
  { b with refresh := { b.refresh with resident := b.refresh.resident.put (l.toNat * 4 + die.toNat) x } }

/-- Whether a die holds an expert in its active bank. -/
def Blk.isResident (b : Blk) (n : PartId) (l : Layer) (die : BitVec 2) (e : BitVec 11) : Bool :=
  b.residentMax n = 0 || (b.homeCopy n l e).isNone || (b.residents l die).contains e

/-- Whether an expert has a group that its die has not computed. -/
def Blk.uncomputed (b : Blk) (l : Layer) (die : BitVec 2) (e : BitVec 11) : Bool :=
  (b.exch.inDisps.any fun d => d.layer = l && d.work.any fun w => w.1 = die && w.2.2 = e)
    || b.exch.held.any fun k => k.hdr.layer = l && k.hdr.die = die && k.hdr.expert = e && !k.hdr.moon && k.hdr.kind = 1

def Blk.localOf (b : Blk) (l : Layer) (e : BitVec 11) : BitVec 11 := ((b.ownSlot l e).map (·.local')).getD 0

/-- The resident expert to evict: of lowest P_r, ties to the higher local index, none with an uncomputed group (R396). -/
def Blk.evictee (b : Blk) (n : PartId) (l : Layer) (die : BitVec 2) : Option (BitVec 11) :=
  let x := b.eph n l
  bestBy (fun (p q : BitVec 11) => x.pr p.toNat < x.pr q.toNat
      || (x.pr p.toNat = x.pr q.toNat && (b.localOf l q).toNat < (b.localOf l p).toNat))
    ((b.residents l die).filter fun e => !b.uncomputed l die e)

/-- Whether a push on its way reaches the bank that is the active one now. -/
def Blk.reaches (b : Blk) (x : Push) : Bool := x.active && x.epoch = (b.table x.layer 0).epoch

/-- Experts of a die in its active bank or on their way there. -/
def Blk.activeCount (b : Blk) (l : Layer) (die : BitVec 2) : Nat :=
  (b.residents l die).length + (b.refresh.pushes.filter fun x => b.reaches x && x.layer = l && x.die = die).length

def Blk.pushing (b : Blk) (l : Layer) (die : BitVec 2) (e : BitVec 11) : Bool :=
  b.refresh.pushes.any fun x => b.reaches x && x.layer = l && x.die = die && x.expert = e

/-- Evict until the active bank has room for one more; whether it has. -/
def Blk.makeRoom (n : PartId) (l : Layer) (die : BitVec 2) : Nat → Blk → Blk × Bool
  | 0, b => (b, b.activeCount l die < b.residentMax n)
  | fuel + 1, b =>
    if b.activeCount l die < b.residentMax n then (b, true)
    else match b.evictee n l die with
      | none => (b, false)
      | some e =>
        let b := b.toDie none { cls := 3, op := 3, die := die, layer := l, tag := BitVec.ofNat 16 (b.localOf l e).toNat,
                                stamp := 0, addr := 0, body := [] }
        Blk.makeRoom n l die fuel (b.setResidents l die ((b.residents l die).filter fun x => x != e))

/-- Push an expert from its home copy into a die's active bank, unless it is there, on its way, or no room can be
made yet (R396). -/
def Blk.pushActive (b : Blk) (n : PartId) (l : Layer) (die : BitVec 2) (e : BitVec 11) : Blk :=
  if b.isResident n l die e || b.pushing l die e then b
  else match b.homeCopy n l e with
    | none => b
    | some (at', len, stamp) =>
      let (b, ok) := Blk.makeRoom n l die (b.residents l die).length b
      if !ok then b
      else
        let lo := b.localOf l e
        let b := b.setPushes (b.refresh.pushes ++ [{ die := die, layer := l, expert := e, local' := lo, addr := at', len := len,
                                                     stamp := stamp, epoch := (b.table l 0).epoch, active := true, sent := true, written := false,
                                                     dead := false }])
        b.toDies (imageMsgs 2 die l lo.toNat stamp (b.mem.stack.rdBytes at' len))

/-- Pass a packet to its die (R445). A DEAL's landing address lies in the receive region; which units is open (log 14). -/
def Blk.deliver (b : Blk) (k : Packet) : Blk :=
  let h := k.hdr
  if !b.usable (.k h.die) then b.bounce k 1 else
  let deal := h.kind = 1
  let base := fld (b.reg 0x380 h.die.toNat) 27 0 * 4096
  let addr := if deal then base + 256 * (Config.freeNat b.free % (b.regionUnits h.die + 1 - unitsOf k.payload.length)) else 0
  let tag := if deal then (match b.inDisp h with
      | some d => BitVec.ofNat 16 d.fmt.toNat
      | none => 0) else 0
  (if deal then b.draw else b).toDie (b.payer h)
    { cls := 1, op := 0, die := h.die, layer := h.layer, tag := tag, stamp := 0, addr := BitVec.ofNat 40 addr,
      body := h.bytesOf ++ k.payload }

/-- Whether a packet's expert is in its die's active bank, or need not be. -/
def Blk.deliverable (b : Blk) (k : Packet) : Bool :=
  k.hdr.kind != 1 || k.hdr.moon || b.isResident k.hdr.part k.hdr.layer k.hdr.die k.hdr.expert

/-- Pass on the packets held for a die, in order, as far as their experts are resident. -/
def Blk.pumpHeld (die : BitVec 2) : Nat → Blk → Blk
  | 0, b => b
  | fuel + 1, b =>
    match b.exch.held.find? fun k => k.hdr.die = die with
    | none => b
    | some k =>
      if b.deliverable k then
        let b : Blk := { b with exch := { b.exch with held := dropFirst (fun x => x.hdr.die = die) b.exch.held } }
        Blk.pumpHeld die fuel (b.deliver k)
      else b.pushActive k.hdr.part k.hdr.layer die k.hdr.expert

/-- A packet for a die takes its place behind those held for it (R397). -/
def Blk.passDie (b : Blk) (k : Packet) : Blk :=
  let b : Blk := { b with exch := { b.exch with held := b.exch.held ++ [k] } }
  Blk.pumpHeld k.hdr.die b.exch.held.length b

/-- The end of the flip's last ledger cycle, the sixteenth from its issue: what issues in that cycle binds the old epoch
(R72, R73). -/
def execFlipComplete (p : Site) (s : State) : Host.Outcome State Fault Refusal :=
  s.block fun _ b =>
    match b.flipFlight p with
    | none => b
    | some f =>
      match f.job with
      | .flip l m =>
        if b.cycle.toNat < f.issued + 16 || !(b.ctx p.ctx).alive then b
        else
          let old := b
          let plain := fun (x : Flight) =>
            if x.ctx = p.ctx && x.queue = p.queue && x.qidx = f.qidx then { x with job := .plain } else x
          let b := ({ b with flights := b.flights.map plain } : Blk).setFlips (b.refresh.flips.filter fun x => !x.at' p)
          let b := b.doFlip (b.ctx p.ctx).part l m
          -- DEALs held for experts that the new active bank has go on (R397)
          let b := dies.foldl (fun b d => Blk.pumpHeld d b.exch.held.length b) b
          Blk.settle old (b.releaseBehind l m)
      | _ => b

/-! ### DEAL, OPEN, END (R165, R176, R178, R182) -/

/-- A dispatch ends at this owner: its grants, wants and CLAIMs are gone, and what is held for its dies (R182, R184). -/
def Blk.discardIn (b : Blk) (h : PktHdr) : Blk :=
  let mine := fun (k : Packet) => k.hdr.src = h.src && k.hdr.part = h.part && k.hdr.layer = h.layer && k.hdr.seq = h.seq
  let gone := b.exch.held.filter mine
  let b := dies.foldl (fun b d => b.endGrants h d) b
  let b : Blk := { b with exch := { b.exch with held := b.exch.held.filter fun k => !mine k,
                                                splits := b.exch.splits.filter fun j => !mine j.req } }
  let b := gone.foldl (fun b _ => b.exchDiscard none) b
  b.modIn h fun d => { d with discarded := true, work := [] }

def Blk.freeAll (b : Blk) (h : PktHdr) (die : BitVec 2) : Blk :=
  b.modIn h fun d => { d with granted := d.granted.put die.toNat 0, used := d.used.filter fun p => p.1 / 256 != die.toNat }

/-- The packets held, and the grants, of every die, after units or room came free. -/
def Blk.serveAll (b : Blk) : Blk :=
  dies.foldl (fun b d => Blk.pumpHeld d b.exch.held.length (b.serveDie d)) b

/-- Whether a DEAL names an expert where this owner's SLOT image has it; a moon's DEAL comes from this instance. -/
def Blk.routedHere (b : Blk) (h : PktHdr) : Bool :=
  if h.moon then h.src = b.self
  else match b.ownSlot h.layer h.expert with
    | some x => x.die = h.die && x.local' = h.localIx
    | none => false

def execDealReceive (k : Packet) (s : State) : Host.Outcome State Fault Refusal :=
  s.block fun _ b => Blk.settle b (b.arriving 1 k (b.payer k.hdr) fun b =>
    let h := k.hdr
    match b.inDisp h with
    | none => b.exchDiscard (b.payer h)
    | some d =>
      if d.discarded then b.exchDiscard (b.payer h)
      else if crc32c k.payload != h.crc then
        let b := (b.bounce k 4).discardIn h
        (dies.foldl (fun b x => b.freeAll h x) b).serveAll
      else if !b.routedHere h then b.bounce k 3
      else
        let u := unitsOf k.payload.length
        let b := b.modIn h fun d =>
          { d with used := d.used.upd (h.die.toNat * 256 + h.group.toNat) 0 (· + u),
                   work := d.work.filter (fun w => w != (h.die, h.group, h.expert)) ++ [(h.die, h.group, h.expert)] }
        let x := b.eph h.part h.layer
        let b := if h.moon then b else b.setEph h.part h.layer { x with received := x.received.upd h.expert.toNat 0 (· + 1) }
        b.passDie k)

/-- The want of a source at a die (R176). -/
def Blk.wantAt (b : Blk) (h : PktHdr) (die : BitVec 2) : Nat :=
  let c := h.gidx.toNat
  let x := b.eph h.part h.layer
  let own := match b.slotsNow h.layer with
    | none => 0
    | some bs =>
      let n := Nat.max 1 (slotMembers bs).length
      sumL (((slotEnts bs).filter fun e => e.owner = b.self && e.die = die).map fun e =>
        match x.warm, x.sizes.find e.expert.toNat with
        | true, some r => Nat.min c (ceilDiv r n)
        | _, _ => c)
  let moons := if h.src = b.self then (match b.ownDisp h with
      | some d => (d.moons.filter fun m => m.die = die).length * c
      | none => 0) else 0
  unitsOf h.position.toNat * (own + moons)

/-- Push the prefetch set of a layer before its dispatch (R121, R396). -/
def Blk.prefetchAll (b : Blk) (n : PartId) (l : Layer) : Blk :=
  (b.eph n l).prefetch.foldl (fun b e => match b.ownSlot l e with
    | some x => b.pushActive n l x.die e
    | none => b) b

/-- The record of a dispatch that an owner begins. -/
def InDisp.fresh (h : PktHdr) : InDisp :=
  { src := h.src, part := h.part, layer := h.layer, seq := h.seq, fmt := h.hand, opened := true, granted := [], used := [],
    owed := [], work := [], lastEnd := [], discarded := false }

def execOpenReceive (k : Packet) (s : State) : Host.Outcome State Fault Refusal :=
  s.block fun _ b => Blk.settle b (b.arriving 4 k (b.payer k.hdr) fun b =>
    let h := k.hdr
    if (match b.inDisp h with
        | some d => d.discarded && !d.opened
        | none => false) then (b.modIn h fun d => { d with opened := true }).exchDiscard (b.payer h)
    else
      let d := InDisp.fresh h
      let b : Blk := { b with exch := { b.exch with inDisps := (b.exch.inDisps.filter fun x => !x.is h) ++ [d] } }
      let b := b.modIn h fun d => { d with owed := dies.map fun x => (x.toNat, b.wantAt h x) }
      (b.prefetchAll h.part h.layer).serveAll)

def execEndReceive (k : Packet) (s : State) : Host.Outcome State Fault Refusal :=
  s.block fun _ b => Blk.settle b (b.arriving 5 k (b.payer k.hdr) fun b =>
    let h := k.hdr
    match b.inDisp h with
    | none => b.exchDiscard (b.payer h)
    | some d =>
      if d.discarded then b.exchDiscard (b.payer h)
      else
        let b := b.passDie k
        if !bit h.position.toNat 0 then b
        else
          let b := (b.endGrants h h.die).modIn h fun d =>
            { d with granted := d.granted.put h.die.toNat (d.usedAt h.die), lastEnd := d.lastEnd ++ [h.die] }
          b.serveAll)

/-! ### CLAIM and ABORT (R177, R184) -/

def execClaimReceive (k : Packet) (s : State) : Host.Outcome State Fault Refusal :=
  s.block fun _ b => Blk.settle b (b.arriving 7 k (b.payer k.hdr) fun b =>
    let h := k.hdr
    match b.inDisp h with
    | some d =>
      if d.discarded then b.exchDiscard (b.payer h)
      else if d.lastEnd.contains h.die then b
      else
        ({ b with exch := { b.exch with claimQ := b.exch.claimQ ++ [⟨h.src, h.part, h.layer, h.seq, h.die, h.gidx.toNat⟩] } }
          : Blk).serveDie h.die
    | none =>
      { b with exch := { b.exch with claimQ := b.exch.claimQ ++ [⟨h.src, h.part, h.layer, h.seq, h.die, h.gidx.toNat⟩] } })

/-- The body of a die report or order (R445). -/
def bodyBytes (x : KBody) : List Byte :=
  toLe 4 (put 31 20 x.src.toNat + put 19 17 x.part.toNat) ++ toLe 4 (put 31 16 x.seq.toNat + put 15 8 x.group.toNat)
    ++ List.replicate 8 0

/-- Tell a dispatch's dies to discard its rows. -/
def Blk.orderDiscard (b : Blk) (h : PktHdr) : Blk :=
  b.toDies (dies.map fun x =>
    { cls := 3, op := 2, die := x, layer := h.layer, tag := 0, stamp := 0, addr := 0,
      body := bodyBytes { src := h.src, part := h.part, seq := h.seq, group := 0 } })

def execAbortReceive (k : Packet) (s : State) : Host.Outcome State Fault Refusal :=
  s.block fun _ b => Blk.settle b (b.arriving 10 k (b.payer k.hdr) fun b =>
    let h := k.hdr
    match b.inDisp h with
    | some d => if d.discarded then b.exchDiscard (b.payer h) else ((b.discardIn h).orderDiscard h).serveAll
    | none =>
      let d := { InDisp.fresh h with opened := false, discarded := true }
      { b with exch := { b.exch with inDisps := b.exch.inDisps ++ [d],
                                     claimQ := b.exch.claimQ.filter fun c => !(dies.any fun x => c.is h x) } }.orderDiscard h)

/-! ### FETCH and split partials (07 R196, R197; 11 R299) -/

/-- A RETURN for a FETCH (R169). -/
def Blk.returnOf (b : Blk) (h : PktHdr) (fmt : Nat) (stamp : BitVec 16) (payload : List Byte) : Packet :=
  ⟨{ h with kind := 3, ttl := b.ttlInit, fmt := BitVec.ofNat 3 fmt, bytes := BitVec.ofNat 17 payload.length, src := h.dst,
            dst := h.src, stamp := stamp, crc := crc32c payload }, payload⟩

/-- Serve a row of a distributed tensor (R299). -/
def Blk.serveRow (b : Blk) (k : Packet) : Blk :=
  let h := k.hdr
  let x := b.bindNow h.layer 2
  if x.epoch = 0 || x.epoch != h.seq then b.bounce k 3
  else match b.bound x with
    | .error _ => b.bounce k 3
    | .ok img =>
      let o := OwnHdr.of img
      if o.rows ≤ h.gidx.toNat then b.bounce k 3
      else
        let (blk, d) := ownRow img h.gidx.toNat
        if blk.owner != b.self then b.bounce k 3
        else match b.bytesAt h.part d (d.base : Int) d.rb with
          | .error _ => b.bounce k 3
          | .ok bs => b.tx (b.payer h) (b.returnOf h (returnFmt o.fmt).toNat 0 bs)

/-- ND_SPLIT_n of a FETCH's partition. -/
def Blk.splitCfg (b : Blk) (n : PartId) : Word := b.reg 0x114 n.toNat

/-- Whether a FETCH names a split entry (R196). -/
def Blk.splits (b : Blk) (h : PktHdr) : Bool :=
  let v := b.splitCfg h.part
  !h.moon && fld v 26 24 != 0 && h.die.toNat = fld v 23 22 && fld v 10 0 ≤ h.localIx.toNat && h.localIx.toNat ≤ fld v 21 11

def execFetchReceive (k : Packet) (s : State) : Host.Outcome State Fault Refusal :=
  s.block fun _ b => Blk.settle b (b.arriving 2 k (b.payer k.hdr) fun b =>
    let h := k.hdr
    if h.slot = 0xFFF then b.serveRow k
    else if (match b.inDisp h with
        | some d => d.discarded
        | none => false) then b.exchDiscard (b.payer h)
    else if !b.splits h then b.passDie k
    else
      let aim := (bitsOf 3 (fld (b.splitCfg h.part) 26 24)).map (BitVec.ofNat 2)
      let b : Blk := { b with exch := { b.exch with splits := b.exch.splits ++ [⟨k, aim, []⟩] } }
      aim.foldl (fun b x => b.passDie ⟨{ h with die := x, fmt := 2 }, []⟩) b)

/-- Whether a partial belongs to a FETCH in service. -/
def SplitJob.takes (j : SplitJob) (die : BitVec 2) (h : PktHdr) : Bool :=
  let r := j.req.hdr
  r.src = h.dst && r.part = h.part && r.layer = h.layer && r.seq = h.seq && r.row = h.row && r.hand = h.hand
    && r.slot = h.slot && r.position = h.position && r.expert = h.expert && j.dies.contains die
    && !(j.got.any fun g => g.1 = die)

/-- The FP32 sum of partials, in a given order, and how many NaN results came from operands that were none (R197, R39). -/
def sumPartials (l : List (List Word)) : List Word × Nat :=
  match l with
  | [] => ([], 0)
  | x :: rest => rest.foldl (fun s y => let r := addRows s.1 y; (r.1, s.2 + r.2)) (x, 0)

/-- Answer the source of a split FETCH. -/
def Blk.answerSplit (b : Blk) (j : SplitJob) : Blk :=
  let h := j.req.hdr
  let inDies := sortBy (fun (x y : BitVec 2 × Packet) => x.1.toNat < y.1.toNat) j.got
  let arith := b.arith h.part
  let parts := (if ordered arith then inDies else j.got).map fun g => decodeRow 4 (g.2.payload.length / 4) g.2.payload
  let fmt := fld (b.splitCfg h.part) 28 27
  let stamp := ((inDies.head?).map fun g => g.2.hdr.stamp).getD 0
  let sum := sumPartials parts
  let row := encodeRow (retCode fmt) (saturates arith) sum.1
  let b := match b.payer h with
    | some c => b.countConv c row.2 sum.2
    | none => b
  b.tx (b.payer h) (b.returnOf h fmt stamp row.1)

def execSplitPartialReceive (die : BitVec 2) (k : Packet) (s : State) : Host.Outcome State Fault Refusal :=
  s.block fun _ b =>
    match b.exch.splits.find? fun j => j.takes die k.hdr with
    | none => b.exchDiscard none
    | some j =>
      let b := b.rxBytes (b.payer j.req.hdr) (.k die) (16 + k.size)
      let j' := { j with got := j.got ++ [(die, k)] }
      let rest := dropFirst (fun (x : SplitJob) => x.takes die k.hdr) b.exch.splits
      if j'.got.length = j'.dies.length then
        ({ b with exch := { b.exch with splits := rest } } : Blk).answerSplit j'
      else { b with exch := { b.exch with splits := rest ++ [j'] } }

/-! ### Reports of the dies (17 R445 to R447) -/

/-- The header fields that a report's body names. -/
def bodyName (x : KBody) (layer : Layer) : PktHdr :=
  { PktHdr.zero with src := x.src, part := x.part, layer := layer, seq := x.seq }

def execComputed (die : BitVec 2) (layer : Layer) (x : KBody) (s : State) : Host.Outcome State Fault Refusal :=
  s.block fun _ b =>
    let h := bodyName x layer
    match b.inDisp h with
    | none => b
    | some d =>
      if d.discarded then b
      else
        let key := die.toNat * 256 + x.group.toNat
        let n := d.used.get key 0
        let c := b.modIn h fun d =>
          { d with granted := d.granted.upd die.toNat 0 (· - n), used := d.used.drop key,
                   work := d.work.filter fun w => !(w.1 = die && w.2.1 = x.group) }
        let c := c.tx (c.payer h) ⟨{ c.answer 8 h die with group := x.group }, []⟩
        Blk.settle b c.serveAll

/-- The die applied its swap: the next push to its shadow bank may start (15 R388). -/
def execSwapped (die : BitVec 2) (layer : Layer) (_stamp : BitVec 16) (s : State) : Host.Outcome State Fault Refusal :=
  s.block fun _ b =>
    ({ b with refresh := { b.refresh with swapDue := dropFirst (fun x => x = (die, layer)) b.refresh.swapDue } } : Blk).startPushes
      die layer

/-- A shadow push is written: a swap that waits for the last of them is sent (R446). -/
def Blk.shadowWritten (b : Blk) (die : BitVec 2) (l : Layer) (local' : BitVec 11) : Blk :=
  let marked := modFirst
    (fun (x : Push) => x.die = die && x.layer = l && x.local' = local' && x.sent && !x.active && !x.written)
    (fun x => { x with written := true }) b.refresh.pushes
  Blk.pumpSwaps die l b.refresh.swapWait.length (b.setPushes (marked.filter fun x => !(x.dead && x.written)))

/-- An active push is written: its expert is resident, and the DEALs held for it go on (R397). -/
def Blk.activeWritten (b : Blk) (die : BitVec 2) (l : Layer) (local' : BitVec 11) : Blk :=
  let hit := fun (x : Push) => x.active && x.die = die && x.layer = l && x.local' = local'
  match b.refresh.pushes.find? hit with
  | none => b
  | some x =>
    let c := b.setPushes (dropFirst hit b.refresh.pushes)
    let c := if b.reaches x then c.setResidents l die (b.residents l die ++ [x.expert]) else c
    Blk.pumpHeld die c.exch.held.length c

/-- A moon's last BERTH write is written: it is staged, unless a flip has outdated that image or a later one is on its way
to the berth (R446, R398). -/
def Blk.berthWritten (b : Blk) (die : BitVec 2) (l : Layer) (berth : Byte) (stamp : BitVec 16) : Blk :=
  let here := fun (x : BerthImg) => x.die = die && x.layer = l && x.berth = berth
  let img := b.exch.berths.find? here
  let b : Blk := { b with exch := { b.exch with berths := dropFirst here b.exch.berths } }
  let good := !b.exch.berths.any here
  let hit := fun (m : Moon) => m.die = die && m.berth = berth && !m.staged && good
    && img.any fun x => x.expert = m.expert && !x.old
  let n := (b.layerPart l.toNat).getD 0
  let b := b.setEph n l ((b.eph n l).modMoons fun m => if hit m then { m with staged := true, stale := false, stamp := stamp } else m)
  { b with disps := b.disps.map fun d => if d.part = n && d.layer = l then
      { d with moons := d.moons.map fun m => if hit m then { m with staged := true, stamp := stamp } else m } else d }

def execWritten (die : BitVec 2) (op : BitVec 4) (layer : Layer) (tag stamp : BitVec 16) (s : State) :
    Host.Outcome State Fault Refusal :=
  s.block fun _ b =>
    if op = 0 || 3 < op.toNat then b.addInst Cnt.linkDropped 1
    else if !bit tag.toNat 15 then b
    else
      let local' := BitVec.ofNat 11 tag.toNat
      if op = 1 then b.shadowWritten die layer local'
      else if op = 2 then b.activeWritten die layer local'
      else Blk.settle b (b.berthWritten die layer (BitVec.ofNat 8 tag.toNat) stamp)

/-- A die has discarded an aborted dispatch's rows: its units there are free (R446). -/
def execDiscarded (die : BitVec 2) (layer : Layer) (x : KBody) (s : State) : Host.Outcome State Fault Refusal :=
  s.block fun _ b =>
    let h := bodyName x layer
    match b.inDisp h with
    | none => b
    | some d => if d.discarded then Blk.settle b ((b.freeAll h die).serveAll) else b

/-- As the owner of an expert: its active home copy is read through M0 and sent over the WEIGHTS channel to the source that
stages a moon of it (R113). Nothing in the spec tells an owner that a source has planned one, so no command calls this (log 39). -/
def Blk.sendHomeCopy (b : Blk) (n : PartId) (l : Layer) (e : BitVec 11) (src : InstId) : Blk :=
  match b.homeCopy n l e, b.routeTo (posOf b.self) src with
  | some (at', len, stamp), .out port =>
    let ps := pieces 65536 (b.mem.stack.rdBytes at' len)
    ps.zipIdx.foldl (fun b p =>
      b.putOut port none 4 p.1 false (.weights src l e (p.2 * 65536) (p.2 + 1 = ps.length) stamp p.1)) (b.addM0 len 0)
  | _, _ => b

/-- Weights of an expert arrive for the moons staged from another owner: they are kept in the staging area, and with the
last byte they go to the moons' dies (R113). -/
def execWeightsReceive (layer : Layer) (expert : BitVec 11) (offset : Word) (last : Bool) (stamp : BitVec 16)
    (data : List Byte) (s : State) : Host.Outcome State Fault Refusal :=
  s.block fun _ b =>
    let have' := b.exch.staging.get (stagingKey layer expert) []
    let gap := b.freeBytes (offset.toNat - have'.length)
    let image := have'.take offset.toNat ++ gap ++ data
    let b := b.stageIn layer expert image data.length
    let b := if gap.isEmpty then b else b.draw
    if !last then b
    else
      let n := (b.layerPart layer.toNat).getD 0
      b.unstage layer expert stamp ((b.eph n layer).allMoons.filter fun m => m.expert = expert && !m.staged && !m.failed)

end Sys2Proof.Machine
end

