-- ==== Sys2Proof/Machine/Source.lean ====
section
/-! DEFINITION. Source: what comes back to a source (06 R161, R177, R182 to R186; 07 R189, R192), its timeouts, and
packets that pass through (06 R159, R161, R174). -/

namespace Sys2Proof.Machine
open Sys2Proof

/-- The dispatch that a packet from an owner concerns, while its context lives (R184). -/
def Blk.liveDisp (b : Blk) (h : PktHdr) : Option Dispatch :=
  match b.ownDisp h with
  | some d => if d.aborted || !(b.ctx d.ctx).alive then none else some d
  | none => none

/-- Act on the dispatch a packet concerns; for one that is gone it is discarded and counted. -/
def Blk.forDisp (b : Blk) (h : PktHdr) (go : Blk → Blk) : Blk :=
  match b.liveDisp h with
  | some _ => go b
  | none => b.discardOwn h

def Blk.dispPayer (b : Blk) (h : PktHdr) : Option CtxId := (b.liveDisp h).map (·.ctx)

/-! ### GRANT and READY -/

def execGrantReceive (k : Packet) (s : State) : Host.Outcome State Fault Refusal :=
  s.block fun _ b => b.arriving 6 k (b.dispPayer k.hdr) fun b =>
    let h := k.hdr
    b.forDisp h fun b =>
      let key := odKey h.src h.die
      b.modOwn h fun d =>
        { d with credits := d.credits.upd key 0 (· + h.gidx.toNat),
                 claims := if bit h.position.toNat 0 then d.claims.filter fun c => c.1 != key else d.claims }

/-- A group's READY from one die of one owner has come. -/
def Dispatch.gotReady (d : Dispatch) (h : PktHdr) : Dispatch :=
  { d with groups := d.groups.zipIdx.map fun q =>
      if q.2 = h.group.toNat then { q.1 with ready := q.1.ready.filter fun r => !(r.1 = h.src && r.2.1 = h.die) } else q.1 }

def execReadyReceive (k : Packet) (s : State) : Host.Outcome State Fault Refusal :=
  s.block fun _ b => Blk.settle b (b.arriving 8 k (b.dispPayer k.hdr) fun b =>
    b.forDisp k.hdr fun b => (b.modOwn k.hdr fun d => d.gotReady k.hdr).retireDisps)

/-! ### RETURN -/

/-- The command that awaits a RETURN, with the row. -/
def Blk.awaiting (b : Blk) (p : Await → Bool) : Option (Flight × Await) :=
  (b.flights.filter fun f => (b.ctx f.ctx).alive).findSome? fun f => (f.job.awaits.find? p).map fun a => (f, a)

def execReturnReceive (k : Packet) (s : State) : Host.Outcome State Fault Refusal :=
  s.block fun _ b =>
    let hit := b.awaiting fun a => a.answers k.hdr
    Blk.settle b (b.arriving 3 k (hit.map fun x => x.1.ctx) fun b =>
      match hit with
      | none => b.discardOwn k.hdr
      | some (f, a) => b.landReturn f a k)

/-! ### BOUNCE and timeouts (R161, R165, R182, R183) -/

/-- The fault that a BOUNCE's reason names, with the reason as its detail (13 R350). -/
def bounceFault (reason : Nat) : Flt :=
  flt (if reason = 1 || reason = 2 then 0x13 else if reason = 3 then 0x12 else if reason = 4 then 0x14 else 0x03) reason

/-- Whether a refused packet is the FETCH of an awaited row. -/
def Await.refused (a : Await) (h : PktHdr) : Bool :=
  a.sent.isSome && a.landed.isNone && a.hdr.slot = 0xFFF && h.slot = 0xFFF && a.hdr.part = h.part && a.hdr.layer = h.layer
    && a.hdr.seq = h.seq && a.hdr.row = h.row && a.hdr.gidx = h.gidx

def execBounceReceive (k : Packet) (s : State) : Host.Outcome State Fault Refusal :=
  s.block fun _ b =>
    let h := k.hdr
    let row := b.awaiting fun a => a.refused h
    let owner := if h.slot = 0xFFF then row.map fun x => x.1.ctx else b.dispPayer h
    Blk.settle b (b.arriving 9 k owner fun b =>
      match row, owner with
      | some (f, _), _ => (b.addCtx f.ctx Cnt.bounces 1).flightFault f (bounceFault h.crc.toNat)
      | none, some c => (b.addCtx c Cnt.bounces 1).ctxFault c (bounceFault h.crc.toNat)
      | none, none => b.discardOwn h)

/-- The cycle since which a context has waited (R183). -/
def Blk.waitingSince (b : Blk) (c : CtxId) (l : Layer) (w : WaitFor) : Option Nat :=
  match w with
  | .claim owner die =>
    (b.disps.filter fun d => d.ctx = c && d.layer = l && !d.aborted).findSome? fun d =>
      (d.claims.find? fun x => x.1 = odKey owner die).map (·.2)
  | .ready owner die g =>
    (b.disps.filter fun d => d.ctx = c && d.layer = l && !d.aborted).findSome? fun d =>
      (d.groups[g.toNat]?).bind fun g => (g.ready.find? fun r => r.1 = owner && r.2.1 = die).bind (·.2.2)
  | .fetch row hand =>
    (b.flights.filter fun f => f.ctx = c).findSome? fun f =>
      (f.job.awaits.find? fun a => a.landed.isNone && a.hdr.layer = l && a.hdr.row = row && a.hdr.hand = hand).bind (·.sent)

def execExchTimeout (c : CtxId) (l : Layer) (w : WaitFor) (s : State) : Host.Outcome State Fault Refusal :=
  s.block fun _ b =>
    match b.waitingSince c l w with
    | some t => if t + b.exchTimeoutCycles < b.cycle.toNat then Blk.settle b (b.ctxFault c (flt 0x15)) else b
    | none => b

/-! ### Packets that pass through -/

def execPacketForward (k : Packet) (s : State) : Host.Outcome State Fault Refusal :=
  s.block fun _ b => b.passOn k

end Sys2Proof.Machine
end

