-- ==== Sys2Proof/Machine/WearCmds.lean ====
section
/-! DEFINITION. WearCmds: scrubbing, retests, replacement and retirement as events (19 R477 to R487; 05 R148). -/

namespace Sys2Proof.Machine
open Sys2Proof

/-- Entries that are due go into the vault's repair record; a full record keeps no more (R487). -/
def flushRepairs (s : Pair') : Pair' :=
  let (a, b) := s
  let fuses := a.vault.fuses
  let room := 1024 - fuses.record.length
  let due := b.health.recordDue
  ({ a with vault := { a.vault with fuses := { fuses with record := fuses.record ++ due.take room } } },
   b.modHealth fun h => { h with recordDue := [], repairFull := h.repairFull || room < due.length })

/-- An event of the wear units: its effect, then the repair record, then what may issue again. -/
def State.wearing (s : State) (f : Pair' → Pair') : Host.Outcome State Fault Refusal :=
  s.both fun ab => let r := flushRepairs (f ab); (r.1, Blk.settle ab.2 r.2)

/-- No command uses a unit. -/
def Blk.unitIdle (b : Blk) (u : Nat) : Bool := !b.flights.any fun f => f.suspended.isNone && f.onUnit u

def Blk.dropFailing (b : Blk) (u x : Nat) : Blk :=
  b.modWear u fun w => { w with failing := w.failing.filter (· != x), due := w.due.filter (· != x) }

/-! ### Deal network stages (R148) -/

def execDealStageSwap (inbound : Bool) (s : State) : Host.Outcome State Fault Refusal :=
  s.wearing fun (a, b) =>
    let u := if inbound then 29 else 28
    match (b.health.stages inbound).waiting with
    | some st =>
      if b.unitIdle u && (b.health.stages inbound).swapEnd.isNone then (a, (b.dropFailing u st).loseStage inbound st) else (a, b)
    | none => (a, b)

def execDealStageSwapDone (inbound : Bool) (s : State) : Host.Outcome State Fault Refusal :=
  s.wearing fun (a, b) =>
    let x := b.health.stages inbound
    match x.swapEnd with
    | some t => if t ≤ b.cycle.toNat then (a, b.modHealth fun h => h.setStages inbound { x with swapEnd := none }) else (a, b)
    | none => (a, b)

/-! ### Retests (R477) -/

def execRetest (unit : BitVec 6) (s : State) : Host.Outcome State Fault Refusal :=
  s.wearing fun (a, b) =>
    let w := b.wear unit.toNat
    match w.due with
    | x :: _ =>
      if w.retest.isNone && b.unitIdle unit.toNat then
        (a, b.setWear unit.toNat { w with retest := some (x, b.cycle.toNat + 4096) })
      else (a, b)
    | [] => (a, b)

def execRetestDone (unit : BitVec 6) (number : BitVec 24) (pass : Bool) (s : State) : Host.Outcome State Fault Refusal :=
  s.wearing fun (a, b) =>
    let u := unit.toNat
    match (b.wear u).retest with
    | some (x, t) =>
      if x = number.toNat && t ≤ b.cycle.toNat then
        let b := (b.modWear u fun w => { w with retest := none }).dropFailing u x
        (a, if pass then b.modWear u fun w => { w with window := w.window + 1 } else b.losePart u x)
      else (a, b)
    | none => (a, b)

/-! ### Scrubbing and rows (R478 to R480, R486) -/

/-- The logical bank whose words a unit index holds now. -/
def Blk.bankIn (b : Blk) (u : Nat) : Option Nat :=
  if u = 16 then b.health.bank16 else if u ≤ 15 && b.health.bank16 != some u then some u else none

/-- The damaged words of a row of a unit. -/
def Blk.damaged (b : Blk) (u row : Nat) : List Nat :=
  match b.bankIn u with
  | some k => (b.mem.flips.map (·.1)).filter fun w => 4 * w / 0x300000 = k && 4 * w % 0x300000 / 128 = row
  | none => []

/-- A word is rewritten: corrected, or as 0 where it cannot be. -/
def Mem.rewrite (m : Mem) (w : Nat) : Mem :=
  { m with scratch := m.scratch.wrBytes (4 * w) ((m.word w).getD [0, 0, 0, 0]), flips := m.flips.drop w }

/-- The damaged words of a row of an array other than the scratchpad. -/
def Blk.harmed (b : Blk) (u row : Nat) : List (Nat × Nat) := if u ≤ 16 then [] else b.mem.hurtOf u fun w => w / 32 = row

def Blk.rewriteAll (b : Blk) (ws : List Nat) : Blk := { b with mem := ws.foldl Mem.rewrite b.mem }

/-- Bytes with word `i` at 0. -/
def zeroAt (i : Nat) (bs : List Byte) : List Byte := bs.take (4 * i) ++ zeroBytes (Nat.min 4 (bs.length - 4 * i)) ++ bs.drop (4 * i + 4)

/-- An uncorrectable word of a local buffer (17), a descriptor in the cache (19), a packet in the deal egress buffer (20), a
capacity ledger or a tally set (22) is rewritten as 0. A gate table's lines are fetched again, and what the score buffer held
its `select` has read (R476, log 58). -/
def Blk.zeroWord (b : Blk) (u w : Nat) : Blk :=
  if u = 17 then
    seatNums.foldl (fun b n => b.setSeat n { b.seat n with
      bufs := (b.seat n).bufs.map fun x => { x with data := x.data.zipIdx.map fun q => if bufWord n x.slot + q.2 = w then 0 else q.1 } }) b
  else if u = 19 then b.reDesc (BitVec.ofNat 18 (w / 16)) (zeroAt (w % 16))
  else if u = 20 && w < 8 * ringWords then
    let q := BitVec.ofNat 3 (w / ringWords)
    { b with exch := { b.exch with rings := b.exch.rings.wr q ((b.exch.rings.rd q).map fun e =>
        if e.holds q w then
          { e with k := Packet.ofBytes (zeroAt ((w % ringWords + ringWords - e.place) % ringWords) e.k.bytesOf) } else e) } }
  else if u = 22 then
    let i := w % 2 ^ 20
    { b with disps := b.disps.map fun d =>
        if w = otherWord 1 d.ctx + i && d.ledgerHeld then { d with counts := d.counts.put i 0 }
        else if w = otherWord 2 d.ctx + i && d.tallyHeld then { d with h := d.h.put i 0 } else d }
  else b

/-- A row that is replaced holds fresh check bits, and 0 in the words that were uncorrectable (R479). -/
def Blk.zeroHurt (b : Blk) (u row : Nat) : Blk :=
  let hs := b.harmed u row
  let b := ((hs.filter fun h => (hurtRead h.2).isNone).map (·.1)).foldl (fun b w => b.zeroWord u w) b
  { b with mem := b.mem.freshen u fun w => hs.any fun h => h.1 = w }

/-- Whether an array serves a command (R478). -/
def Blk.arrayBusy (b : Blk) (u : Nat) : Bool :=
  let runs := fun (lo hi : Nat) => b.flights.any fun f => lo ≤ opcodeOf f.word && opcodeOf f.word ≤ hi
  match b.bankIn u with
  | some k => b.flights.any fun f => bit (f.bankRd ||| f.bankWr).toNat k
  | none =>
    if u = 17 then seatNums.any fun n => (b.seat n).st != .free
    else if u = 18 then runs 0x20 0x23
    else if u = 19 then b.ctxOp.isSome
    else if u = 20 then runs 0x38 0x38 || runs 0x40 0x40
    else if u = 22 then runs 0x20 0x28 || runs 0x30 0x30
    else if u = 23 then runs 0x50 0x6F
    else false

/-- A corrected word of an array is rewritten as a read meets it. -/
def Blk.fixWord (b : Blk) (u : Nat) (h : Nat × Nat) : Blk :=
  let w := h.1
  let fix := fun (at' : Nat) (bs : List Byte) => b.mem.arrayBytes u at' bs
  if u = 17 then
    seatNums.foldl (fun b n => b.setSeat n { b.seat n with
      bufs := (b.seat n).bufs.map fun x => { x with data := b.mem.arrayWords 17 (bufWord n x.slot) x.data } }) b
  else if u = 19 then b.reDesc (BitVec.ofNat 18 (w / 16)) (fix (w / 16 * 16))
  else if u = 20 && w < 8 * ringWords then
    let q := BitVec.ofNat 3 (w / ringWords)
    { b with exch := { b.exch with rings := b.exch.rings.wr q ((b.exch.rings.rd q).map fun e =>
        if e.holds q w then { e with k := e.asRead b.mem q } else e) } }
  else if u = 22 then
    let i := w % 2 ^ 20
    let now := fun (v : Nat) => (b.mem.arrayWord 22 w (BitVec.ofNat 32 v)).toNat
    { b with disps := b.disps.map fun d =>
        if w = otherWord 1 d.ctx + i && d.ledgerHeld then { d with counts := d.counts.put i (now (d.counts.get i 0)) }
        else if w = otherWord 2 d.ctx + i && d.tallyHeld then { d with h := d.h.put i (now (d.h.get i 0)) } else d }
  else if u = 23 then
    let r := w / vecLen
    b.modQue ⟨BitVec.ofNat 18 (r / 64), BitVec.ofNat 2 (r / 16)⟩ fun x =>
      { x with vregs := x.vregs.upd (r % 16) (List.replicate vecLen 0) (b.mem.arrayWords 23 (r * vecLen)) }
  else b

/-- A row is read, corrected and rewritten (R478); what cannot be corrected stays as it is. -/
def Blk.scrub (b : Blk) (u row : Nat) : Blk :=
  let ws := b.damaged u row
  let good := ws.filter fun w => (b.mem.word w).isSome
  let hs := b.harmed u row
  let fixed := (hs.filter fun h => ((hurtRead h.2).getD 0) != 0).foldl (fun b h => b.fixWord u h) b
  let b := hs.foldl (fun b h => b.noteArray u h) ((ws.foldl Blk.noteWord fixed).rewriteAll good)
  ({ b with mem := b.mem.freshen u fun w => hs.any fun h => h.1 = w && (hurtRead h.2).isSome } : Blk).modHealth fun h =>
    { h with scrubbed := h.scrubbed ++ [(u, row)] }

/-- The scrub comes to one row, once in a window, in a cycle in which its array serves no command. -/
def execScrubRow (unit : BitVec 6) (row : BitVec 24) (s : State) : Host.Outcome State Fault Refusal :=
  s.wearing fun (a, b) =>
    if b.arrayBusy unit.toNat || b.health.scrubbed.contains (unit.toNat, row.toNat) then (a, b)
    else (a, b.scrub unit.toNat row.toNat)

/-- The rows that hold damaged words, by unit. -/
def Blk.hurtRows (b : Blk) : List (Nat × Nat) :=
  (b.mem.flips.map fun f => (b.bankUnit (4 * f.1 / 0x300000), 4 * f.1 % 0x300000 / 128))
    ++ b.mem.hurt.map fun h => (h.1 / 2 ^ 40, h.1 % 2 ^ 40 / 32)

/-- Damage that a scrub leaves: what it cannot correct. -/
def hurtLeft (hs : List (Nat × Nat)) : List (Nat × Nat) := hs.filter fun h => (hurtRead h.2).isNone

/-- A flit of a replay buffer as a scrub leaves it; its words are header and payload. -/
def Sent.scrubbed (f : Sent) : Sent :=
  if f.hurt.isEmpty then f
  else
    let ws := hurtWords f.hurt (f.hdr :: wordsOf f.payload)
    { f with hdr := ws.headD 0, payload := bytesOfWords (ws.drop 1), hurt := hurtLeft f.hurt }

/-- What is left of a parcel once the words it holds are corrected where they can be; the packet that will have left is of the
bytes that went before it and these. -/
def Parcel.mended (p : Parcel) : Parcel :=
  if p.hurt.isEmpty then p
  else
    let left := hurtBytes p.hurt p.left
    { p with left := left, hurt := hurtLeft p.hurt, out := match p.out with
      | .packet q k => .packet q (Packet.ofBytes ((k.bytesOf.take ((p.size + 3) / 4 * 4 - left.length) ++ left).take p.size))
      | o => o }

/-- The scrub of a port's far queue, replay buffer and auth buffer (R478). -/
def Blk.scrubPort (b : Blk) (i : BitVec 4) : Blk :=
  let l := b.link i
  let b := l.wait.foldl (fun b p => b.noteHurt 20 (farWord i) p.hurt) b
  let b := (l.replay ++ l.openBlock).foldl (fun b f => b.noteHurt 22 (replayWord i f.seq) f.hurt) b
  let b := l.auth.foldl (fun b k => b.noteHurt 22 (authWord i k.seq) k.flips) b
  b.modLink i fun l =>
    { l with wait := l.wait.map Parcel.mended,
             replay := l.replay.map Sent.scrubbed, openBlock := l.openBlock.map Sent.scrubbed,
             auth := l.auth.map fun k => { k with payload := hurtBytes k.flips k.payload, flips := hurtLeft k.flips } }

/-- Every row that the window's scrub has not come to yet: the scrub reads each once before the window ends (R478). -/
def Blk.scrubRest (b : Blk) : Blk :=
  ((List.range 11).map (BitVec.ofNat 4)).foldl Blk.scrubPort
    (b.hurtRows.foldl (fun b r => if b.health.scrubbed.contains r then b else b.scrub r.1 r.2) b)

/-- The end of a unit's scrub window: its rate, the alarm, and rows with an error in two windows. -/
def Blk.windowEnd (b : Blk) (u : Nat) : Blk :=
  let w := b.wear u
  let again := w.errRows.filter w.prevRows.contains
  let b := if fld (b.reg 0x70C) 15 0 < w.window then b.event 0x90 u w.window else b
  let b := b.modWear u fun w =>
    { w with rate := BitVec.ofNat 32 (Nat.min (2 ^ 32 - 1) w.window), window := 0, prevRows := w.errRows, errRows := [] }
  again.foldl (fun b r => b.rowFails u r) b

/-- The smallest margin at the current OP is recorded, and what a small one brings (R486). -/
def agingEnd (margin : Nat) (s : Pair') : Pair' :=
  let (a, b) := s
  let op := a.gov.op.toNat
  let m := Nat.min margin (a.reg 0x710 op).toNat
  let a := a.setReg 0x710 op (BitVec.ofNat 32 m)
  let low := m < fld (b.reg 0x70C) 23 16
  (a, if low && op = 4 then b.modHealth fun h => { h with boostOff := true }
      else if low && op = 3 then b.chipFail 39 m else b)

/-- The end of a scrub window of 2^30 cycles. -/
def execScrubWindowEnd (margin : BitVec 8) (s : State) : Host.Outcome State Fault Refusal :=
  s.wearing fun (a, b) =>
    if b.cycle.toNat < b.health.windowAt + 2 ^ 30 then (a, b)
    else agingEnd margin.toNat (a, ((List.range 40).foldl Blk.windowEnd b.scrubRest).modHealth fun h =>
      { h with windowAt := b.cycle.toNat, scrubbed := [] })

/-- A row's copy ends: words that could not be read are 0 in the spare row. -/
def execRowCopyDone (unit : BitVec 6) (row : BitVec 24) (s : State) : Host.Outcome State Fault Refusal :=
  s.wearing fun (a, b) =>
    let u := unit.toNat
    match (b.wear u).copies.find? fun c => c.1 = row.toNat with
    | some (r, t) =>
      if t ≤ b.cycle.toNat then
        let b := (b.rewriteAll (b.damaged u r)).zeroHurt u r
        (a, (b.modWear u fun w => { w with copies := w.copies.filter fun c => c.1 != r }).loseRow u r)
      else (a, b)
    | none => (a, b)

/-- A bank's copy ends, and bank 16 serves in its place (R482). -/
def execBankCopyDone (bank : BitVec 4) (s : State) : Host.Outcome State Fault Refusal :=
  s.wearing fun (a, b) =>
    match b.health.bankCopy with
    | some (k, t) =>
      if k = bank.toNat && t ≤ b.cycle.toNat then
        let b := b.rewriteAll ((b.mem.flips.map (·.1)).filter fun w => 4 * w / 0x300000 = k)
        (a, (b.modHealth fun h => { h with bankCopy := none, bank16 := some k }).spareUsed k 1 k)
      else (a, b)
    | none => (a, b)

/-- A quad's retirement takes effect: no lane-bound command is in flight (R484). -/
def execQuadRetire (s : State) : Host.Outcome State Fault Refusal :=
  s.wearing fun (a, b) =>
    match b.health.quadDue with
    | x :: rest => if b.unitIdle 23 then (a, (b.modHealth fun h => { h with quadDue := rest }).retireQuad x) else (a, b)
    | [] => (a, b)

end Sys2Proof.Machine
end

