-- ==== Sys2Proof/Machine/Links.lean ====
section
/-! DEFINITION. Links: the states of ports, flits and retry, lane maps, and the sessions of far links (17 R421 to R443,
R449, R450). -/

namespace Sys2Proof

/-- The header word of a flit. -/
def Flit.hdr (k : Flit) : Word := Machine.flitHdr k.kind.toNat k.vc.toNat k.len.toNat k.seq.toNat k.ack.toNat

/-- The CRC does not check (R422). -/
def Flit.crcBad (k : Flit) : Bool := k.crc != Machine.flitCrc k.hdr k.payload

/-- A bad flit: CRC, reserved kind, or length (R421). -/
def Flit.bad (k : Flit) (far : Bool) : Bool := k.crcBad || k.kind = 3 || (if far then 62 else 64) < k.len.toNat

/-- A flit with the words of an item: header, payload, CRC. -/
def Flit.ofItem (k : Flit) (ws : List Word) : Flit :=
  let h := ws.headD 0
  { k with kind := BitVec.ofNat 2 (fld h 31 30), vc := BitVec.ofNat 3 (fld h 29 27), len := BitVec.ofNat 7 (fld h 26 20),
           seq := BitVec.ofNat 10 (fld h 19 10), ack := BitVec.ofNat 10 (fld h 9 0),
           payload := Machine.bytesOfWords (ws.drop 1).dropLast, crc := (ws.getLast?).getD 0 }

/-- What a far port's decoder makes of a flit: its 256 B of its group's data, each codeword corrected where it can be (R422,
R431, R432). -/
def Flit.decoded (k : Flit) : Flit :=
  if k.fec.length != 4 then k
  else
    let words := k.fec.map fun w => match Machine.fecDecode w with
      | some (d, _) => d
      | none => w
    k.ofItem (Machine.wordsOf (((Machine.groupBytes words).drop (256 * k.place.toNat)).take 256))

/-- A flit as an item of its receive edge. -/
def Flit.item (k : Flit) : List Word := Machine.itemOf k.hdr k.payload k.crc

/-- A flit as its edge hands it over. -/
def Flit.read (k : Flit) (ws : List Word) : Flit :=
  if k.flips.isEmpty then k else { k.ofItem (Machine.hurtWords k.flips ws) with flips := [] }

end Sys2Proof

namespace Sys2Proof.Machine
open Sys2Proof

/-! ### What a far port's lanes carry (R432) -/

/-- The four codewords of the n-th group of the flits a far port has sent. -/
def Link.groupWords (l : Link) (n : Nat) : List (List Sym) :=
  Machine.groupWords (((l.line.drop (10 * n)).take 10).flatMap fun w => toLe 4 w.hdr.toNat ++ w.payload ++ toLe 4 w.crc.toNat)

/-- The symbols of a group's codewords in group order. -/
def groupSymbols (words : List (List Sym)) : List Sym :=
  (List.range 2112).map fun j => (((words[(groupPlace j).1]?).getD [])[(groupPlace j).2]?).getD 0

/-- The alignment marker of a physical lane, after a count of markers sent since the port reached UP. -/
def alignMarker (lane : Nat) (count : Word) : List Byte :=
  [0xC5, 0x3A, 0xC5, 0x3A, BitVec.ofNat 8 lane, BitVec.ofNat 8 lane ^^^ 0xFF] ++ toLe 4 count.toNat

/-- Groups sent or received since the port reached UP, by elapsed time: 20.625 cycles at 8 lanes (log 26). -/
def Lanes.groups (x : Lanes) (now : Nat) : Nat := x.base + (now - x.at') * popCount 10 x.active.toNat / 165

/-- Markers that each active lane has sent or received: one every 4,096 groups. -/
def Lanes.markers (x : Lanes) (now : Nat) : Nat := x.groups now / 4096

/-- The count of groups is taken up from a cycle on. -/
def Lanes.from' (x : Lanes) (base now : Nat) : Lanes := { x with base := base, at' := now }

/-- Whether a group, named by the low 32 bits of its count, has come. -/
def Lanes.come (x : Lanes) (now : Nat) (g : Word) : Bool := (BitVec.ofNat 32 (x.groups now) - g).toNat < 2 ^ 31

/-! ### Ports going DOWN (R428, R436, R437) -/

/-- Saturating 32-bit link counters (R450). -/
def bump (v : Word) (n : Nat := 1) : Word := satAdd v n

/-- The edges of a port. -/
def linkEdges (i : BitVec 4) : List Nat :=
  (List.range (slicesOf i)).flatMap fun s => [linkEdge i false s, linkEdge i true s]

/-- The edge FIFOs of a port are empty (R417). -/
def Blk.emptyEdges (b : Blk) (i : BitVec 4) : Blk :=
  (linkEdges i).foldl (fun b n =>
    let e := b.edge n
    if e.items.isEmpty && e.last = 0 then b else b.setEdge n { e with items := [], last := 0 }) b

/-- A port enters DOWN: of a far or orbit port its unacked flits, its far queue and what else waits are counted as they are
dropped; its edge FIFOs are empty, and what it learned of its lanes stays. -/
def Blk.portDown (b : Blk) (i : BitVec 4) (reason : BitVec 4) : Blk :=
  let l := b.link i
  let b := (if isDiePort i then b
    else b.addInst Cnt.linkDropped (l.replay.length + l.openBlock.length + l.wait.length)).emptyEdges i
  b.setLink i
    { Link.reset with
      reason := reason, enable := l.enable, since := b.cycle.toNat, line := l.line,
      rx := { Lanes.reset with retired := l.rx.retired }, tx := { Lanes.reset with retired := l.tx.retired },
      corrected := l.corrected, uncorrectable := l.uncorrectable, crcFails := l.crcFails, replays := l.replays,
      tagFails := l.tagFails, recovers := l.recovers }

/-- A port fails: LINK_DOWN where it is enabled, and a die port is below its floor. -/
def Blk.portFail (b : Blk) (i : BitVec 4) (reason : Nat) : Blk :=
  let was := (b.link i).st
  let b := b.portDown i (BitVec.ofNat 4 reason)
  let b := if was != .down && (b.link i).enable then b.event 0x8C reason else b
  if isDiePort i && b.working then b.chipFail (28 + i.toNat) 0 else b

/-- A port starts towards UP: far ports by DETECT, parallel ports by TRAIN. -/
def Blk.portStart (b : Blk) (i : BitVec 4) : Blk :=
  b.modLink i fun l => { l with st := if isFar i then .detect else .train, since := b.cycle.toNat }

def Blk.toState (b : Blk) (i : BitVec 4) (st : LinkSt) : Blk := b.modLink i fun l => { l with st := st, since := b.cycle.toNat }

/-- A port goes to RECOVER; its counts of groups stand still. -/
def Blk.recover (b : Blk) (i : BitVec 4) : Blk :=
  let now := b.cycle.toNat
  (b.modLink i fun l =>
    { l with recovers := bump l.recovers, naks := 0, owed := false, rx := l.rx.from' (l.rx.groups now) now,
             tx := l.tx.from' (l.tx.groups now) now }).toState i .recover

/-- Send every port to DOWN with reason DISABLED (18 R460). -/
def Blk.portsOff (b : Blk) : Blk :=
  ((List.range 11).map (BitVec.ofNat 4)).foldl (fun b i =>
    let was := (b.link i).st
    let b := b.portDown i 1
    if was != .down && (b.link i).enable then b.event 0x8C 1 else b) b

/-- Enabled ports train again (18 R460). -/
def Blk.portsOn (b : Blk) : Blk :=
  (((List.range 11).map (BitVec.ofNat 4)).filter fun i => (b.link i).enable && (b.link i).st == .down).foldl Blk.portStart b

/-! ### CTRL flits and NAKs (R425, R426, R433, R434) -/

/-- An unsequenced CTRL flit is sent. -/
def Blk.sendCtrl (b : Blk) (i : BitVec 4) (f : Ctrl → Ctrl) : Blk :=
  let l := b.link i
  (b.setLink i { l with lastCtrl := b.cycle.toNat }).putWire i (flitHdr 2 0 62 0 l.acked.toNat) (ctrlPayload (f l.ctrl))

/-- Owe and send a NAK for the expected flit: in a CTRL flit, or in a parallel port's sideband. -/
def Blk.linkNak (b : Blk) (i : BitVec 4) : Blk :=
  let l := b.link i
  let b := b.setLink i { l with owed := true, nakSince := b.cycle.toNat, naks := l.naks + 1 }
  if isFar i then b.sendCtrl i fun x => { x with flags := x.flags ||| 1, nakSeq := l.expect } else b.idleRow i

/-- A flit that is bad or out of order: one NAK is owed; after a lost lane NAKs are withheld (R425, R438). -/
def Blk.oweNak (b : Blk) (i : BitVec 4) : Blk :=
  let l := b.link i
  if l.owed || l.withhold then b else b.linkNak i

def nakPeriod (i : BitVec 4) : Nat := if isFar i then 1024 else 256

/-- A NAK that brings no progress is repeated, and the fourth for one seq sends the port to RECOVER (R425). -/
def execNakRepeat (i : BitVec 4) (s : State) : Host.Outcome State Fault Refusal :=
  s.block fun _ b =>
    let l := b.link i
    if !isPort i || l.st != .up || !l.owed || l.withhold || b.cycle.toNat < l.nakSince + nakPeriod i then b
    else if 3 ≤ l.naks then b.recover i
    else b.linkNak i

/-! ### Sending again (R425; 19 R476) -/

/-- Flits of the replay buffer leave again in order, as they are stored but for ack. One that cannot be read faults the
context whose packet it carries, and the port sends nothing behind it; its words are rewritten as 0 (R479). -/
def Blk.resendFlits (i : BitVec 4) : List Sent → Blk → Blk
  | [], b => b
  | f :: rest, b =>
    let b := b.noteHurt 22 (replayWord i f.seq) f.hurt
    let ws := f.hdr :: wordsOf f.payload
    if hurtLost f.hurt then
      let z := hurtZero f.hurt ws
      let b := b.modLink i fun l => { l with replay := modFirst (fun x => x.seq = f.seq) (fun x =>
        { x with hdr := z.headD 0, payload := bytesOfWords (z.drop 1), hurt := [] }) l.replay }
      (f.owner.map fun c => b.ctxFault c (flt 0x10)).getD b
    else
      let r := hurtWords f.hurt ws
      Blk.resendFlits i rest (b.putWire i (setFld (r.headD 0) 9 0 (b.link i).acked.toNat) (hurtBytes (f.hurt.filterMap fun h =>
        if h.1 = 0 then none else some (h.1 - 1, h.2)) f.payload))

/-- Act on a NAK: the open block is closed, and every flit from the named one on is sent again. -/
def Blk.onNak (b : Blk) (i : BitVec 4) (seq : BitVec 10) : Blk :=
  let b := if (b.link i).openBlock.isEmpty then b else b.sealBlock i
  let b := b.modLink i fun l => { l with replays := bump l.replays }
  match findIdx (fun (f : Sent) => f.seq = seq) (b.link i).replay with
  | some n => (Blk.resendFlits i ((b.link i).replay.drop n) b).fillSlices i
  | none => b

/-- An ack covers every flit up to its seq. -/
def Link.onAck (l : Link) (ack : BitVec 10) : Link :=
  match findIdx (fun (f : Sent) => f.seq = ack) l.replay with
  | some n => { l with replay := l.replay.drop (n + 1) }
  | none => l

/-! ### Packets that wait (06 R173; 19 R476) -/

/-- A packet that waited with damaged words leaves its far queue: corrected, or none where a word cannot be. -/
def Parcel.asRead (p : Parcel) : Option Parcel := if hurtLost p.hurt then none else some p.mended

/-- Send what waits at a port, flit by flit. A packet is read from its far queue as its first flit leaves; one with an
uncorrectable word faults its context and is not sent. -/
def Blk.transmitFar (q : Port) : Nat → Blk → Blk
  | 0, b => b
  | fuel + 1, b =>
    match (b.link q.ix).serve q.ix b.vcWeight with
    | none => b
    | some (l, p) =>
      let b := (b.setLink q.ix l).noteHurt 20 (farWord q.ix) p.hurt
      let mine := fun (x : Parcel) => x.vc = p.vc
      match p.asRead with
      | some y => Blk.transmitFar q fuel ((b.modLink q.ix fun l => { l with wait := modFirst mine (fun _ => y) l.wait }).sendPiece q y)
      | none =>
        let b := b.modLink q.ix fun l => { l with wait := dropFirst mine l.wait }
        Blk.transmitFar q fuel ((p.ctx.map fun c => b.ctxFault c (flt 0x10)).getD b)

/-- A port that is UP sends what waited. -/
def Blk.pumpLink (b : Blk) (i : BitVec 4) : Blk :=
  if (b.link i).st == .up then (Blk.transmitFar (Port.of' i) ((b.link i).flitsWaiting i) b).fillSlices i else b

/-! ### Receiving flits (R415 to R417, R421 to R426, R431, R435) -/

/-- A bad flit is rewound at its edge and counted (R415, R450). -/
def Blk.badFlit (b : Blk) (i : BitVec 4) (k : Flit) : Blk :=
  let n := linkEdge i false k.slice.toNat
  let e := b.edge n
  let b := b.setEdge n { e with rewinds := satAdd e.rewinds 1 }
  b.modLink i fun l => if k.crcBad then { l with crcFails := bump l.crcFails } else l

/-- A codeword passes the decoder of a far port: the symbols it corrects are counted for the link and for its unit, or the
codeword as uncorrectable (R431, R450; 19 R480). -/
def Blk.decode (i : BitVec 4) (b : Blk) (w : List Sym) : Blk :=
  match fecDecode w with
  | some (_, n) => (b.modLink i fun l => { l with corrected := bump l.corrected n }).modWear (30 + i.toNat) fun x =>
      { x with window := x.window + n }
  | none => b.modLink i fun l => { l with uncorrectable := bump l.uncorrectable 1 }

/-- The codewords of a group pass the decoder with the group's first flit. -/
def Blk.fecCounts (b : Blk) (i : BitVec 4) (k : Flit) : Blk :=
  if isFar i && k.place = 0 then k.fec.foldl (Blk.decode i) b else b

/-- A flit arrives: a far port's is decoded; a bad one is rewound; a good one goes through its edge, where a word that cannot
be corrected fails it as a CRC failure does (R416). -/
def Blk.inFlit (b : Blk) (i : BitVec 4) (k : Flit) : Blk × Option Flit :=
  let b := b.fecCounts i k
  let k := k.decoded
  let n := linkEdge i false k.slice.toNat
  if k.bad (isFar i) then (b.badFlit i k, none)
  else
    let r := b.through n k.item
    let b := r.2.noteHurt 21 (n * 4096) k.flips
    if hurtLost k.flips then (b.modLink i fun l => { l with crcFails := bump l.crcFails }, none) else (b, some (k.read r.1))

/-- Whether a port takes flits. -/
def Blk.hears (b : Blk) (i : BitVec 4) : Bool := isPort i && ((b.link i).st == .up || (b.link i).st == .secure)

/-- Complete messages at the head of a stream: those that meet a test, and what remains (R423). -/
def wholeMsgs (size : List Byte → Nat) (test : List Byte → Bool) : Nat → List Byte → Nat × List Byte
  | 0, bs => (0, bs)
  | fuel + 1, bs =>
    let n := (size bs + 3) / 4 * 4
    if bs.length < 16 || bs.length < n then (0, bs)
    else
      let r := wholeMsgs size test fuel (bs.drop n)
      (r.1 + b01 (test bs), r.2)

/-- Bytes of a die-port message (R444). -/
def kSize (bs : List Byte) : Nat := 16 + le bs 4 4

/-- A die-port message of a reserved class or op, or with bytes inconsistent with its class (R445). -/
def kBad (bs : List Byte) : Bool :=
  let w := le bs 0 4
  let cls := field w 31 28
  let op := field w 27 24
  let n := le bs 4 4
  if cls = 1 then op != 0 || n < 32 || 65568 < n
  else if cls = 2 then 3 < op || 65536 < n
  else if cls = 3 then op = 0 || 3 < op || n != (if op = 2 then 16 else 0)
  else if cls = 4 then op = 0 || 4 < op || n != (if op = 1 || op = 4 then 16 else 0)
  else if cls = 5 then op != 1
  else true

/-- An accepted DATA flit's words are freed: credit for them will be returned (R424); a comet message keeps its buffer until it
is taken (`Blk.freeMsg`). On a die port the messages of the stream that are malformed are discarded and counted (R445). -/
def Blk.freeWords (i : BitVec 4) (b : Blk) (k : Flit) : Blk :=
  let l := b.link i
  let tail := l.tails.rd k.vc ++ k.payload.take (4 * k.len.toNat)
  let freed := fun (n : Nat) (l : Link) => { l with rxWords := l.rxWords.wr k.vc (l.rxWords.rd k.vc + n) }
  if k.vc = 3 then b
  else if isDiePort i then
    let r := wholeMsgs kSize kBad 64 tail
    let b := b.setLink i (freed k.len.toNat { l with tails := l.tails.wr k.vc r.2 })
    if r.1 = 0 then b else b.addInst Cnt.linkDropped r.1
  else b.setLink i (freed k.len.toNat l)

/-- The next flit in sequence is accepted. -/
def Link.accept (l : Link) : Link := { l with expect := l.expect + 1, owed := false, naks := 0 }

/-- The sideband of a good parallel flit: credit and NAK (R426). -/
def Blk.sideband (b : Blk) (i : BitVec 4) (k : Flit) : Blk :=
  let b := b.modLink i fun l => { l with credits := l.credits.wr k.creditVc k.credit }
  if k.nak then b.onNak i k.nakSeq else b

/-- What a good flit brings: its ack, the sideband, and in sequence its words; a far one waits for its block's SEAL. -/
def Blk.goodFlit (b : Blk) (i : BitVec 4) (k : Flit) : Blk :=
  let b := b.modLink i fun l => l.onAck k.ack
  let b := if isFar i then b else b.sideband i k
  if k.kind != 1 || (b.link i).st != .up then b
  else if k.seq != (b.link i).expect then b.oweNak i
  else if isFar i then b.modLink i fun l => { l.accept with auth := l.auth ++ [k] }
  else ((Blk.freeWords i (b.modLink i Link.accept) k).modLink i fun l => { l with acked := k.seq }).idleRow i

/-- A flit that fails owes a NAK; what the credit and ack of a good one make room for is sent. -/
def execFlitReceive (i : BitVec 4) (k : Flit) (s : State) : Host.Outcome State Fault Refusal :=
  s.block fun _ b =>
    if !b.hears i then b
    else match b.inFlit i k with
      | (b, none) => b.oweNak i
      | (b, some k) => (b.goodFlit i k).pumpLink i

/-! ### Sessions (R440 to R443) -/

/-- Bytes that both ends derive a session from, with the lower instance ID first. -/
def sessionKeys (link : List Byte) (me peer : InstId) (port peerPort : Nat) (mine theirs : List Byte) : List Byte × Bool :=
  let lo := me.toNat < peer.toNat
  let ends : List Byte := if lo then toLe 2 me.toNat ++ [BitVec.ofNat 8 port] ++ toLe 2 peer.toNat ++ [BitVec.ofNat 8 peerPort]
    else toLe 2 peer.toNat ++ [BitVec.ofNat 8 peerPort] ++ toLe 2 me.toNat ++ [BitVec.ofNat 8 port]
  let nonces := if lo then mine ++ theirs else theirs ++ mine
  (kdf link (ascii [0x4E, 0x44, 0x2D, 0x4C, 0x49, 0x4E, 0x4B]) (ends ++ nonces) 576, lo)

/-- The keys and salts of a derivation: own direction, then the other. -/
def splitKeys (k : List Byte) (lo : Bool) : (List Byte × List Byte) × (List Byte × List Byte) :=
  let lh := (k.take 32, (k.drop 64).take 4)
  let hl := ((k.drop 32).take 32, (k.drop 68).take 4)
  if lo then (lh, hl) else (hl, lh)

/-- The AAD of the empty block 0: SHA-384 of both nonces, the lower instance's first. -/
def confirmAad (me peer : InstId) (s : Session') : List Byte :=
  sha384 (if me.toNat < peer.toNat then s.local' ++ s.peer else s.peer ++ s.local')

/-- Both nonces of SECURE are known: keys are derived, and the own confirmation leaves, a sequenced flit that closes the empty
block 0. A port without a link key does neither (R421, R433, R440). -/
def Blk.openSession (b : Blk) (i : BitVec 4) : Blk :=
  let l := b.link i
  match l.peer with
  | none => b
  | some (who, port) =>
    let s := l.session
    if s.key = [] then b
    else
      let (k, lo) := sessionKeys s.key b.self who i.toNat port.toNat s.local' s.peer
      let (tx, rx) := splitKeys k lo
      let s := { s with txKey := tx.1, txSalt := tx.2, rxKey := rx.1, rxSalt := rx.2, txBlock := 1, rxBlock := 1 }
      let tag := gcmSeal tx.1 (blockIv tx.2 0) (confirmAad b.self who s) []
      let close := l.flit 2 0 62 none (ctrlPayload { l.ctrl with flags := 0x22, block := 0, tag := tag })
      (b.setLink i { l with session := s, sendSeq := l.sendSeq + 1, lastCtrl := b.cycle.toNat }).sendFlits i [close]

/-- Fresh nonces of both ends of a rekey are known: the next keys are derived (R443). -/
def Blk.nextSession (b : Blk) (i : BitVec 4) : Blk :=
  let l := b.link i
  let s := l.session
  match l.peer with
  | none => b
  | some (who, port) =>
    if s.newLocal = [] || s.newPeer = [] then b
    else
      let (k, lo) := sessionKeys s.key b.self who i.toNat port.toNat s.newLocal s.newPeer
      let (tx, rx) := splitKeys k lo
      b.setLink i { l with session := { s with nextTx := tx.1, nextSalt := tx.2, nextRx := rx.1, nextRxSalt := rx.2,
                                               newLocal := [], newPeer := [] } }

/-- Enter SECURE: the port's link key opens the session, and the own nonce is sent (R440, 20 R511). -/
def enterSecure (i : BitVec 4) (x : Pair') : Pair' :=
  let (a, b) := x
  match a.vault.linkKeys.rd (BitVec.ofNat 3 i.toNat) with
  | none => (a, b.toState i .secure)
  | some key =>
    let (nonce, a) := a.drawBytes 32
    let b := (b.toState i .secure).modLink i fun l => { l with session := { Session'.reset with key := key, local' := nonce } }
    (a, b.sendCtrl i fun x => { x with flags := x.flags ||| 8, nonce := nonce })

/-- Start a rekey on a far port in UP: a fresh nonce, and the block from which the new keys apply (R443). -/
def startRekey (i : BitVec 4) (x : Pair') : Pair' :=
  let (a, b) := x
  let l := b.link i
  if !isFar i || l.st != .up || l.session.newLocal != [] || l.session.rekeyAt.isSome then (a, b)
  else
    let (nonce, a) := a.drawBytes 32
    let at' := l.session.txBlock + 64
    let b := b.setLink i { l with session := { l.session with newLocal := nonce, rekeyAt := some at' } }
    (a, (b.sendCtrl i fun x => { x with flags := x.flags ||| 0x10, nonce := nonce, rekeyAt := at' }).nextSession i)

/-- A far port reads its auth buffer: the block's flits, with the damage of their words (19 R476; log 58). -/
def Link.authFlits (l : Link) : List Flit := l.auth.map fun k => { k with payload := hurtBytes k.flips k.payload, flips := [] }

/-- What a block's SEAL opens: the plaintext of its flits, or none (R441). -/
def Link.openBlock' (l : Link) (x : Ctrl) : Option (List Byte) :=
  let key := l.session.rxAt x.block
  if x.block != l.session.rxBlock then none
  else gcmOpen key.1 (blockIv key.2 x.block) (bareHdrs (l.authFlits.map Flit.hdr)) (l.authFlits.flatMap (·.payload) ++ x.tag)

/-- The peer's keys after a block: a rekey that its block reached is complete. -/
def Session'.rxTurn (s : Session') : Session' :=
  match s.peerRekeyAt with
  | some r => if r.toNat ≤ s.rxBlock.toNat && s.nextRx != [] then
      { s with rxKey := s.nextRx, rxSalt := s.nextRxSalt, peerRekeyAt := none, nextRx := [], nextRxSalt := [] } else s
  | none => s

/-- A SEAL verifies: the block's flits are released as plaintext, and acknowledged (R435, R441). -/
def Blk.blockGood (b : Blk) (i : BitVec 4) (seq : BitVec 10) (plain : List Byte) : Blk :=
  let l := b.link i
  let texts := cutBy (l.auth.map fun k => k.payload.length) plain
  let b := ((l.authFlits.zip texts).map fun q => ({ q.1 with payload := q.2 } : Flit)).foldl (Blk.freeWords i) b
  b.modLink i fun l =>
    { l.accept with auth := [], acked := seq, tagFailed := none,
                    session := Session'.rxTurn { l.session with rxBlock := l.session.rxBlock + 1 } }

/-- A block's SEAL arrives in sequence: a tag that fails discards the block and owes a NAK for its first flit, and one that
fails twice sends the port DOWN (R441, R442). -/
def onSeal (i : BitVec 4) (k : Flit) (x : Ctrl) (y : Pair') : Pair' :=
  let (a, b) := y
  let l := b.link i
  let b := l.auth.foldl (fun b f => b.noteHurt 22 (authWord i f.seq) f.flips) b
  match l.openBlock' x with
  | some plain => (a, b.blockGood i k.seq plain)
  | none =>
    let first := ((l.auth.head?).map (·.seq)).getD k.seq
    let b := b.modLink i fun l =>
      { l with auth := [], expect := first, tagFails := bump l.tagFails, tagFailed := some x.block, owed := false }
    if l.tagFailed = some x.block then (a.auditVault 7 false (30 + i.toNat), b.portFail i 6) else (a, b.oweNak i)

/-- A confirmation of the session arrives: a tag that fails is counted and owes a NAK, and the third gives reason KEY
(R440, R442, R450). -/
def Blk.onConfirm (b : Blk) (i : BitVec 4) (k : Flit) (x : Ctrl) : Blk :=
  let l := b.link i
  let s := l.session
  match l.peer with
  | none => b
  | some (who, _) =>
    if s.key = [] || s.rxKey = [] then b
    else if k.seq != l.expect then b.oweNak i
    else if (gcmOpen s.rxKey (blockIv s.rxSalt 0) (confirmAad b.self who s) x.tag).isSome then
      b.setLink i { l.accept with acked := k.seq, session := { s with confirmed := true } }
    else
      let b := b.setLink i { l with session := { s with confirmFails := s.confirmFails + 1 }, tagFails := bump l.tagFails, owed := false }
      if s.confirmFails = 2 then b.portFail i 5 else b.oweNak i

/-- A MAP of the peer: its receiver names the lanes to send on (R438). -/
def Blk.onMap (b : Blk) (i : BitVec 4) (x : Ctrl) : Blk :=
  let l := b.link i
  if l.tx.come b.cycle.toNat x.mapGroup then b.recover i
  else b.setLink i { l with tx := { l.tx with next := l.tx.next ++ [(x.mapActive, x.mapRetired, x.mapGroup)] } }

/-- What a good CTRL flit does, by its flags (R434). -/
def onCtrl (i : BitVec 4) (k : Flit) (x : Ctrl) (y : Pair') : Pair' :=
  let f := x.flags.toNat
  let (a, b) := y
  let b := b.modLink i fun l => 
    { l.onAck k.ack with credits := (List.range 8).foldl (fun (t : Bank 3 (BitVec 16)) v =>
        t.wr (BitVec.ofNat 3 v) (x.credits.getD v 0)) l.credits }
  let up := (b.link i).st == .up
  let b := if bit f 0 then b.onNak i x.nakSeq else b
  let b := if up && bit f 2 then b.onMap i x else b
  if (b.link i).st == .secure then
    let b := if bit f 3 then
        (b.modLink i fun l => { l with session := { l.session with peer := x.nonce } }).openSession i else b
    (a, if bit f 1 && bit f 5 then b.onConfirm i k x else b)
  else if !up then (a, b)
  else
    let y : Pair' := if bit f 4 then
        (let b := b.modLink i fun l => { l with session := { l.session with newPeer := x.nonce, peerRekeyAt := some x.rekeyAt } }
         let y := startRekey i (a, b)
         (y.1, y.2.nextSession i))
      else (a, b)
    if !bit f 1 then y
    else if k.seq != (y.2.link i).expect then (y.1, y.2.oweNak i)
    else onSeal i k x y

/-- A CTRL flit arrives; what it says is what its payload holds (`Instr.wf` ties the operand to it). -/
def execCtrlFlitReceive (i : BitVec 4) (k : Flit) (_x : Ctrl) (s : State) : Host.Outcome State Fault Refusal :=
  s.both fun (a, b) =>
    if !isFar i || !b.hears i then (a, b)
    else match b.inFlit i k with
      | (b, none) => (a, b.oweNak i)
      | (b, some k) =>
        if k.kind != 2 then (a, (b.goodFlit i k).pumpLink i)
        else
          let y := onCtrl i k (ctrlOfBytes k.payload) (a, b)
          (y.1, y.2.pumpLink i)

/-- A far sender sends its periodic CTRL flit, or closes the block being sent (R433). -/
def execCtrlFlitInterval (i : BitVec 4) (sealBlock : Bool) (s : State) : Host.Outcome State Fault Refusal :=
  s.block fun _ b =>
    let l := b.link i
    if !isFar i || l.st != .up then b
    else if sealBlock && !l.openBlock.isEmpty then (b.setLink i { l with lastCtrl := b.cycle.toNat }).sealBlock i
    else b.sendCtrl i id

/-! ### Lane maps (R438, R439; 19 R481) -/

/-- A far port's receiver retires lanes: an entry of the repair record each, the first two against its spares. -/
def Blk.retireLanes (b : Blk) (i : BitVec 4) (lanes : List Nat) (kind : Nat) : Blk :=
  lanes.foldl (fun b n =>
    let l := b.link i
    if bit l.rx.retired.toNat n then b
    else
      let u := 30 + i.toNat
      let b := b.setLink i { l with rx := { l.rx with retired := l.rx.retired ||| BitVec.ofNat 10 (2 ^ n),
                                                      spare := l.rx.spare &&& ~~~BitVec.ofNat 10 (2 ^ n) } }
      let spare := popCount 10 l.rx.retired.toNat < 2
      (b.repair u kind n).modWear u fun w =>
        { w with used := if spare then w.used + 1 else w.used, retired := if spare then w.retired else w.retired + 1 }) b

def Link.rxGood (l : Link) : Nat := 10 - popCount 10 l.rx.retired.toNat

/-- The lanes that a direction will run on when its recorded MAPs have applied. -/
def Lanes.coming (x : Lanes) : BitVec 10 := ((x.next.getLast?).map (·.1)).getD x.active

/-- A failing active lane: the lowest-numbered good spare takes its place at a group named in a MAP; without one the
direction goes on with a lane fewer. -/
def Blk.dropLane (b : Blk) (i : BitVec 4) (n : Nat) (lost : Bool) : Blk :=
  let l := b.link i
  if !isFar i || l.st != .up || !bit l.rx.coming.toNat n then b
  else
    let spare := (bitsOf 10 (l.rx.spare &&& ~~~l.rx.coming).toNat).head?
    let left := l.rx.coming &&& ~~~BitVec.ofNat 10 (2 ^ n)
    let active := match spare with
      | some m => left ||| BitVec.ofNat 10 (2 ^ m)
      | none => left
    let group := BitVec.ofNat 32 (l.rx.groups b.cycle.toNat + 16)
    let b := b.retireLanes i [n] (if spare.isSome then 1 else 2)
    let b := b.modLink i fun l =>
      { l with rx := { l.rx with next := l.rx.next ++ [(active, l.rx.retired, group)] }, withhold := l.withhold || lost }
    let b := b.sendCtrl i fun x =>
      { x with flags := x.flags ||| 4, mapActive := active, mapRetired := (b.link i).rx.retired, mapGroup := group }
    let b := b.event (if spare.isSome then 0x8D else 0x8F) (if spare.isSome then 0 else 30 + i.toNat)
    if (b.link i).rxGood < 6 then b.chipFail (30 + i.toNat) (b.link i).rxGood else b

def execLaneLost (i : BitVec 4) (lane : BitVec 4) (s : State) : Host.Outcome State Fault Refusal :=
  s.block fun _ b => b.dropLane i lane.toNat true

def execWeakLane (i : BitVec 4) (lane : BitVec 4) (s : State) : Host.Outcome State Fault Refusal :=
  s.block fun _ b => b.dropLane i lane.toNat false

/-- A spare that fails its own pattern is retired. -/
def execSpareLaneRetire (i : BitVec 4) (lane : BitVec 4) (s : State) : Host.Outcome State Fault Refusal :=
  s.block fun _ b =>
    if !isFar i || !bit (b.link i).rx.spare.toNat lane.toNat then b
    else
      let b := b.retireLanes i [lane.toNat] 2
      if (b.link i).rxGood < 6 then b.chipFail (30 + i.toNat) (b.link i).rxGood else b

/-- The first symbol of the named group: a direction switches to its recorded lanes. -/
def Lanes.switch (x : Lanes) (now : Nat) : Lanes :=
  match x.next with
  | (act, out, g) :: rest =>
    if x.come now g then
      { active := act, retired := x.retired ||| out, spare := ((x.spare ||| x.active) &&& ~~~act) &&& ~~~(x.retired ||| out), next := rest,
        base := x.groups now, at' := now }
    else x
  | [] => x

/-- A direction changes lanes once the named group has come; with the last switch NAKs are no longer withheld (R438). -/
def execMapGroupSwitch (i : BitVec 4) (tx : Bool) (s : State) : Host.Outcome State Fault Refusal :=
  s.block fun _ b =>
    if !isFar i || (b.link i).st != .up then b
    else b.modLink i fun l =>
      if tx then { l with tx := l.tx.switch b.cycle.toNat }
      else
        let rx := l.rx.switch b.cycle.toNat
        { l with rx := rx, withhold := l.withhold && !rx.next.isEmpty }

/-! ### Register commands (R443, R449) -/

/-- ND_LINK_CTL.enable. -/
def Blk.setEnable (b : Blk) (i : BitVec 4) (v : Bool) : Blk :=
  let l := b.link i
  if !isPort i || l.enable = v then b
  else
    let b := b.setLink i { l with enable := v }
    if v then (if l.st == .down then b.portStart i else b) else b.portDown i 1

/-- ND_LINK_CTL.retrain. -/
def Blk.retrain (b : Blk) (i : BitVec 4) : Blk := if isPort i && (b.link i).st == .up then b.recover i else b

/-- A write of ND_LINK_CTL: enable, then retrain, then rekey. -/
def linkCtl (i : BitVec 4) (v : Word) (enable : Bool) (x : Pair') : Pair' :=
  let (a, b) := x
  let b := b.setEnable i enable
  let b := if bit v.toNat 1 then b.retrain i else b
  if bit v.toNat 2 then startRekey i (a, b) else (a, b)

/-- A block counter reaches 2^32: a rekey starts (R443). -/
def execBlockCounterWrap (i : BitVec 4) (s : State) : Host.Outcome State Fault Refusal :=
  s.both fun (a, b) =>
    let x := (b.link i).session
    if isFar i && (2 ^ 32 ≤ x.txBlock.toNat || 2 ^ 32 ≤ x.rxBlock.toNat) then startRekey i (a, b) else (a, b)

/-- The sender reaches its rekey_at block: the new keys are its keys (R443). -/
def Session'.txTurn (s : Session') : Session' :=
  match s.rekeyAt with
  | some r => if r.toNat ≤ s.txBlock.toNat && s.nextTx != [] then
      { s with txKey := s.nextTx, txSalt := s.nextSalt, rekeyAt := none, nextTx := [], nextSalt := [] } else s
  | none => s

def execRekeyAt (i : BitVec 4) (s : State) : Host.Outcome State Fault Refusal :=
  s.block fun _ b => if isFar i then b.modLink i fun l => { l with session := l.session.txTurn } else b

/-! ### Training (R428, R436) -/

def execDetectLock (i : BitVec 4) (lanes : BitVec 10) (s : State) : Host.Outcome State Fault Refusal :=
  s.block fun _ b =>
    let l := b.link i
    if isFar i && l.st == .detect && 6 ≤ popCount 10 lanes.toNat then b.toState i .train else b

def execTrainDone (i : BitVec 4) (good : BitVec 10) (s : State) : Host.Outcome State Fault Refusal :=
  s.block fun _ b =>
    if !isFar i || (b.link i).st != .train then b
    else
      let b := b.retireLanes i ((List.range 10).filter fun n => !bit good.toNat n) 2
      if 6 ≤ (b.link i).rxGood then b.toState i .map
      else (b.portFail i 2).chipFail (30 + i.toNat) (b.link i).rxGood

/-- A map of good lanes: the lowest-numbered ones, up to 8, are active, the rest are spares (R436). -/
def Lanes.map (x : Lanes) (retired : BitVec 10) : Lanes :=
  let good := (List.range 10).filter fun n => !bit retired.toNat n
  { x with active := BitVec.ofNat 10 (maskOf (good.take 8)), spare := BitVec.ofNat 10 (maskOf (good.drop 8)), retired := retired }

/-- Lanes that the peer's receiver has retired: those known, and of the others free ones, at least 6 being good (log 9). -/
def Lanes.peerRetired (x : Lanes) (v : Nat) : BitVec 10 :=
  let more := (bitsOf 10 v).filter fun n => !bit x.retired.toNat n
  x.retired ||| BitVec.ofNat 10 (maskOf (more.take (4 - popCount 10 x.retired.toNat)))

/-- The ends exchange their IDs: a peer at another ring position is a wiring fault; one of the same package does not agree
with R158, and the port stays in MAP until its limit. The receiver makes its map of its good lanes, and the peer's receiver
likewise. -/
def execMapDone (i : BitVec 4) (peer : InstId) (peerPort : BitVec 3) (s : State) : Host.Outcome State Fault Refusal :=
  s.block fun _ b =>
    let l := b.link i
    if !isFar i || l.st != .map then b
    else if posOf peer != posOf b.self then b.portFail i 3
    else if pkgOf peer = pkgOf b.self then b
    else
      let l := { l with peer := some (peer, peerPort), rx := l.rx.map l.rx.retired,
                        tx := l.tx.map (l.tx.peerRetired (Config.freeNat b.free)) }
      (b.draw.setLink i l).toState i .align

def execAlignDone (i : BitVec 4) (s : State) : Host.Outcome State Fault Refusal :=
  s.both fun (a, b) => if isFar i && (b.link i).st == .align then enterSecure i (a, b) else (a, b)

/-- A far port enters UP; its groups are counted from here. -/
def Blk.farUp (b : Blk) (i : BitVec 4) : Blk :=
  (b.modLink i fun l => { l with rx := l.rx.from' 0 b.cycle.toNat, tx := l.tx.from' 0 b.cycle.toNat }).toState i .up

/-- Both confirmations and the vault's verdict are in: an accept where the port has its link key and the lifecycle is
OWNED; a port without a link key stays in SECURE (R440; 20 R511). -/
def execSecureDone (i : BitVec 4) (s : State) : Host.Outcome State Fault Refusal :=
  s.block fun a b =>
    let l := b.link i
    if !isFar i || l.st != .secure || !l.session.confirmed || (a.vault.linkKeys.rd (BitVec.ofNat 3 i.toNat)).isNone then b
    else if a.vault.fuses.lifecycle != .owned || a.vaultFail then b.portFail i 5
    else b.farUp i

/-- What waited during RECOVER goes on: the unacked flits, then what waits at the port. -/
def Blk.backUp (b : Blk) (i : BitVec 4) : Blk :=
  let now := b.cycle.toNat
  let b := (b.modLink i fun l => { l with rx := l.rx.from' l.rx.base now, tx := l.tx.from' l.tx.base now }).toState i .up
  ((Blk.resendFlits i (b.link i).replay b).fillSlices i).pumpLink i

def execRecoverDone (i : BitVec 4) (s : State) : Host.Outcome State Fault Refusal :=
  s.block fun _ b => if isFar i && (b.link i).st == .recover then b.backUp i else b

/-- A parallel port ends TRAIN or RECOVER. -/
def Blk.portTrained (b : Blk) (i : BitVec 4) (ok : Bool) : Blk :=
  let l := b.link i
  if !isPort i || isFar i || (l.st != .train && l.st != .recover) then b
  else if !ok then b.portFail i 2
  else if l.st == .recover then b.backUp i else b.toState i .up

def execPortTrainDone (i : BitVec 4) (ok : Bool) (s : State) : Host.Outcome State Fault Refusal :=
  s.block fun _ b => b.portTrained i ok

/-- The limit of a state in cycles, and the reason of DOWN beyond it. -/
def stateLimit (far : Bool) (st : LinkSt) : Option (Nat × Nat) :=
  match st, far with
  | .train, true => some (20000000, 2)
  | .map, true => some (100000, 3)
  | .align, true => some (1000000, 4)
  | .secure, true => some (5000000, 5)
  | .recover, true => some (2000000, 7)
  | .train, false => some (100000, 2)
  | .recover, false => some (200000, 2)
  | _, _ => none

def execLinkStateTimeout (i : BitVec 4) (s : State) : Host.Outcome State Fault Refusal :=
  s.block fun a b =>
    let l := b.link i
    let keyless := l.st == .secure && (a.vault.linkKeys.rd (BitVec.ofNat 3 i.toNat)).isNone
    match stateLimit (isFar i) l.st with
    | some (n, reason) => if isPort i && !keyless && l.since + n < b.cycle.toNat then b.portFail i reason else b
    | none => b

def execSignalLoss (i : BitVec 4) (s : State) : Host.Outcome State Fault Refusal :=
  s.block fun _ b => if isFar i && (b.link i).st == .up then b.portFail i 8 else b

/-- 100 ms after a failure an enabled port starts again. -/
def execDownRetry (i : BitVec 4) (s : State) : Host.Outcome State Fault Refusal :=
  s.block fun _ b =>
    let l := b.link i
    if isPort i && l.st == .down && l.enable && l.since + 100000000 ≤ b.cycle.toNat then b.portStart i else b

end Sys2Proof.Machine
end

