-- ==== Sys2Proof/Machine/NoiseCmds.lean ====
section
/-! DEFINITION. NoiseCmds: the noise source with its health tests, the conditioning, and the DRBG (16 R408 to R413). -/

namespace Sys2Proof.Machine
open Sys2Proof

/-- The tests and a start-up test begin afresh. -/
def Noise.restartTests (n : Noise) : Noise :=
  { n with runLen := 0, aptCount := 0, aptPos := 0, seen0 := false, seen1 := false, testPos := 0, block := [] }

/-- FAILED is entered: FRESH requests that wait end, a `mix.seed` with BAD_OPERAND, and a CREATE with REFUSED (R413). -/
def endFresh (x : Pair') : Pair' :=
  let (a, b) := x
  let due := a.noise.waiting.filterMap id
  let b := if a.noise.waiting.contains none then { b with ctxOp := b.ctxOp.map fun o => { o with noKey := true } } else b
  ({ a with noise := { a.noise with waiting := [] } },
   Blk.settle b (due.foldl (fun b w => b.fault w.1 (b.que w.1).pc w.2 fBadOperand) b))

/-- A health test fails: 1 the Repetition Count Test, 2 the Adaptive Proportion Test (R409, R410). -/
def noiseFail (test : Nat) (x : Pair') : Pair' :=
  let (a, b) := x
  let n := a.noise
  let k := n.retries + 1
  let n := { n.restartTests with
    rctFails := if test = 1 then satAdd n.rctFails 1 else n.rctFails,
    aptFails := if test = 2 then satAdd n.aptFails 1 else n.aptFails,
    retries := k, restarting := false, st := if k = 3 then .failed else .retry }
  let b := b.event 0x91 test k.toNat
  if k = 3 then endFresh ({ a with noise := n }, b) else ({ a with noise := n }, b)

/-- The two tests take a sample: the failing test, if one fails (R408). -/
def Noise.test (n : Noise) (v : Bool) : Noise × Option Nat :=
  let run := if n.runLen != 0 && n.last = v then n.runLen + 1 else 1
  let first := if n.aptPos = 0 then v else n.aptFirst
  let same := if n.aptPos = 0 then 1 else n.aptCount + b01 (first = v)
  let full := n.aptPos + 1 = 1024
  let n := { n with last := v, runLen := run, aptFirst := first, aptCount := if full then 0 else same,
                    aptPos := if full then 0 else n.aptPos + 1 }
  (n, if 41 ≤ run then some 1 else if 800 ≤ same then some 2 else none)

/-- A good sample joins the start-up test, or the conditioned block. -/
def Noise.keep (n : Noise) (v : Bool) : Noise :=
  match n.st with
  | .ok => if n.block.length < 1024 then { n with block := v :: n.block } else n
  | .failed => n
  | _ => { n with testPos := n.testPos + 1, seen0 := n.seen0 || !v, seen1 := n.seen1 || v }

def execRawSample (v : Bool) (s : State) : Host.Outcome State Fault Refusal :=
  s.both fun (a, b) =>
    if a.noise.st == .failed then (a, b)
    else
      let r := a.noise.test v
      match r.2 with
      | some t => noiseFail t ({ a with noise := r.1 }, b)
      | none => ({ a with noise := r.1.keep v }, b)

/-- A start-up test of 1,024 samples ends; it must also have seen both values (R409). -/
def execStartupTestEnd (s : State) : Host.Outcome State Fault Refusal :=
  s.both fun (a, b) =>
    let n := a.noise
    if (n.st != .startup && n.st != .retry) || n.testPos < 1024 then (a, b)
    else if n.seen0 && n.seen1 then
      ({ a with noise := { n with st := .ok, retries := 0, restarting := false, testPos := 0, block := [],
                                  blockDue := !n.waiting.isEmpty,
                                  reseedDue := n.reseedDue || (n.instantiated && n.st == .retry) } }, b)
    else noiseFail 1 (a, b)

/-- Samples packed 8 to a byte, the first in bit 0 (R411). -/
def packBits (l : List Bool) : List Byte :=
  (pieces 8 l).map fun p => BitVec.ofNat 8 (sumL (p.zipIdx.map fun q => b01 q.1 * 2 ^ q.2))

/-- A conditioned block is released; the first two instantiate the DRBG, with the instance ID (R411, R412). -/
def execConditionedBlock (s : State) : Host.Outcome State Fault Refusal :=
  s.always fun a =>
    let n := a.noise
    if n.st != .ok || n.block.length < 1024 then a
    else
      let n := { n with block := [], ready := (n.ready ++ [sha384 (packBits n.block.reverse)]).take 2, blockDue := false }
      match n.ready, n.instantiated with
      | [entropy, nonce], false =>
        { a with noise := { n with ready := [], instantiated := true, requests := 0,
                                   drbg := Drbg.instantiate entropy (nonce.take 16) (toLe 2 s.blk.self.toNat) } }
      | _, _ => { a with noise := n }

/-- The DRBG takes a conditioned block once its requests come near the reseed interval, or after a return to OK (R412). -/
def execDrbgReseed (s : State) : Host.Outcome State Fault Refusal :=
  s.always fun a =>
    let n := a.noise
    if !n.instantiated || n.ready = [] || !(n.reseedDue || 2 ^ 20 - 2 ^ 10 ≤ n.requests) then a
    else { a with noise := n.reseed }

/-- The oldest waiting FRESH request is served: 16 B (R413). -/
def execDrbgGenerate (s : State) : Host.Outcome State Fault Refusal :=
  s.both fun (a, b) =>
    let n := a.noise
    match n.waiting with
    | [] => (a, b)
    | w :: rest =>
      if n.st != .ok || !n.instantiated || n.reseedDue || n.blockDue then (a, b)
      else
        let c := match w with
          | some (p, _) => some p.ctx
          | none => b.ctxOp.map (·.ctx)
        let (key, a) := a.drawBytes 16
        match c with
        | none => ({ a with noise := { a.noise with waiting := rest } }, b)
        | some c => ({ a with noise := { a.noise with waiting := rest, served := a.noise.served ++ [(c, key)] } }, b)

/-- ND_NOISE_CTL.restart := 1 (R409, R411). -/
def Aon.restartNoise (a : Aon) : Aon :=
  if a.noise.st == .failed then
    { a with noise := { a.noise.restartTests with st := .startup, retries := 0, restarting := true } }
  else a

end Sys2Proof.Machine
end

