-- ==== Sys2Proof/Machine/RegRead.lean ====
section
/-! DEFINITION. RegRead: what a read of a register returns (22 R542 to R556): stored fields, fields that show a
unit's state, counters with their latch, and the context counter snapshot. -/

namespace Sys2Proof.Machine
open Sys2Proof

/-! ### Requesters (20 R493, R494) -/

def reqPath : Requester → Path
  | .host => .host
  | .mgmt _ => .mgmt

/-- The role an access carries. -/
def Aon.roleOf (a : Aon) (r : Requester) : Role :=
  match r with
  | .host => .operator
  | .mgmt none => .operator
  | .mgmt (some k) =>
    match a.vault.sessions.rd k with
    | some x => if x.finished then x.role else .operator
    | none => .operator

/-! ### Which register an access means (R543) -/

/-- Edges of R414. -/
def isEdge (n : Nat) : Bool := n < 12 || (16 ≤ n && n < 24) || (32 ≤ n && n < 62)

/-- The index of the register that an access reaches; none where the selector names nothing. -/
def Blk.ixOf (a : Aon) (b : Blk) (p : Path) (d : RegDef) (k : Nat) : Option Nat :=
  match d.ix with
  | .one => some 0
  | .part => some k
  | .four _ => some k
  | .path => some p.ix
  | .epoch => some (tkey (fld (b.reg 0x300 p.ix) 7 0) (fld (b.reg 0x300 p.ix) 9 8))
  | .hand => some (b.handIx p)
  | .region => some (fld (b.reg 0x200 p.ix) 6 0)
  | .far => some (fld (b.reg 0x368 p.ix) 8 0)
  | .fold => some (fld (b.reg 0x400 p.ix) 3 0)
  | .link => let n := fld (b.reg 0x500 p.ix) 3 0; if n < 11 then some n else none
  | .edge => let n := fld (b.reg 0x540 p.ix) 5 0; if isEdge n then some n else none
  | .throttle => some (fld (a.reg 0x624 p.ix) 2 0)
  | .wear => let n := fld (b.reg 0x700 p.ix) 5 0; if n < 40 then some n else none
  | .queue => some 0

/-! ### Fields that show a unit's state -/

def BankSt.code : BankSt → Nat
  | .free => 0
  | .filling => 1
  | .checking => 2
  | .active => 3
  | .draining => 4

def LinkSt.code : LinkSt → Nat
  | .down => 0
  | .detect => 1
  | .train => 2
  | .map => 3
  | .align => 4
  | .secure => 5
  | .up => 6
  | .recover => 7

def NoiseSt.code : NoiseSt → Nat
  | .startup => 0
  | .ok => 1
  | .retry => 2
  | .failed => 3

def Sleep.code : Sleep → Nat
  | .s0 => 0
  | .s1 => 1
  | .s2 => 2
  | .s3 => 3

def Life'.code : Life' → Nat
  | .blank => 0
  | .provisioned => 1
  | .owned => 2
  | .rma => 3

def Boot.code : Boot → Nat
  | .receive => 0
  | .running => 1
  | .restart => 2

/-- A word of its fields. -/
def wordOf (l : List (Nat × Nat × Nat)) : Word := BitVec.ofNat 32 (sumL (l.map fun f => put f.1 f.2.1 f.2.2))

/-- Energy units of 2^-10 µJ of an offset in mW over AONCLK periods (18 R473). -/
def offsetUnits (mw periods : Nat) : Nat := mw * periods * 40 * 1024 / 1000000

/-- Calibrated energy of the window that runs, from the block's reset on. -/
def Aon.windowEnergy (a : Aon) : Nat :=
  energyUnits a.gov.modelled a.gov.gain + offsetUnits a.gov.offset (a.count - a.gov.calAt).toNat

/-- ND_HEALTH.state. -/
def Health.state (h : Health) : Nat :=
  if h.chipFailed then 2
  else if h.units.any (fun u => u.2.retired != 0) || h.inStages.failed || h.outStages.failed then 1 else 0

/-- Lowest registers: identity, time, reset, regime and health. -/
def Blk.idValue (a : Aon) (b : Blk) (off : Nat) : Option Word :=
  match off with
  | 0x0000 => some (wordOf [(31, 28, a.vault.fuses.major.toNat), (27, 24, a.vault.fuses.minor.toNat),
      (23, 16, a.vault.fuses.variant.toNat), (6, 0, b.health.lanesActive)])
  | 0x0008 => some (BitVec.ofNat 32 b.cycle.toNat)
  | 0x000C => some (BitVec.ofNat 32 (b.cycle.toNat / 2 ^ 32))
  | 0x0014 => some 0
  | 0x0018 => some (wordOf [(28, 28, b01 a.vaultFail), (27, 16, b.health.repairs), (3, 0, b.start.stage.toNat)])
  | 0x001C => some (wordOf [(1, 1, b01 b.start.regimeNext.isSome), (0, 0, b01 b.start.regime)])
  | 0x0020 => some (wordOf [(15, 8, b.health.cause.toNat), (5, 5, b01 b.health.boostOff), (4, 4, b01 b.health.repairFull),
      (1, 0, b.health.state)])
  | _ => none

/-- Every dispatch of a partition's layers is closed (15 R392). -/
def Blk.partDrained (b : Blk) (n : PartId) : Bool :=
  b.stepGate n && !b.disps.any fun d => d.isOpen && b.ownsLayer n d.layer.toNat

/-- Moons of the view that the next dispatch of a (partition, layer) would have (04 R123). -/
def Blk.nextMoons (b : Blk) (key : Nat) : Nat :=
  let x := b.ephs.get key Eph.reset
  if polPolicy (b.reg 0x344 key) = 2 then x.viewNow.length else 0

def stagesWord (x : Stages) : Word :=
  wordOf [(23, 22, 2 - Nat.min 2 (popCount 19 x.retired.toNat)), (21, 21, b01 x.failed), (18, 0, x.retired.toNat)]

/-- Registers of the control and data planes. -/
def Blk.dataValue (b : Blk) (p : Path) (off i : Nat) : Option Word :=
  match off with
  | 0x0118 => some (setFld (b.reg off i) 14 14 (b01 (b.partDrained (BitVec.ofNat 3 i))))
  | 0x0210 => some (setFld (b.reg off i) 31 31 (b01 b.ctxBusy))
  | 0x021C => some ((b.que ⟨BitVec.ofNat 18 (fld (b.reg 0x218 p.ix) 19 2), BitVec.ofNat 2 (fld (b.reg 0x218 p.ix) 1 0)⟩).head)
  | 0x0220 =>
    let u := b.que ⟨BitVec.ofNat 18 (fld (b.reg 0x218 p.ix) 19 2), BitVec.ofNat 2 (fld (b.reg 0x218 p.ix) 1 0)⟩
    some (wordOf [(31, 24, u.tag.toNat), (12, 8, u.size.toNat), (1, 0, u.state)])
  | 0x0304 =>
    let t := b.refresh.tables.get i Table.reset
    some (wordOf [(31, 16, t.epoch.toNat), (8, 8, b01 (b.refresh.holder.find (i / 4)).isSome), (7, 7, b01 t.active),
      (6, 4, t.bank1.st.code), (2, 0, t.bank0.st.code)])
  | 0x0310 => some (wordOf [(19, 0, (b.refresh.tables.get i Table.reset).bank0.refs.toNat)])
  | 0x0314 => some (wordOf [(19, 0, (b.refresh.tables.get i Table.reset).bank1.refs.toNat)])
  | 0x0320 =>
    let t := b.refresh.tables.get i Table.reset
    some (wordOf [(15, 0, if t.epoch = 0 then 0 else t.live.stamp.toNat)])
  | 0x0348 =>
    let x := b.ephs.get i Eph.reset
    some (wordOf [(31, 16, x.seq.toNat), (15, 4, b.nextMoons i), (3, 2, x.steps.toNat), (1, 1, b01 x.frozen), (0, 0, b01 x.warm)])
  | 0x0350 => some (wordOf [(10, 9, fld (b.reg 0x350 p.ix) 10 9), (8, 8, b01 b.ephOp.isSome)])
  | 0x0360 => some (stagesWord b.health.outStages)
  | 0x0364 => some (stagesWord b.health.inStages)
  | 0x0410 =>
    let mine := (seatNums.map b.seat).filter fun s => s.entry = some (BitVec.ofNat 4 i) && !s.retired
    let ids := (mine.filter Seat.live).map (·.id)
    some (wordOf [(31, 12, (b.fgroup (BitVec.ofNat 4 i)).nextSeq.toNat), (11, 8, (mine.filter fun s => s.st = .free).length),
      (7, 6, (ids.foldl (fun l x => if l.contains x then l else l ++ [x]) ([] : List Word)).length)])
  | 0x0414 => some (wordOf [(31, 12, (b.fgroup (BitVec.ofNat 4 i)).cometSeq.toNat),
      (11, 10, (b.comets.live.filter fun x => x.entry = BitVec.ofNat 4 i).length)])
  | 0x1000 => some (b.reg off i)
  | _ => none

/-- Link and edge registers (17 R449, R450; 22 R551). -/
def Blk.linkValue (b : Blk) (off i : Nat) : Option Word :=
  let l := b.link (BitVec.ofNat 4 i)
  match off with
  | 0x0504 => some (wordOf [(0, 0, b01 l.enable)])
  | 0x0508 => some (wordOf [(23, 20, popCount 10 l.tx.active.toNat), (19, 16, popCount 10 l.rx.active.toNat),
      (15, 12, l.reason.toNat), (2, 0, l.st.code)])
  | 0x050C => some (wordOf [(29, 20, l.rx.retired.toNat), (19, 10, l.rx.spare.toNat), (9, 0, l.rx.active.toNat)])
  | 0x0510 => some l.corrected
  | 0x0514 => some l.uncorrectable
  | 0x0518 => some l.crcFails
  | 0x051C => some l.replays
  | 0x0520 => some l.tagFails
  | 0x0524 => some l.recovers
  | 0x0544 =>
    let e := b.edge i
    some (wordOf [(31, 16, e.lost.toNat), (15, 8, e.rewinds.toNat), (1, 1, b01 e.faultLost), (0, 0, b01 e.underrun)])
  | _ => none

/-- Governor registers (18). -/
def Blk.govValue (a : Aon) (b : Blk) (off i : Nat) : Option Word :=
  let g := a.gov
  match off with
  | 0x0600 => some (wordOf [(16, 16, b01 g.orderErr), (13, 8, g.warnSeen.toNat), (5, 0, g.warnNow.toNat)])
  | 0x0604 => some (setFld (setFld (a.reg off) 5 4 g.sleepResult.toNat) 3 2 g.sleep.code)
  | 0x061C => some (wordOf [(31, 24, g.throttle.toNat), (23, 23, b01 g.fixedBroken), (22, 20, (shadedDies a b).toNat),
      (19, 17, (g.dieOp.rd 2).toNat), (16, 14, (g.dieOp.rd 1).toNat), (13, 11, (g.dieOp.rd 0).toNat), (10, 8, g.op.toNat)])
  | 0x0620 => some (wordOf [(17, 12, g.bubbles.links), (11, 6, g.bubbles.memory), (5, 0, g.bubbles.compute)])
  | 0x0628 => some (g.times.rd (BitVec.ofNat 3 i))
  | 0x062C => some (wordOf [(31, 16, g.gain), (15, 0, g.offset)])
  | _ => none

/-- Open secured sessions. -/
def Vault.sessionCount (v : Vault) : Nat :=
  (([0, 1] : List (BitVec 1)).filter fun k => match v.sessions.rd k with
    | some x => x.finished
    | none => false).length

/-- Wear, noise, role and vault registers (16, 19, 20). -/
def Blk.trustValue (a : Aon) (b : Blk) (p : Path) (role : Role) (off i : Nat) : Option Word :=
  let v := a.vault
  match off with
  | 0x0704 =>
    let w := b.wear i
    some (wordOf [(31, 20, spareTotal i), (19, 8, w.used), (7, 2, w.retired),
      (1, 0, if b.health.chipFailed && b.health.cause.toNat = i then 2 else if w.retired != 0 then 1 else 0)])
  | 0x0708 => some (b.wear i).rate
  | 0x0740 => some (wordOf [(23, 16, a.noise.rctFails.toNat), (15, 8, a.noise.aptFails.toNat),
      (5, 4, a.noise.retries.toNat), (1, 0, a.noise.st.code)])
  | 0x0744 => some (wordOf [(0, 0, b01 a.noise.restarting)])
  | 0x0800 => some (wordOf [(5, 4, v.sessionCount), (2, 2, p.ix), (1, 0, role.code)])
  | 0x0808 => some (wordOf [(31, 30, v.fuses.lifecycle.code), (29, 28, v.boot.code),
      (27, 20, (v.firm.map (·.svn.toNat)).getD 0), (19, 12, v.fuses.svn.toNat), (11, 11, b01 v.fleet.isSome),
      (10, 5, maskOf ((List.range 6).filter fun x => (v.linkKeys.rd (BitVec.ofNat 3 x)).isSome)),
      (4, 2, v.fuses.owners.length), (1, 1, b01 v.unsignedSeen), (0, 0, b01 v.config.isSome)])
  | 0x080C => some (setFld (b.reg off p.ix) 31 31 (b01 a.vaultOp.isSome))
  | _ => none

/-- The block's registers are unpowered or in bring-up: reads return reset values (21 R530). -/
def Blk.dark (a : Aon) (b : Blk) : Bool := b.start.stage.toNat < 6 || a.gov.sleep == .s3

/-- The value of a register's fields now. -/
def Blk.value (a : Aon) (b : Blk) (p : Path) (role : Role) (d : RegDef) (i : Nat) : Word :=
  let stored := if d.aon then a.reg d.off i else b.reg d.off i
  let live := ((b.idValue a d.off).or ((b.dataValue p d.off i).or (b.linkValue d.off i))).or
    ((b.govValue a d.off i).or (b.trustValue a p role d.off i))
  live.getD stored

/-! ### Reads -/

/-- The context counter snapshot area and the instance counters, by offset (R549, R550). -/
def Blk.counterWord (a : Aon) (b : Blk) (p : Path) (off : Nat) : Option Word :=
  let half := fun (v : Quad) => BitVec.ofNat 32 (v.toNat / (if off % 8 = 4 then 2 ^ 32 else 1))
  if 0x1100 ≤ off && off < 0x1300 then some (b.snaps.get (p.ix * 0x1000 + (off - 0x1100) / 4) 0)
  else if 0x2000 ≤ off && off < 0x22C8 then
    let n := off / 8 * 8
    let v := b.counters.get n 0
    some (half (if n = 0x2050 then v + BitVec.ofNat 64 (a.windowEnergy - a.gov.energyBase) else v))
  else none

/-- The tail that the doorbell window shows (R542). -/
def Blk.tailAt (b : Blk) (off : Nat) : Word :=
  let k := (off - 0x400000) / 4
  (b.que ⟨BitVec.ofNat 18 (k / 4), BitVec.ofNat 2 k⟩).tail

/-- A block register while reads of its domain return reset values (R530): the fuses', the straps', and in
ND_BOOT_STATE the one AON field. -/
def Blk.darkValue (a : Aon) (b : Blk) (off : Nat) (d : RegDef) : Word :=
  match off with
  | 0x0000 => (b.idValue a off).getD 0
  | 0x0004 => wordOf [(2, 0, a.vault.fuses.straps.toNat)]
  | 0x0018 => wordOf [(28, 28, b01 a.vaultFail)]
  | _ => d.reset

/-- The word that a read of an offset finds before any latch. -/
def Blk.wordAt (a : Aon) (b : Blk) (r : Requester) (off : Nat) : Word :=
  let p := reqPath r
  if 0x400000 ≤ off then (if b.dark a then 0 else b.tailAt off)
  else match regAt off with
    | some (d, k) =>
      if b.dark a && !d.aon then b.darkValue a off d
      else match b.ixOf a p d k with
        | some i => b.value a p (a.roleOf r) d i
        | none => 0
    | none => if b.dark a then 0 else (b.counterWord a p off).getD 0

/-- The high word that a read of the low word of a 64-bit counter latches (R545). -/
def Blk.highOf (a : Aon) (b : Blk) (r : Requester) (off : Nat) : Option (Nat × Word) :=
  if off = 8 || (off % 8 = 0 && (0x1100 ≤ off && off < 0x1300 || 0x2000 ≤ off && off < 0x22C8)) then
    some (off + 4, b.wordAt a r (off + 4))
  else none

/-- A read of an offset: its value, and the latch it leaves. -/
def readAt (r : Requester) (off : Nat) (s : Pair') : Word × Pair' :=
  let (a, b) := s
  let p := reqPath r
  let v := match b.latch.find p.ix with
    | some (o, w) => if o = off then w else b.wordAt a r off
    | none => b.wordAt a r off
  (v, (a, { b with latch := match b.highOf a r off with
      | some h => b.latch.put p.ix h
      | none => b.latch.drop p.ix }))

end Sys2Proof.Machine
end

