-- ==== Sys2Proof/Machine/Power.lean ====
section
/-! DEFINITION. Power: the governor (18 R451 to R475): throttle reasons, operating points, supply and alert rules,
sleep states, sharing and bubbles, pacing, calibration, and telemetry samples (22 R555). -/

namespace Sys2Proof.Machine
open Sys2Proof

def Aon.modGov (a : Aon) (f : Gov → Gov) : Aon := { a with gov := f a.gov }

/-- `n` divided by `d`, rounded down, for signed numerators. -/
def floorDiv (n : Int) (d : Nat) : Int := Int.fdiv n (d : Int)

/-! ### Throttle reasons (R474) -/

/-- A reason begins or ends. -/
def setThrottle (c : Nat) (on : Bool) (x : Pair') : Pair' :=
  let (a, b) := x
  if bit a.gov.throttle.toNat c = on then (a, b)
  else (a.modGov fun g => { g with throttle := g.throttle ^^^ BitVec.ofNat 8 (2 ^ c) }, b.event 0x8B c (b01 on))

/-- The active reasons each count a control period. -/
def Gov.countThrottle (g : Gov) : Gov :=
  let f := fun (t : Bank 3 Word) (c : Nat) => t.wr (BitVec.ofNat 3 c) (t.rd (BitVec.ofNat 3 c) + 1)
  { g with times := (bitsOf 8 g.throttle.toNat).foldl f g.times }

/-! ### Operating points (R453, R454, R456, R457) -/

/-- VDD_CORE's set point of an OP, in mV. -/
def opMillivolts (op : Nat) : Word :=
  BitVec.ofNat 32 (if op = 0 then 850 else if op = 1 then 875 else if op = 2 then 900 else if op = 3 then 925 else 1000)

/-- The governor's units: 0 is the dispatcher, 1 to 3 are dies 0 to 2. -/
def govUnits : List Nat := [0, 1, 2, 3]

def Gov.opOf (g : Gov) (u : Nat) : Nat := if u = 0 then g.op.toNat else (g.dieOp.rd (BitVec.ofNat 2 (u - 1))).toNat

def Gov.setDieOp (g : Gov) (u op : Nat) : Gov := { g with dieOp := g.dieOp.wr (BitVec.ofNat 2 (u - 1)) (BitVec.ofNat 3 op) }

/-- The OP a unit heads for: the target, OP3 for the dispatcher in fixed-frequency mode, and one step below the
target for a hot unit outside that mode (R457, R471). -/
def goalOp (a : Aon) (b : Blk) (u : Nat) : Nat :=
  let t := targetOp a b
  if b.fixedMode then (if u = 0 && 6 ≤ b.start.stage.toNat then 3 else t)
  else if bit a.gov.hotNow.toNat u then t - 1 else t

/-- A unit moves to an OP: upward the dispatcher waits for its PLL, downward it switches at once (R454). -/
def moveOp (u op : Nat) (x : Pair') : Pair' :=
  let (a, b) := x
  if u != 0 then (a.modGov fun g => g.setDieOp u op, b)
  else if a.gov.op.toNat < op then
    (a.modGov fun g => { g with opNext := some (BitVec.ofNat 3 op), opSince := a.count }, b.send (.vout (opMillivolts op)))
  else (a.modGov fun g => { g with op := BitVec.ofNat 3 op, opNext := none }, b.send (.vout (opMillivolts op)))

/-- Send each die its GOV message (R467). -/
def Blk.sendGov (b : Blk) (a : Aon) (force : Bool) : Blk :=
  dies.foldl (fun b d =>
    let w0 := put 2 0 (a.gov.dieOp.rd d).toNat + put 3 3 (b01 b.fixedMode) + put 9 4 a.gov.bubbles.memory
    b.toDie none { cls := 5, op := 1, die := d, layer := 0, tag := 0, stamp := 0, addr := 0,
                   body := toLe 4 w0 ++ toLe 4 a.gov.period.toNat ++ toLe 4 (b01 force) ++ toLe 4 0 }) b

/-- The dispatcher and every die go to OP0 at once; in fixed-frequency mode that breaks it (R454, R457, R469). -/
def forceOp0 (x : Pair') : Pair' :=
  let (a, b) := x
  let moved := govUnits.any fun u => a.gov.opOf u != 0
  let a := a.modGov fun g =>
    { g with op := 0, opNext := none, dieOp := Bank.all 2 0, fixedBroken := g.fixedBroken || (moved && b.fixedMode) }
  (a, (b.sendGov a true).send (.vout (opMillivolts 0)))

/-! ### Supply warnings and alerts (R451, R469, R470) -/

def fullBubbles : Dom := ⟨56, 56, 56⟩

/-- Whether an alert is held: by its input, or by a critical temperature (R470, R471). -/
def Gov.alerted (g : Gov) : Bool := g.alerts != 0 || g.critNow != 0

/-- Whether the supply rule or an alert, or what follows one, holds OPs. -/
def Gov.held (g : Gov) : Bool := g.alerted || g.hold != .none || g.release != .none

/-- An alert begins to be held. -/
def alertOn (x : Pair') : Pair' :=
  setThrottle 5 true (forceOp0 (x.1.modGov fun g => { g with bubbles := fullBubbles, release := .none }, x.2))

/-- The last alert is gone: OP0 holds 50 µs more. -/
def Gov.alertGone (g : Gov) (now : Quad) : Gov :=
  if g.alerted then g else { g with release := .hold 0 now (some now) }

/-- Set or clear alert inputs or critical sensors, and what follows. -/
def alertChange (f : Gov → Gov) (x : Pair') : Pair' :=
  let (a, b) := x
  let was := a.gov.alerted
  let a := a.modGov f
  if a.gov.alerted && !was then alertOn (a, b)
  else if was && !a.gov.alerted then (a.modGov fun g => g.alertGone a.count, b)
  else (a, b)

/-- The supply warning rule starts, or starts anew (R469). -/
def supplyWarn (rail : Nat) (x : Pair') : Pair' :=
  let (a, b) := forceOp0 x
  let h := match a.gov.hold with
    | .hold r f _ => Hold.hold r f none
    | _ => .hold rail a.count none
  setThrottle 4 true (a.modGov fun g => { g with hold := h }, b)

/-- The rule's 50 µs run while VDD_CORE and VDD_SRAM are both 20 mV above warning, and start anew after a break. -/
def Gov.railsGood (g : Gov) (now : Quad) : Gov :=
  let low := bit g.nearNow.toNat 1 || bit g.nearNow.toNat 2
  match g.hold with
  | .hold r f t => { g with hold := .hold r f (if low then none else t.or (some now)) }
  | _ => g

/-- A rail crosses a level: its warning level, or 20 mV above it (R451, R469). -/
def execRailWarning (rail : BitVec 3) (level : RailLevel) (s : State) : Host.Outcome State Fault Refusal :=
  s.both fun (a, b) =>
    let i := rail.toNat
    if 6 ≤ i then (a, b)
    else
      let m := BitVec.ofNat 6 (2 ^ i)
      if level = .below then
        let a := a.modGov fun g => { g with warnNow := g.warnNow ||| m, warnSeen := g.warnSeen ||| m, nearNow := g.nearNow ||| m }
        if i = 1 || i = 2 then supplyWarn i (a, b) else (a, b.event 0x8A i)
      else (a.modGov fun g =>
        ({ g with warnNow := g.warnNow &&& ~~~m,
                  nearNow := if level = .near then g.nearNow ||| m else g.nearNow &&& ~~~m } : Gov).railsGood a.count, b)

/-- A hold of 50 µs (1,250 AONCLK periods) is over. -/
def Hold.over (h : Hold) (now : Quad) : Bool :=
  match h with
  | .hold _ _ (some t) => t.toNat + 1250 ≤ now.toNat
  | _ => false

def Hold.ramps (h : Hold) (now : Quad) : Hold :=
  match h with
  | .hold r _ _ => .ramp r now
  | h => h

/-- The hold ends: SUPPLY_WARN for the supply rule, and the steps up begin (R469, R470). -/
def execSupplyHoldEnd (s : State) : Host.Outcome State Fault Refusal :=
  s.both fun (a, b) =>
    let g := a.gov
    let b := match g.hold with
      | .hold r f _ => if g.hold.over a.count then b.event 0x8A r (a.count - f).toNat else b
      | _ => b
    (a.modGov fun g =>
      { g with hold := if g.hold.over a.count then g.hold.ramps a.count else g.hold,
               release := if g.release.over a.count then g.release.ramps a.count else g.release }, b)

/-- A ramp whose next step is due, or no ramp. -/
def Hold.dueOrNone (h : Hold) (now : Quad) : Bool :=
  match h with
  | .none => true
  | .ramp _ t => t.toNat + 1250 ≤ now.toNat
  | .hold _ _ _ => false

/-- The ramp is over once every unit has reached its goal (R469). -/
def rampEnd (x : Pair') : Pair' :=
  let (a, b) := x
  let g := a.gov
  let isRamp := fun (h : Hold) => match h with
    | .hold _ _ _ => false
    | _ => true
  let there := g.opNext.isNone && govUnits.all fun u => goalOp a b u ≤ g.opOf u
  if g.held && !g.alerted && isRamp g.hold && isRamp g.release && there then
    let y := setThrottle 4 false (a.modGov fun g => { g with hold := .none, release := .none }, b)
    setThrottle 5 false y
  else (a, b)

/-- An OP that moves under the supply rule or after an alert breaks fixed-frequency mode (R457). -/
def Gov.breaks (g : Gov) (moved : Bool) (b : Blk) : Gov := { g with fixedBroken := g.fixedBroken || (moved && b.fixedMode) }

/-- One OP up, 50 µs after the last, with no power condition. -/
def execSupplyStepUp (s : State) : Host.Outcome State Fault Refusal :=
  s.both fun (a, b) =>
    let g := a.gov
    if !g.held || g.alerted || !g.hold.dueOrNone a.count || !g.release.dueOrNone a.count then (a, b)
    else
      let turn := fun (h : Hold) => match h with
        | .ramp r _ => Hold.ramp r a.count
        | h => h
      let a := a.modGov fun g => { g with hold := turn g.hold, release := turn g.release }
      let up := govUnits.filter fun u => g.opOf u < goalOp a b u && !(u = 0 && g.opNext.isSome)
      rampEnd (up.foldl (fun y u => moveOp u (g.opOf u + 1) y) (a.modGov fun g => g.breaks (up.any (· != 0)) b, b))

/-- The idle PLL has locked, and 20 µs have passed since VOUT_COMMAND: ECLK switches (R454). -/
def execOpStepDone (s : State) : Host.Outcome State Fault Refusal :=
  s.both fun (a, b) =>
    match a.gov.opNext with
    | some op =>
      if a.count.toNat < a.gov.opSince.toNat + 500 then (a, b)
      else rampEnd (a.modGov fun g => { g.breaks g.held b with op := op, opNext := none }, b)
    | none => (a, b)

def execRalertAssert (group : BitVec 2) (s : State) : Host.Outcome State Fault Refusal :=
  s.both (alertChange fun g => { g with alerts := g.alerts ||| BitVec.ofNat 4 (2 ^ group.toNat) })

def execRalertDeassert (group : BitVec 2) (s : State) : Host.Outcome State Fault Refusal :=
  s.both (alertChange fun g => { g with alerts := g.alerts &&& ~~~BitVec.ofNat 4 (2 ^ group.toNat) })

/-! ### Droop (R468) -/

def execDroopDetect (s : State) : Host.Outcome State Fault Refusal :=
  s.both fun (a, b) =>
    let b := b.addInst Cnt.pwrStretch 1
    let b : Blk := { b with stretchAt := some b.cycle.toNat, flights := b.flights.map fun f => if f.suspended.isNone then { f with stretch := f.stretch + 1 } else f }
    let b := (b.shorts.filter fun x => b.cycle.toNat < x.2).foldl (fun b x => (b.addCtx x.1 Cnt.actual 1).addCtx x.1 Cnt.stretch 1) b
    (a.modGov fun g => { g with droopNow := true }, b.sends (dies.map Out.stretch))

def execKDroop (die : BitVec 2) (s : State) : Host.Outcome State Fault Refusal :=
  s.block fun _ b => if die.toNat < 3 then b.addInst (Cnt.dieDroop die.toNat) 1 else b

/-! ### Sleep states (R458 to R460) -/

/-- S1's conditions but for the state (R459): nothing can let an instruction issue, of a running context either. -/
def s1Quiet (a : Aon) (b : Blk) : Bool :=
  bit (a.reg 0x618).toNat 0 && b.working && b.flights.isEmpty && b.bells.isEmpty
    && (b.ctxIds.all fun c => !b.eligible c) && parts.all fun n => !b.slotCan n

/-- S1's conditions (R459). -/
def s1Ready (a : Aon) (b : Blk) : Bool := a.gov.sleep == .s0 && s1Quiet a b

def execS1Entry (s : State) : Host.Outcome State Fault Refusal :=
  s.both fun (a, b) =>
    if s1Ready a b && fld (a.reg 0x604) 15 8 * 64 ≤ a.gov.idle then (a.modGov fun g => { g with sleep := .s1, s1Event := none }, b) else (a, b)

/-- S1 ends 40 cycles after the event that lets an instruction issue (R459). -/
def execS1Wake (s : State) : Host.Outcome State Fault Refusal :=
  s.both fun (a, b) =>
    if a.gov.sleep == .s1 && a.gov.s1Event.any (fun t => t + 40 ≤ b.cycle.toNat)
    then (a.modGov fun g => { g with sleep := .s0, idle := 0, s1Event := none }, b) else (a, b)

/-- What S2 and S3 wait for (R460). -/
def Blk.mayRest (b : Blk) : Bool :=
  b.flights.isEmpty && !b.disps.any (·.isOpen) && seatNums.all (fun n => (b.seat n).st == .free) && b.comets.live.isEmpty
    && b.refresh.tables.all fun t => t.2.bank0.st != .checking && t.2.bank1.st != .checking

/-- Enter S2 or S3: every port goes DOWN, and for S2 VDD_CORE goes to OP0's set point. -/
def enterSleep (aim : Sleep) (x : Pair') : Pair' :=
  let (a, b) := x
  (a.modGov fun g => { g with sleep := aim, op := 0, opNext := none, wakeFrom := none, idle := 0 },
    if aim == .s2 then b.portsOff.send (.vout (opMillivolts 0)) else b.portsOff)

/-- A wake from S2 or S3 starts. -/
def startWake (a : Aon) : Aon :=
  if (a.gov.sleep == .s2 || a.gov.sleep == .s3) && a.gov.wakeFrom.isNone then
    a.modGov fun g => { g with wakeFrom := some a.count.toNat }
  else a

/-- A request of ND_PWR_SLEEP (R460). In S3, of which only the AON state is left, a request for S2 or S3 leaves S3 (log 70). -/
def sleepRequest (req : Nat) (x : Pair') : Pair' :=
  let (a, b) := x
  let result := fun (r : Nat) (a : Aon) => a.modGov fun g => { g with sleepResult := BitVec.ofNat 2 r }
  if req = 0 then (result 0 (startWake a), b)
  else if a.gov.sleep == .s3 then (result 0 a, b)
  else if !b.mayRest then (result 1 a, b)
  else enterSleep (if req = 2 then .s2 else .s3) (result 0 a, b)

/-! ### Temperatures (R471) -/

/-- A sensor against a threshold with 5 °C of hysteresis. -/
def hotter (was : Bool) (t limit : Int) : Bool := if was then limit - 5 < t else limit ≤ t

/-- A temperature is compared: hot, critical, and the trip at 115 °C. -/
def thermal (sensor : Nat) (t : Byte) (x : Pair') : Pair' :=
  let (a, b) := x
  let v := t.toInt
  let m := BitVec.ofNat 4 (2 ^ sensor)
  let r := a.reg 0x614
  let hot := hotter (bit a.gov.hotNow.toNat sensor) v (fld r 7 0)
  let crit := hotter (bit a.gov.critNow.toNat sensor) v (fld r 15 8)
  let a := a.modGov fun g =>
    { g with temps := g.temps.wr (BitVec.ofNat 2 sensor) t, hotNow := if hot then g.hotNow ||| m else g.hotNow &&& ~~~m }
  let y := setThrottle 3 (a.gov.hotNow != 0) (a, b)
  let y := alertChange (fun g => { g with critNow := if crit then g.critNow ||| m else g.critNow &&& ~~~m }) y
  if v < 115 then y
  else
    let z := enterSleep .s3 y
    (z.1.modGov fun g => { g with trip := true }, if y.1.gov.trip then z.2 else z.2.send .thermTrip)

def execThermalCrossing (sensor : BitVec 2) (celsius : BitVec 8) (s : State) : Host.Outcome State Fault Refusal :=
  s.both (thermal sensor.toNat celsius)

/-- A die's GOV report (R467). -/
def execGov (die : BitVec 2) (w0 _w1 w2 : Word) (s : State) : Host.Outcome State Fault Refusal :=
  s.both fun (a, b) =>
    if die = 3 || (b.link (Port.k die).ix).st != .up then (a, b)
    else
      let rep : DieRep := { power := fld w0 15 0, temp := BitVec.ofNat 8 (fld w0 23 16), op := BitVec.ofNat 3 (fld w0 26 24),
                            droop := BitVec.ofNat 16 (fld w2 15 0) }
      thermal (1 + die.toNat) rep.temp (a.modGov fun g => { g with dies := g.dies.wr die rep }, b)

/-! ### Sharing and bubbles (R463 to R465) -/

def Dom.sum (d : Dom) : Nat := d.compute + d.memory + d.links

def Dom.map (f : Nat → Nat) (d : Dom) : Dom := ⟨f d.compute, f d.memory, f d.links⟩

def Dom.map2 (f : Nat → Nat → Nat) (d e : Dom) : Dom := ⟨f d.compute e.compute, f d.memory e.memory, f d.links e.links⟩

/-- The floors, in 0.25 W. -/
def Aon.floors (a : Aon) : Dom :=
  let r := a.reg 0x610
  ⟨4 * fld r 9 0, 4 * fld r 19 10, 4 * fld r 29 20⟩

/-- A domain's need (R464). -/
def needOf (p : Nat) : Nat := ceilDiv (p * 17) 16

/-- The instance's phase for sharing. -/
def Blk.sharePhase (b : Blk) : Nat :=
  let has := fun (h : Nat) => parts.any fun n => b.partValid n && fld (b.reg 0x11C n.toNat) 25 24 = h
  if has 1 then 1 else if has 2 then 2 else if has 0 then 0 else 3

/-- The cooling cap, where one is set (R463). -/
def Aon.coolCap (a : Aon) : Option Nat :=
  let cool := fld (a.reg 0x60C) 31 16
  if cool = 0 then none else some (Nat.max a.floors.sum (160 * cool - sumL a.gov.blocks))

/-- The effective share and the limit that sets it: CAP, PACKAGE or COOLING. -/
def Aon.effective (a : Aon) : Nat × Nat :=
  let cap := 4 * fld (a.reg 0x60C) 15 0
  let r := if a.gov.share < cap then (a.gov.share, 1) else (cap, 0)
  match a.coolCap with
  | some c => if c < r.1 then (c, 2) else r
  | none => r

/-- Take up to what is left: the share given, and the rest. -/
def giveUp (rest need floor : Nat) : Nat × Nat :=
  let x := Nat.min rest (need - floor)
  (floor + x, rest - x)

/-- Priority sharing: MEMORY first in GENERATE, else LINKS first. -/
def priorityShares (s : Nat) (f need : Dom) (memoryFirst : Bool) : Dom :=
  let r := s - f.sum
  if memoryFirst then
    let m := giveUp r need.memory f.memory
    let l := giveUp m.2 need.links f.links
    let c := giveUp l.2 need.compute f.compute
    ⟨c.1 + c.2, m.1, l.1⟩
  else
    let l := giveUp r need.links f.links
    let m := giveUp l.2 need.memory f.memory
    let c := giveUp m.2 need.compute f.compute
    ⟨c.1 + c.2, m.1, l.1⟩

/-- Learned sharing: in proportion to the estimates above the floors. -/
def learnedShares (s : Nat) (f est : Dom) : Dom :=
  let r := s - f.sum
  let d := est.map2 (· - ·) f
  let x : Dom := if d.sum = 0 then f.map (· + r / 3) else f.map2 (· + ·) (d.map fun v => r * v / d.sum)
  { x with compute := x.compute + (s - x.sum) }

/-- The domain shares of an effective share. -/
def domainShares (s : Nat) (f need est : Dom) (phase : Nat) (learned : Bool) : Dom :=
  if s < f.sum then f.map fun v => v * s / f.sum
  else if learned && (phase = 1 || phase = 2) then learnedShares s f est
  else priorityShares s f need (phase = 0)

/-- A phase's estimate after a period. -/
def learn (est p : Nat) : Nat := ((est : Int) + floorDiv ((p : Int) - est) 16).toNat

/-- A bubble count after a period (R465). -/
def bubblesNext (n p s : Nat) : Nat :=
  if s < p then (if s = 0 then 56 else Nat.min 56 (n + ceilDiv (64 * (p - s)) s))
  else if 16 * p ≤ 15 * s then n - 1 else n

/-! ### The control period (R464 to R467, R474) -/

/-- The die of the highest reported power above OP0, ties to the higher number. -/
def Gov.hungriest (g : Gov) : Option Nat :=
  bestBy (fun (x y : Nat) => (g.dies.rd (BitVec.ofNat 2 (y - 1))).power < (g.dies.rd (BitVec.ofNat 2 (x - 1))).power
      || ((g.dies.rd (BitVec.ofNat 2 (x - 1))).power = (g.dies.rd (BitVec.ofNat 2 (y - 1))).power && y < x))
    ([1, 2, 3].filter fun u => g.opOf u != 0)

/-- The unit furthest below its goal, ties to the lower number. -/
def furthest (a : Aon) (b : Blk) : Option Nat :=
  bestBy (fun (x y : Nat) => goalOp a b y - a.gov.opOf y < goalOp a b x - a.gov.opOf x)
    (govUnits.filter fun u => a.gov.opOf u < goalOp a b u)

/-- One unit moves one step, at most (R457, R466, R471). -/
def opStep (x : Pair') : Pair' :=
  let (a, b) := x
  let g := a.gov
  if g.held || g.sleep == .s2 || g.sleep == .s3 then (a, b)
  else match govUnits.filter fun u => goalOp a b u < g.opOf u with
    | u :: _ => moveOp u (g.opOf u - 1) (a, b)
    | [] =>
      if 16 ≤ g.bubbles.compute && !b.fixedMode then
        match g.hungriest with
        | some u => moveOp u (g.opOf u - 1) (a, b)
        | none => if g.op = 0 then (a, b) else moveOp 0 (g.op.toNat - 1) (a, b)
      else if b.fixedMode || (g.bubbles.compute = 0 && 5 ≤ g.calm) then
        match furthest a b with
        | some u => if u = 0 && g.opNext.isSome then (a, b) else moveOp u (g.opOf u + 1) (a, b)
        | none => (a, b)
      else (a, b)

/-- The dispatcher's power over a period of 10 µs by the calibrated energy model, g × M + o × t, in units of 0.25 W rounded down
(R464, R473; log 70). -/
def Gov.ownPower (g : Gov) : Nat := (g.gain * g.recent + g.offset * 100000 * 4096) / (25000000 * 4096)

/-- The measurements of a period, and what follows from them for shares and bubbles. -/
def Gov.measure (g : Gov) (a : Aon) (b : Blk) : Gov :=
  let p : Dom := { g.power with compute := g.ownPower + sumL (Machine.dies.map fun d => (g.dies.rd d).power) }
  let f := a.floors
  let ph := b.sharePhase
  let est := (g.est.get ph f).map2 learn p
  let s := a.effective
  let sh := domainShares s.1 f (p.map needOf) est ph (bit (a.reg 0x618).toNat 2)
  let n : Dom := if g.alerted then fullBubbles else
    ⟨bubblesNext g.bubbles.compute p.compute sh.compute, bubblesNext g.bubbles.memory p.memory sh.memory,
     bubblesNext g.bubbles.links p.links sh.links⟩
  { g with
    power := p, recent := 0, est := g.est.put ph est, binding := BitVec.ofNat 3 s.2, shares := sh, bubbles := n,
    calm := if 8 * p.compute ≤ 7 * sh.compute then g.calm + 1 else 0, period := g.period + 1, telCount := g.telCount + 1,
    blockSum := g.blockSum + p.sum, blockCount := g.blockCount + 1 }

/-- CAP, PACKAGE, COOLING and DROOP, for the period that ended (R474). -/
def periodReasons (x : Pair') : Pair' :=
  let (a, b) := x
  let g := a.gov
  let below := !g.held && govUnits.any fun u => g.opOf u < goalOp a b u
  let limited := g.bubbles.sum != 0 || below
  let y := [0, 1, 2].foldl (fun y c => setThrottle c (limited && g.binding.toNat = c) y) (a, b)
  setThrottle 6 (g.droopNow || dies.any fun d => (g.dies.rd d).droop != 0) y

/-- The management firmware restarts: the governor holds shares and bubbles, and sends nothing (20 R506). -/
def Aon.restarting (a : Aon) : Bool := a.vault.boot == .restart

def execControlPeriod (m : Measure) (s : State) : Host.Outcome State Fault Refusal :=
  s.both fun (a, b) =>
    if a.restarting then (a.modGov fun g => { g.countThrottle with recent := 0 }, b) else
    let y := thermal 0 m.hottest (a, b)
    let a := y.1.modGov fun g => g.measure y.1 y.2
    let y := periodReasons (opStep (a, y.2))
    let a := y.1.modGov fun g => { g.countThrottle with droopNow := false }
    (a, y.2.sendGov a false)

/-! ### READ_POUT, calibration and cooling (R455, R463, R473) -/

/-- The domain of an entry of the regulator map: 0 COMPUTE, 1 MEMORY, 2 LINKS (20 R507). An entry of 0 names no
regulator (log 62). -/
def regDomain (e : BitVec 16) : Option Nat :=
  if e = 0 || fld e.toNat 9 8 = 3 then none else some (fld e.toNat 9 8)

/-- A domain's floor in units of 0.25 W (R463). -/
def Aon.floorOf (a : Aon) (d : Nat) : Nat := 4 * fld (a.reg 0x610) (10 * d + 9) (10 * d)

/-- The places in the regulator map of the regulators of a domain. -/
def Aon.regsOf (a : Aon) (d : Nat) : List Nat :=
  (((a.vault.config.map (·.regulators)).getD []).zipIdx.filter fun x => regDomain x.1 = some d).map (·.2)

/-- The power of a domain, 0.25 W: the READ_POUT of each regulator mapped to it, in the order of the map, and the domain's
floor for each one that no bus, or more than one, acknowledged (R455, R464, 22 R541). -/
def Aon.domainPower (a : Aon) (pout : List (BitVec 16)) (d : Nat) : Nat :=
  sumL ((a.regsOf d).zipIdx.map fun x =>
    match (a.regBus[x.1]?).getD none with
    | some _ => ((pout[x.2]?).getD 0).toNat
    | none => a.floorOf d)

/-- READ_POUT of every regulator every 100 µs, one value for each regulator of a domain in the order of the map: 0.25 W are
25 µJ. The measured energy of R473 is that of the dispatcher's rails: the memory stack's regulators feed none (R451). -/
def execPoutRead (memory links core : List (BitVec 16)) (s : State) : Host.Outcome State Fault Refusal :=
  s.always fun a =>
    let c := a.domainPower core 0
    let m := a.domainPower memory 1
    let l := a.domainPower links 2
    a.modGov fun g => { g with power := { g.power with memory := m, links := l }, measured := g.measured + 25 * (c + l) }

/-- The bus that a probe finds for an entry: the one bus that acknowledges it (22 R541). -/
def busOf (ack : BitVec 4) : Option (BitVec 2) :=
  match (List.range 4).filter (bit ack.toNat) with
  | [g] => some (BitVec.ofNat 2 g)
  | _ => none

/-- Gain and offset after a window: energies in units of 2^-12 × 0.1 pJ. -/
def Gov.calibrate (g : Gov) : Gov :=
  let rm : Int := ((g.measured * 10000000 * 4096 : Nat) : Int)
  let gm : Int := ((g.gain * g.modelled : Nat) : Int)
  let o : Int := ((g.offset * 10000000 * 4096 : Nat) : Int)
  if g.modelled < 93750000000 then
    { g with offset := clampN 0 0xFFFF (g.offset + floorDiv (rm - gm - o) (8 * 10000000 * 4096)).toNat }
  else { g with gain := clampN 0x800 0x2000 (g.gain + floorDiv (rm - o - gm) (8 * g.modelled)).toNat }

/-- 1 ms has passed: the energy of the window is booked, and gain or offset follow it. -/
def execCalibration (s : State) : Host.Outcome State Fault Refusal :=
  s.both fun (a, b) =>
    let b := b.addInst 0x2050 (a.windowEnergy - a.gov.energyBase)
    (a.modGov fun g => { g.calibrate with measured := 0, modelled := 0, energyBase := 0, calAt := a.count }, b)

/-- A block of 100 ms ends. -/
def execCoolingBlock (s : State) : Host.Outcome State Fault Refusal :=
  s.always fun a => a.modGov fun g =>
    let avg := g.blockSum / g.blockCount
    let l := g.blocks ++ [avg]
    { g with blocks := if fld (a.reg 0x60C) 31 16 = 0 then [] else l.drop (l.length - 39), blockSum := 0, blockCount := 0 }

/-! ### Pacing rounds (R461, R462) -/

/-- A round number is at or behind another. -/
def notAfter (x y : Word) : Bool := (y - x).toNat < 2 ^ 31

/-- No CPACE of a ring position came in rounds r − 2, r − 1 and r. -/
def Gov.silent (g : Gov) (me j : Nat) : Bool :=
  j != me && (match g.heard.find j with
    | some l => notAfter l g.round && 3 ≤ (g.round - l).toNat
    | none => true)

def ringPositions : List Nat := List.range 8

/-- The governor is itself silent: nothing came from any peer in three rounds. -/
def Gov.isolated (g : Gov) (me : Nat) : Bool :=
  2 ≤ g.round.toNat && ringPositions.all fun j => j = me || g.silent me j

/-- The lowest ring position that is not silent. -/
def Gov.leader (g : Gov) (me : Nat) : Nat := ((ringPositions.find? fun j => !g.silent me j)).getD me

/-- The package budget in 0.25 W, and none where there is no limit. -/
def budgetOf (w : Nat) : Option Nat := if w = 0xFFFF then none else some (4 * w)

/-- The shares of the eight positions from the messages of the round (R462). -/
def Gov.roundShares (g : Gov) (me : Nat) (limit : Option Nat) : Tab Nat :=
  let quiet := ringPositions.filter (g.silent me)
  let here := ringPositions.filter fun j => !g.silent me j
  match limit with
  | none => ringPositions.map fun j => (j, if quiet.contains j then g.sharesAll.get j 0 else 0xFFFF)
  | some lim =>
    let s0 := quiet.map fun j => (j, Nat.max (g.sharesAll.get j 0) (lim / 8))
    let rest := lim - sumL (s0.map (·.2))
    let floor := fun (j : Nat) => ((g.paces.find j).map (·.floor.toNat)).getD 0
    let need := fun (j : Nat) => Nat.max (((g.paces.find j).map (·.need.toNat)).getD 0) (floor j)
    let f := sumL (here.map floor)
    let n := sumL (here.map need)
    let share := fun (j : Nat) =>
      if n ≤ rest then need j + (rest - n) / here.length
      else if f ≤ rest then floor j + (rest - f) * (need j - floor j) / (n - f)
      else floor j * rest / f
    s0 ++ here.map fun j => (j, share j)

/-- The 16 B payload of a CPACE. -/
def Pace.bytesOf (p : Pace) : List Byte :=
  toLe 4 p.round.toNat ++ toLe 2 p.gen.toNat ++ toLe 2 p.need.toNat ++ toLe 2 p.floor.toNat ++ toLe 2 p.share.toNat ++ [p.flags, 0, 0, 0]

def Pace.ofBytes (bs : List Byte) : Pace :=
  { round := w32 bs 0, gen := BitVec.ofNat 16 (le bs 4 2), need := BitVec.ofNat 16 (le bs 6 2),
    floor := BitVec.ofNat 16 (le bs 8 2), share := BitVec.ofNat 16 (le bs 10 2), flags := bs.getD 12 0 }

/-- A CPACE to an instance (R245). -/
def Blk.cpace (b : Blk) (dst : InstId) (p : Pace) : CometMsg :=
  { kind := 2, ttl := b.ttlInit, op := 0, int := false, mode := false, pass := false, stage := 0, step := 0, rsv := 0, rsv8 := 0,
    len := 16, id := 0, src := b.self, dst := dst, part := 0, check := 0, crc := BitVec.ofNat 16 (crc32c p.bytesOf).toNat,
    payload := p.bytesOf }

/-- The seven other instances of the package. -/
def Blk.packageMates (b : Blk) : List InstId :=
  (ringPositions.map fun j => BitVec.ofNat 12 (b.self.toNat / 8 * 8 + j)).filter (· != b.self)

/-- The message of the round that starts. -/
def Aon.ownPace (a : Aon) (b : Blk) : Pace :=
  let g := a.gov
  { round := g.round, gen := BitVec.ofNat 16 (fld (a.reg 0x608) 31 16), need := satAdd 0 (g.power.map needOf).sum,
    floor := satAdd 0 a.floors.sum, share := satAdd 0 g.share,
    flags := BitVec.ofNat 8 (b01 b.fixedMode + 2 * b01 g.alerted) }

/-- The next round starts: shares come from the round's messages, and the own message leaves (R461, R462). -/
def startRound (x : Pair') : Pair' :=
  let (a, b) := x
  let g := a.gov
  let me := posOf b.self
  let here := ringPositions.filter fun j => !g.silent me j
  let gens := here.filterMap fun j => (g.paces.find j).map (·.gen)
  let agree := gens.all fun v => some v = gens.head?
  let new := fld (a.reg 0x608) 15 0
  let w := if agree then new else Nat.min g.budget new
  let alone := g.isolated me
  let shares := g.roundShares me (budgetOf w)
  let share := if alone then (match budgetOf w with
      | some lim => Nat.min g.share (lim / 8)
      | none => g.share) else shares.get me 0
  let a := a.modGov fun g =>
    { g with budget := w, share := share, sharesAll := shares, round := g.round + 1, roundFrom := a.count }
  let p := a.ownPace b
  let due := g.heldPaces.filter fun q => notAfter q.2.round a.gov.round
  let a := a.modGov fun g =>
    { g with paces := (due.foldl (fun (t : Tab Pace) q => t.put q.1 q.2) g.paces).put me p,
             heldPaces := g.heldPaces.filter fun q => !notAfter q.2.round a.gov.round }
  let y := setThrottle 7 alone (a, b)
  (y.1, b.packageMates.foldl (fun b aim => b.sendComet none (b.cpace aim p)) y.2)

/-- The round's time is up: 2,500 AONCLK periods at the leader, 2,560 elsewhere. -/
def execPacingRound (s : State) : Host.Outcome State Fault Refusal :=
  s.both fun (a, b) =>
    let me := posOf b.self
    let limit := if a.gov.leader me = me then 2500 else 2560
    if a.gov.roundFrom.toNat + limit ≤ a.count.toNat && !a.restarting then startRound (a, b) else (a, b)

/-- A CPACE that governors do not use (R244, R245). -/
def badPace (b : Blk) (k : CometMsg) : Bool :=
  k.kind != 2 || k.op != 0 || k.int || k.mode || k.pass || k.stage != 0 || k.step != 0 || k.rsv != 0 || k.rsv8 != 0 || k.id != 0 || k.check != 0
    || k.len != 16 || k.payload.length != 16 || k.crc.toNat != (crc32c k.payload).toNat % 65536 || !b.packageMates.contains k.src

/-- A peer's message is kept: of this round or an earlier one for the next computation, a later one until its round has
started. -/
def Gov.keepPace (g : Gov) (j : Nat) (p : Pace) : Gov :=
  let newer := match g.heard.find j with
    | some l => notAfter l p.round
    | none => true
  if !newer then g
  else if notAfter p.round g.round then { g with heard := g.heard.put j p.round, paces := g.paces.put j p }
  else { g with heard := g.heard.put j p.round, heldPaces := g.heldPaces.put j p }

/-- A governor takes a round number: what it has heard is renumbered with it, and what it held for later rounds is void
(R461, R462; log 70). -/
def Gov.renumber (g : Gov) (r : Word) : Gov :=
  { g with round := r, heard := g.heard.map fun q => (q.1, q.2 + (r - g.round)), heldPaces := [] }

/-- A CPACE is taken from its port FIFO. -/
def takePace (k : CometMsg) (x : Pair') : Pair' :=
  let (a, b) := x
  let b := b.freeMsg k
  if k.dst != b.self then (a, b.sendComet none k)
  else
    let j := posOf k.src
    let p := Pace.ofBytes k.payload
    let g := a.gov
    let far := p.round != g.round && p.round != g.round + 1 && p.round + 1 != g.round
    let moved := (g.renumber (p.round - 1)).keepPace j p
    let jumps := far && !a.restarting && moved.leader (posOf b.self) = j
    let a := a.modGov fun g => if jumps then moved else g.keepPace j p
    if a.restarting || a.gov.leader (posOf b.self) != j || p.round != a.gov.round + 1 then (a, b)
    else startRound (a, b)

/-- A CPACE arrives at its port FIFO: it stands behind the comet messages that wait there, whatever their kind (09 R242). -/
def execCpaceReceive (k : CometMsg) (s : State) : Host.Outcome State Fault Refusal :=
  s.both fun (a, b) =>
    if badPace b k then (a, (b.freeMsg k).discardComet)
    else if b.cometWaits k then (a, b.holdComet k)
    else takePace k (a, b)

/-- The port FIFOs of comet messages are read again, each from its head (09 R242, R248). -/
def drainComets (x : Pair') : Pair' :=
  x.2.comets.held.foldl (fun (x : Pair') k =>
    if k.kind != 2 then (x.1, x.2.atCometPort k)
    else if x.2.cometWaits k then (x.1, x.2.holdComet k)
    else takePace k x) (x.1, { x.2 with comets := { x.2.comets with held := [] } })

/-! ### Telemetry (22 R555) -/

/-- A sample of 32 B. -/
def telSample (a : Aon) (b : Blk) : List Byte :=
  let p := a.gov.power
  let w2 := fun (n : Nat) => toLe 2 (Nat.min 0xFFFF n)
  toLe 8 a.count.toNat ++ w2 p.sum ++ w2 p.compute ++ w2 p.memory ++ w2 p.links
    ++ toLe 4 ((b.govValue a 0x61C 0).getD 0).toNat ++ toLe 4 ((b.govValue a 0x620 0).getD 0).toNat
    ++ [a.gov.temps.rd 0, a.gov.temps.rd 1, a.gov.temps.rd 2, a.gov.temps.rd 3] ++ toLe 2 (b.edge 61).lost.toNat ++ [0, 0]

/-- A sample enters edge 61, of 1,024 samples; the oldest gives way to it (17 R419). -/
def Blk.postSample (b : Blk) (x : List Byte) : Blk :=
  if b.tels.length < 1024 then { b with tels := b.tels ++ [x] }
  else
    let e := b.edge 61
    { b.setEdge 61 { e with lost := satAdd e.lost 1 } with tels := b.tels.drop 1 ++ [x] }

def execTelemetrySample (s : State) : Host.Outcome State Fault Refusal :=
  s.both fun (a, b) =>
    let n := fld (b.reg 0x91C) 7 0
    if n = 0 || a.gov.telCount < n then (a, b)
    else (a.modGov fun g => { g with telCount := 0 }, b.postSample (telSample a b))

end Sys2Proof.Machine
end

