-- ==== Sys2Proof/Machine/ResetBase.lean ====
section
/-! DEFINITION. ResetBase: the resets and the stages of bring-up up to TRAIN (21 R522 to R531; 18 R451, R452, R458). -/

namespace Sys2Proof.Machine
open Sys2Proof

/-! ### Block reset (R522 to R524) -/

/-- ND_RESET_CAUSE takes a cause. -/
def Aon.cause (a : Aon) (k : Nat) : Aon := a.setReg 0x10 0 (a.reg 0x10 ||| BitVec.ofNat 32 (2 ^ k))

/-- The block domain as a block reset leaves it: stack contents and accesses that their senders still hold stay, and so do
the free values drawn and what was sent. -/
def Blk.resetBlock (b : Blk) (lanes : Nat) (now : Quad) : Blk :=
  let r := Blk.reset b.mem.stack lanes
  { r with
    mem := { r.mem with badMac := b.mem.badMac, poison := b.mem.poison },
    start := { r.start with held := true, heldSince := now, accesses := b.start.accesses },
    posted := b.posted, out := b.out, free := b.free }

/-- A block reset begins: commands and the vault's operation for them end without a record; ECLK is at OP0; the energy of
the window up to here is no longer in the counter (R523, R550). -/
def blockReset (k : Nat) (x : Pair') : Pair' :=
  let (a, b) := x
  let (a, b) := flushRepairs (a, b)
  let a := a.cause k
  let a := a.modGov fun g => g.addEnergy b.burnt
  let a := a.modGov fun g =>
    { g with op := 0, opNext := none, dieOp := Bank.all 2 0, droopNow := false, idle := 0,
             energyBase := a.windowEnergy, dies := Bank.all 2 ⟨0, 0, 0, 0⟩ }
  let a : Aon := { a with noise := { a.noise with waiting := [], served := [] }, vaultOp := none }
  (a, b.resetBlock a.vault.fuses.lanes a.count)

def execBlkRstN (s : State) : Host.Outcome State Fault Refusal := s.both (blockReset 3)

/-- The stage CLOCK begins, and the cycle count starts at 0 (R527, R547). -/
def Blk.release (b : Blk) : Blk := { b with cycle := 0, start := { b.start with held := false, stage := 1 } }

/-- The condition is gone and 64 AONCLK periods have passed. -/
def execBlockResetRelease (s : State) : Host.Outcome State Fault Refusal :=
  s.both fun (a, b) =>
    if b.start.stage = 0 && !a.held && !a.gov.orderHold && a.gov.sleep != .s3 && b.start.heldSince.toNat + 64 ≤ a.count.toNat
    then (a, b.release) else (a, b)

/-- The 2 ms wake from S3 ends: bring-up starts, unless an order error holds block reset (R452, R458, R522). -/
def execS3WakeDone (s : State) : Host.Outcome State Fault Refusal :=
  s.both fun (a, b) =>
    match a.gov.wakeFrom with
    | some t =>
      if a.gov.sleep == .s3 && !a.gov.orderHold && t + 50000 ≤ a.count.toNat then
        let y := blockReset 5 (a, b)
        let y := if a.gov.trip then (y.1.cause 6, y.2) else y
        (y.1.modGov fun g => { g with sleep := .s0, wakeFrom := none, trip := false }, y.2.release)
      else (a, b)
    | none => (a, b)

/-! ### AON reset (R522, R523, R526) -/

/-- Lines of owned regions that hold bytes: their MACs fail once the stack keys are gone (R514). -/
def Blk.sealedLines (b : Blk) : List Nat :=
  let own := ((List.range 128).map fun k => b.region (BitVec.ofNat 3 (k / 16)) (k % 16)).filter fun r => r.valid && r.owned
  ((b.mem.stack.filter fun c => own.any fun r => r.start ≤ c.1 && c.1 < r.start + r.len).map fun c => c.1 / 64).eraseDups

/-- An AON reset begins: the block is reset with it, and of the management plane only fuses stay. -/
def aonReset (pin : Bool) (x : Pair') : Pair' :=
  let (a, b) := flushRepairs x
  let b : Blk := { b with mem := { b.mem with badMac := (b.mem.badMac ++ b.sealedLines).eraseDups } }
  let r := Aon.reset a.vault.fuses
  let a : Aon := { r with held := true, noise := { r.noise with drawn := a.noise.drawn } }
  let b := b.resetBlock a.vault.fuses.lanes 0
  ((if pin then a.cause 1 else a),
   { b with start := { b.start with accesses := b.start.accesses.filter fun w => w.1 = .host } })

def execAonRstN (s : State) : Host.Outcome State Fault Refusal := s.both (aonReset true)

/-- The ASCII text "ND-AUDIT". -/
def auditLabel : List Byte := ascii [0x4E, 0x44, 0x2D, 0x41, 0x55, 0x44, 0x49, 0x54]

/-- The AON reset is released: the fuses are sensed, a boot nonce is drawn, the audit chain starts at c_0, the ROM enters
RECEIVE and the noise source STARTUP (20 R516; R523, R526). -/
def execAonResetRelease (s : State) : Host.Outcome State Fault Refusal :=
  s.always fun a =>
    if !a.held && a.vault.bootNonce != [] then a
    else
      let (nonce, a) := a.drawBytes 32
      let c0 := sha384 (auditLabel ++ toLe 2 a.vault.fuses.straps.toNat ++ nonce)
      { a with held := false, vault := { a.vault with
          bootNonce := nonce, boot := .receive, auditNext := 1, audit := [], auditBase := c0, chain := c0 } }

/-- The vault's known-answer tests end; a failure stays until the next AON reset (R526). -/
def execKnownAnswerTests (pass : Bool) (s : State) : Host.Outcome State Fault Refusal :=
  s.always fun a => if a.vault.kat.isSome then a else { a with vault := { a.vault with kat := some pass } }

/-! ### Rails (18 R451, R452) -/

/-- A rail falls below its reset level. -/
def execRailReset (rail : BitVec 3) (s : State) : Host.Outcome State Fault Refusal :=
  s.both fun (a, b) =>
    let ports := fun (l : List Nat) => (a, (l.map (BitVec.ofNat 4)).foldl (fun b i => b.portFail i 8) b)
    if rail = 0 then aonReset false (a, b)
    else if rail = 1 || rail = 2 then blockReset 2 (a, b)
    else if rail = 3 then ports [6, 7, 8, 9, 10]
    else if rail = 4 || rail = 5 then ports [0, 1, 2, 3, 4, 5]
    else (a, b)

/-- A departure from the rail order holds block reset until the host repeats the sequence. -/
def execRailOrderError (repeated : Bool) (s : State) : Host.Outcome State Fault Refusal :=
  s.both fun (a, b) =>
    if repeated then (a.modGov fun g => { g with orderHold := false }, b)
    else blockReset 2 (a.modGov fun g => { g with orderErr := true, orderHold := true }, b)

/-! ### Bring-up (R527 to R531) -/

def Blk.stageTo (b : Blk) (n : Nat) : Blk := { b with start := { b.start with stage := BitVec.ofNat 4 n } }

/-- CLOCK ends: the ring position comes from the straps (R18). -/
def execBringupClockDone (straps : BitVec 3) (s : State) : Host.Outcome State Fault Refusal :=
  s.both fun (a, b) =>
    if b.start.stage != 1 then (a, b)
    else
      let a : Aon := { a with vault := { a.vault with fuses := { a.vault.fuses with straps := straps } } }
      (a, (b.setReg 0x004 0 (setFld (b.reg 0x004) 2 0 straps.toNat)).stageTo 2)

/-- SELFTEST ends with the parts it found. -/
def execSelftestDone (bad : List BadPart) (s : State) : Host.Outcome State Fault Refusal :=
  s.block fun _ b => if b.start.stage = 2 then (b.modHealth fun h => { h with bad := bad }).stageTo 3 else b

/-- An entry of a repair record applies (19 R487). -/
def Blk.applyEntry (b : Blk) (e : Word) : Blk :=
  let u := fld e 31 26
  let kind := fld e 25 24
  let num := fld e 23 0
  if u ≤ 15 && kind = 1 then (b.modHealth fun h => { h with bank16 := some u }).spareUsed u 1 num
  else if u ≤ 15 && kind = 2 then b.retireBank u
  else if 30 ≤ u && u ≤ 35 then
    let b := b.retireLanes (BitVec.ofNat 4 (u - 30)) [num % 16] kind
    if (b.link (BitVec.ofNat 4 (u - 30))).rxGood < 6 then b.chipFail u (b.link (BitVec.ofNat 4 (u - 30))).rxGood else b
  else if u < 40 then b.losePart u num else b

/-- Repairs known before: no event but a crossed floor's, no new entry, and no count (R528, R529). -/
def Blk.applyKnown (b : Blk) (l : List Word) : Blk :=
  let r := l.foldl Blk.applyEntry b
  let floors := (r.posted.drop b.posted.length).filter fun x => x.code = 0x1A
  { r with
    evts := b.evts ++ floors
    posted := b.posted ++ floors
    health := { r.health with recordDue := b.health.recordDue, repairs := b.health.repairs } }

/-- REPAIR ends: the maker's repairs, the repair record, and what SELFTEST found; below a floor the stage is FAILED. -/
def repairEnd (x : Pair') : Pair' :=
  let (a, b) := x
  let f := a.vault.fuses
  let b := b.applyKnown (f.repairs ++ f.record)
  let b := b.health.bad.foldl (fun b p => b.losePart p.unit.toNat p.number.toNat) b
  let b := b.modHealth fun h => { h with bad := [] }
  flushRepairs (a, if b.health.chipFailed then b.stageTo 8 else b.stageTo 4)

/-- Ports that start-up enables: O0, O1 and K0 to K2 (R531). -/
def startPorts : List (BitVec 4) := [6, 7, 8, 9, 10]

/-- CLEAR ends: every protected word is 0; TRAIN starts with its ports enabled (R527, R531). -/
def execClearDone (s : State) : Host.Outcome State Fault Refusal :=
  s.block fun _ b =>
    if b.start.stage != 4 then b
    else
      let b : Blk := { b with mem := { b.mem with scratch := [], flips := [], hurt := [] } }
      startPorts.foldl (fun b i => (b.modLink i fun l => { l with enable := true }).portStart i) (b.stageTo 5)

end Sys2Proof.Machine
end

