-- ==== Sys2Proof/Machine/RegWrite.lean ====
section
/-! DEFINITION. RegWrite: what a register write does (00 R8 to R11; 20 R493 to R497; 22 R542 to R544), register by
register, and the checks that refuse one. -/

namespace Sys2Proof.Machine
open Sys2Proof

/-! ### Rights (R8, R9, R495) -/

/-- Whether a role may write a field of an access code. -/
def Role.may (r : Role) (x : Acc) : Bool :=
  match x with
  | .rw => true
  | .wo => true
  | .w1c => true
  | .rwi => r != .operator
  | .rwm => r = .maker
  | .ro => false

def Acc.restricted (x : Acc) : Bool := x = .rwi || x = .rwm

/-- Whether a role may write a field; the maker may not turn UNSIGNED mode on (R495). -/
def mayWrite (role : Role) (off : Nat) (v : Word) (f : Fld) : Bool :=
  role.may f.acc && !(off = 0x804 && role = .maker && bit v.toNat 0)

/-- The value a register takes: the fields that the role may write from the word written, the others as they stand. -/
def RegDef.merge (d : RegDef) (role : Role) (old v : Word) : Word :=
  let m := BitVec.ofNat 32 (d.flds.foldl (fun m f => if mayWrite role d.off v f then m ||| f.mask else m) 0)
  (old &&& ~~~m) ||| (v &&& m)

/-- Restricted fields whose bits differ between two words. -/
def RegDef.differing (d : RegDef) (old v : Word) : List Fld :=
  d.flds.filter fun f => f.acc.restricted && ((old ^^^ v).toNat &&& f.mask) != 0

/-- The address of a register of an index, as events and audit records name it. -/
def RegDef.addr (d : RegDef) (i : Nat) : Nat :=
  match d.ix with
  | .part => d.off + 0x20 * i
  | .four _ => d.off + 4 * i
  | _ => d.off

/-! ### What refuses a write -/

/-- Why a write has no effect: an event, or nothing at all. -/
abbrev Refuse := Option (Nat × Nat × Nat)

def badFormat : Option Refuse := some (some (0x03, 0, 0))

/-- Window extent of a valid region with its MAC lines (20 R514). -/
def Region.extent (r : Region) : Nat := r.len + (if r.owned then ceilDiv (r.len / 4096) 16 * 4096 else 0)

/-- The valid regions with their partition. -/
def Blk.regions (b : Blk) : List (Nat × Region) :=
  ((List.range 128).map fun k => (k / 16, b.region (BitVec.ofNat 3 (k / 16)) (k % 16))).filter fun r => r.2.valid

/-- No two of a list of areas share a byte. -/
def apart : List (Nat × Nat) → Bool
  | [] => true
  | x :: rest => rest.all (fun y => !meet x.1 x.2 y.1 y.2) && apart rest

/-- The context store's area, where it is placed. -/
def storeArea (v : Word) : Option (Nat × Nat) := if bit v.toNat 31 then some (fld v 27 0 * 4096, 2 ^ 24) else none

/-- A ring's area (R552). -/
def ringArea (v : Word) : Nat × Nat := (fld v 27 0 * 4096, 32 * 2 ^ (7 + fld v 30 28))

/-- A table bank lies inside one valid owned region of the partition that owns its layer (03 R75, R78). -/
def Blk.bankHoused (b : Blk) (p : Layer × BitVec 2 × Bool × Nat × Nat) : Bool :=
  match b.layerPart p.1.toNat with
  | none => false
  | some n => (List.range 16).any fun r =>
      let x := b.region n r
      x.valid && x.owned && inside p.2.2.2.1 p.2.2.2.2 x.start x.len

/-- Regions keep apart from one another and from the context store, and house every bank (11 R281). -/
def Blk.regionsOk (b : Blk) : Bool :=
  apart (((storeArea (b.reg 0x028)).toList) ++ b.regions.map fun r => (r.2.start, r.2.extent))
    && (b.placedBanks.filter fun p => p.2.2.2.2 != 0).all b.bankHoused

/-- A context of the partition is not FREE. -/
def Blk.partInUse (b : Blk) (n : Nat) : Bool := b.ctxs.any fun c => c.2.life != .free && c.2.part.toNat = n

/-- A partition's lanes field. -/
def lanesLegal (l : Nat) : Bool := l = 0 || (16 ≤ l && l % 4 = 0)

/-- The checks of R353 on a partition's registers. -/
def Blk.partOk (b : Blk) (n : Nat) : Bool :=
  let cfg := fun (k : Nat) => b.reg 0x100 k
  let res := fun (k : Nat) => b.reg 0x104 k
  let valid := fun (k : Nat) => bit (cfg k).toNat 31
  let clash := fun (k : Nat) =>
    (fld (cfg n) 15 0 &&& fld (cfg k) 15 0) != 0 || (fld (res n) 31 16 &&& fld (res k) 31 16) != 0
      || (fld (res n) 7 0 ≤ fld (res k) 15 8 && fld (res k) 7 0 ≤ fld (res n) 15 8)
  let groupBusy := seatNums.any fun s =>
    let x := b.seat s
    x.st != .free && x.part.toNat != n && (match x.entry with
      | some e => bit (fld (res n) 31 16) e.toNat
      | none => false)
  lanesLegal (fld (cfg n) 30 24) && fld (cfg n) 30 24 ≤ b.health.lanesActive
    && fld (res n) 7 0 ≤ fld (res n) 15 8
    && (fld (cfg n) 15 0 &&& b.health.banksOut.toNat) = 0
    && !(valid n && (List.range 8).any fun k => k != n && valid k && clash k)
    && sumL (((List.range 8).filter valid).map fun k => fld (cfg k) 30 24) ≤ b.health.lanesActive
    && !groupBusy

/-- The checks of the registers of the tables: bank, size, manifest (03 R78; 15 R385). -/
def Blk.tableWrite (b : Blk) (off i : Nat) (new : Word) : Option Refuse :=
  let k : Bool := off = 0x30C || off = 0x328 || off = 0x31C
  let layer : Layer := BitVec.ofNat 8 (i / 4)
  let kind : BitVec 2 := BitVec.ofNat 2 (i % 4)
  let st := ((b.table layer kind).bank k).st
  let locked : Option Refuse := some (some (0x0D, layer.toNat + 256 * kind.toNat, 0))
  if off = 0x318 || off = 0x31C then (if st = .free || st = .filling then none else locked)
  else if st != .free then locked
  else
    let b' := b.setReg off i new
    match b'.bankPlace layer kind k with
    | some (at', len) =>
      let others := b'.placedBanks.filter fun p => !(p.1 = layer && p.2.1 = kind && p.2.2.1 = k)
      if len = 0 || (b'.bankHoused (layer, kind, k, at', len) && others.all fun p => !meet at' len p.2.2.2.1 p.2.2.2.2) then none
      else badFormat
    | none => none

/-- The checks of a ring (R552). -/
def Blk.ringWrite (b : Blk) (new : Word) : Option Refuse :=
  let a := ringArea new
  let hit := fun (s len : Nat) => meet a.1 a.2 s len
  if bit new.toNat 31 && (b.regions.any (fun r => r.2.owned && hit r.2.start r.2.extent)
      || (storeArea (b.reg 0x028)).any (fun s => hit s.1 s.2) || b.placedBanks.any fun p => hit p.2.2.2.1 p.2.2.2.2)
  then badFormat else none

/-- The context store keeps apart from regions, banks and enabled rings (14 R357). -/
def Blk.storeOk (b : Blk) (new : Word) : Bool :=
  match storeArea new with
  | none => true
  | some s =>
    let hit := fun (x len : Nat) => meet s.1 s.2 x len
    let ring := fun (off : Nat) => bit (b.reg off).toNat 31 && hit (ringArea (b.reg off)).1 (ringArea (b.reg off)).2
    !(b.regions.any (fun r => hit r.2.start r.2.extent) || b.placedBanks.any (fun p => hit p.2.2.2.1 p.2.2.2.2)
      || ring 0x900 || ring 0x910)

/-- A seat of a group table entry is held. -/
def Blk.entryBusy (b : Blk) (i : Nat) : Bool :=
  seatNums.any fun s => (b.seat s).entry = some (BitVec.ofNat 4 i) && (b.seat s).st != .free

/-- Reserved values of registers that have nothing else to check (00 R11). -/
def reservedValue (off : Nat) (v : Word) : Bool :=
  match off with
  | 0x0108 => fld v 31 24 = 0 || fld v 23 14 = 0 || 1000 < fld v 23 14 || fld v 7 0 = 0
  | 0x010C => 2 ≤ fld v 1 0
  | 0x0114 => fld v 28 27 = 3 || fld v 23 22 = 3 || (fld v 26 24 != 0 && !bit (fld v 26 24) (fld v 23 22))
  | 0x011C => 5 ≤ fld v 14 12 || 5 ≤ fld v 10 8 || 5 ≤ fld v 6 4 || 5 ≤ fld v 2 0
  | 0x0300 => fld v 9 8 = 3
  | 0x0344 => fld v 19 8 = 0 || 5 ≤ fld v 7 5 || fld v 1 0 = 3
  | 0x0370 => fld v 23 20 = 0 || fld v 15 0 = 0
  | 0x0604 => fld v 15 8 = 0 || fld v 1 0 = 1
  | 0x0614 => 110 < fld v 15 8 || fld v 15 8 < fld v 7 0 + 5
  | 0x0618 => fld v 15 8 < 10 || 80 < fld v 15 8
  | _ => false

/-- Reserved values of a group entry that is valid (08 R202, R203). -/
def foldReserved (v : Word) : Bool := fld v 18 16 = 0 || 4 < fld v 18 16 || fld v 6 0 = 0

/-- Whether and how a write of a register with an index is refused. -/
def writeRefused (off i : Nat) (addr : Nat) (old new : Word) (x : Pair') : Option Refuse :=
  let (a, b) := x
  if reservedValue off new then badFormat
  else if off = 0x004 then
    (if old != new && ((List.range 6).any fun p => (b.link (BitVec.ofNat 4 p)).st != .down) then badFormat else none)
  else if off = 0x01C then
    (if !bit old.toNat 0 && bit new.toNat 0 && (b.start.stage != 6 || a.vault.boot != .running || !bit (b.reg 0x028).toNat 31)
      then badFormat else none)
  else if off = 0x028 then
    (if b.ctxs.any fun c => c.2.life != .free then some (some (0x88, 0, 0)) else if b.storeOk new then none else badFormat)
  else if off = 0x100 || off = 0x104 then
    (if b.partInUse i then some (some (0x88, addr, 0))
      else if (b.setReg off i new).partOk i then none else badFormat)
  else if off = 0x204 || off = 0x208 then
    (if b.flights.any fun f => (b.ctx f.ctx).part.toNat = i / 16 then some (some (0x88, 0, 0))
      else if (b.setReg off i new).regionsOk then none else badFormat)
  else if off = 0x308 || off = 0x30C || off = 0x324 || off = 0x328 || off = 0x318 || off = 0x31C then b.tableWrite off i new
  else if off = 0x380 || off = 0x390 then
    (let base := if off = 0x380 then fld new 27 0 else fld (b.reg 0x380 i) 27 0
     let size := if off = 0x390 then fld new 23 0 else fld (b.reg 0x390 i) 23 0
     if b.heldUnits (BitVec.ofNat 2 i) != 0 then some (some (0x86, 0, 0))
      else if 2 ^ 28 < base + size then badFormat else none)
  else if off = 0x404 || off = 0x408 || off = 0x40C then
    (if b.entryBusy i then some (some (0x87, 0, 0))
      else if off = 0x404 && bit old.toNat 31 && bit new.toNat 31 && foldReserved new then badFormat else none)
  else if off = 0x900 || off = 0x910 then b.ringWrite new
  else if off = 0x904 || off = 0x914 then
    (let cap := 2 ^ (7 + fld (b.reg (off - 4)) 30 28)
     if cap < (b.reg (off + 4) - new).toNat then some none else none)
  else none

/-! ### Effects beyond the stored value -/

/-- The store's placement: from valid 0 to 1 every descriptor is written as FREE (21 R534). -/
def Blk.placeStore (b : Blk) (old new : Word) : Blk :=
  if !bit old.toNat 31 && bit new.toNat 31 then
    { b with start := { b.start with storeInit := some (b.cycle.toNat + 41944) } }
  else b

/-- A ring's write: base and size stay while it is enabled; enabling it sets head and tail to 0 (R552). -/
def Blk.setRing (b : Blk) (off : Nat) (old new : Word) : Blk :=
  let new := if bit old.toNat 31 then setFld (setFld new 30 28 (fld old 30 28)) 27 0 (fld old 27 0) else new
  let b := b.setReg off 0 new
  if !bit old.toNat 31 && bit new.toNat 31 then (b.setReg (off + 4) 0 0).setReg (off + 8) 0 0 else b

/-- A group entry's first register: a write that sets valid starts the check of R203; one that clears it frees its seats. -/
def Blk.setFoldGrp (b : Blk) (i : Nat) (old new : Word) : Blk :=
  let e := BitVec.ofNat 4 i
  let g := b.fgroup e
  if bit new.toNat 31 then
    let b := if bit old.toNat 31 then b else b.setReg 0x404 i (setFld new 31 31 0)
    b.setFgroup e { g with checking := some (new, b.cycle.toNat) }
  else
    let b := (b.setReg 0x404 i new).setFgroup e { g with checking := none, members := [] }
    seatNums.foldl (fun b s => if (b.seat s).entry = some e then b.setSeat s { b.seat s with entry := none } else b) b

/-- UNSIGNED mode changes (R510). -/
def setUnsigned (role : Role) (path : Nat) (old new : Word) (x : Pair') : Pair' :=
  let (a, b) := x
  if old = new then (a, b)
  else
    let v := bit new.toNat 0
    let a := (a.setReg 0x804 0 new).audit 3 role.code path false 0x804 old new
    ({ a with vault := { a.vault with unsignedSeen := a.vault.unsignedSeen || v } }, b.event 0x93 (b01 v))

/-- W1C: the bits written 1 are cleared. -/
def clearBits (off i : Nat) (v : Word) (x : Pair') : Pair' :=
  let (a, b) := x
  if off = 0x010 then (a.setReg 0x010 0 (a.reg 0x010 &&& ~~~v), b)
  else if off = 0x600 then
    (a.modGov fun g => { g with warnSeen := g.warnSeen &&& ~~~BitVec.ofNat 6 (fld v 13 8), orderErr := g.orderErr && !bit v.toNat 16 }, b)
  else if off = 0x61C then (a.modGov fun g => { g with fixedBroken := g.fixedBroken && !bit v.toNat 23 }, b)
  else
    let e := b.edge i
    (a, b.setEdge i { e with faultLost := e.faultLost && !bit v.toNat 1, underrun := e.underrun && !bit v.toNat 0 })

/-- The effect of a write that is not refused. -/
def writeEffect (d : RegDef) (p : Path) (role : Role) (i : Nat) (old new v : Word) (x : Pair') : Pair' :=
  let (a, b) := x
  let off := d.off
  if off = 0x010 || off = 0x600 || off = 0x61C || off = 0x544 then clearBits off i v (a, b)
  else if off = 0x014 then (if bit new.toNat 0 then blockReset 4 (a, b) else (a, b))
  else if off = 0x01C then
    (if bit (d.merge role (old ^^^ 1) v).toNat 0 = bit new.toNat 0 then
        (a, { b with start := { b.start with regimeNext := some (bit new.toNat 0) } }) else (a, b))
  else if off = 0x028 then (a, (b.setReg off i new).placeStore old new)
  else if off = 0x210 then ctxOpWrite p v (a, b)
  else if off = 0x350 then ephCtlWrite p v (a, b)
  else if off = 0x404 then (a, b.setFoldGrp i old new)
  else if off = 0x504 then linkCtl (BitVec.ofNat 4 i) v (bit new.toNat 0) (a, b)
  else if off = 0x604 then
    (let a := a.setReg off i new
     if role = .operator then (a, b) else sleepRequest (fld new 1 0) (a, b))
  else if off = 0x744 then ((if bit new.toNat 0 then a.restartNoise else a), b)
  else if off = 0x804 then setUnsigned role p.ix old new (a, b)
  else if off = 0x80C then vaultOpWrite p role v (a, b)
  else if off = 0x900 || off = 0x910 then (a, b.setRing off old new)
  else if off = 0x1000 then (a, b.setReg off i (setFld new 31 31 0))
  else if d.aon then (a.setReg off i new, b)
  else (a, b.setReg off i new)

/-! ### A write -/

/-- Fields that a write attempts without the right: one audit record each, one ROLE_DENIED for the register (R9, R496). -/
def denyFields (d : RegDef) (p : Path) (role : Role) (addr : Nat) (old v : Word) (x : Pair') : Pair' :=
  let (a, b) := x
  let l := (d.differing old v).filter fun f => !mayWrite role d.off v f
  if l.isEmpty then (a, b)
  else (l.foldl (fun a _ => a.audit 2 role.code p.ix true addr old v) a, b.event 0x92 addr (256 * p.ix + role.code))

/-- Restricted fields that a write changes: one audit record each (R516). -/
def Aon.auditFields (a : Aon) (d : RegDef) (p : Path) (role : Role) (addr : Nat) (old new : Word) : Aon :=
  if d.off = 0x804 then a else (d.differing old new).foldl (fun a _ => a.audit 1 role.code p.ix false addr old new) a

/-- A write of a register of the map reaches it: denials, then, where the role may write a field of it at all, checks and
its effect (R9). -/
def writeReg (r : Requester) (d : RegDef) (k : Nat) (v : Word) (x : Pair') : Pair' :=
  let (a, b) := x
  let p := reqPath r
  let role := a.roleOf r
  match b.ixOf a p d k with
  | none => (a, b)
  | some i =>
    let old := b.value a p role d i
    let new := d.merge role old v
    let addr := d.addr i
    let y := denyFields d p role addr old v (a, b)
    if !d.flds.any (mayWrite role d.off v) then y
    else match writeRefused d.off i addr old new y with
    | some none => y
    | some (some e) => (y.1, y.2.event e.1 e.2.1 e.2.2)
    | none => writeEffect d p role i old new v (y.1.auditFields d p role addr old new, y.2)

/-! ### Doorbells (12 R308; 14 R362; 11 R287) -/

/-- The path has a doorbell held. -/
def Blk.pathHeld (b : Blk) (p : Path) : Bool := b.heldBells.any fun x => x.path = p

/-- A doorbell joins the doorbells before it in the order of arrival, but host software's goes before the endpoint's of the
same cycle (01 R16; 14 R362). -/
def bellInto (e : Bell) : List Bell → List Bell
  | [] => [e]
  | x :: rest =>
    if e.path = .host && x.path = .mgmt && x.at' = e.at' then e :: x :: rest
    else x :: bellInto e rest

/-- Whether a doorbell that arrives now is held: while the FIFO is full or doorbells of earlier cycles are held, and the
endpoint's while it would take the last entry, which host software's of its cycle would have before it (14 R362). -/
def Blk.bellHeld (b : Blk) (p : Path) : Bool :=
  (if p = .host then 64 else 63) ≤ b.bells.length || b.heldBells.any fun x => x.at' != b.cycle.toNat

/-- A doorbell arrives: refused before bring-up ends; held in S2, where it starts the wake; refused from host software in
DIRECT; and held while the FIFO has no entry for it (18 R460; 21 R530). -/
def ring (p : Path) (c : CtxId) (q : BitVec 2) (tail : Word) (x : Pair') : Pair' :=
  let (a, b) := x
  if b.start.stage.toNat < 6 then (a, b.ctxEvent 0x81 c q)
  else
    let e : Bell := { path := p, ctx := c, queue := q, tail := tail, at' := b.cycle.toNat }
    if a.gov.sleep == .s2 then (startWake a, { b with heldBells := bellInto e b.heldBells })
    else if p = .host && !b.start.regime then (a, b.ctxEvent 0x81 c q)
    else if b.bellHeld p then (a, { b with heldBells := bellInto e b.heldBells })
    else (a, { b with bells := bellInto e b.bells })

/-- Held doorbells enter as entries free. -/
def Blk.enterBells (b : Blk) : Blk :=
  let n := 64 - b.bells.length
  { b with bells := b.bells ++ b.heldBells.take n, heldBells := b.heldBells.drop n }

/-! ### Accesses (R530, R538, R539, R542) -/

/-- An access is held: behind an earlier one of its path; while the host port or the block has no power; and a write from
RESET to TRAIN, a doorbell apart. -/
def accessHeld (r : Requester) (off : Nat) (write : Bool) (x : Pair') : Bool :=
  let (a, b) := x
  let p := reqPath r
  let aonReg := match regAt off with
    | some (d, _) => d.aon
    | none => false
  b.pathHeld p || b.start.accesses.any (fun w => reqPath w.1 = p) || a.held
    || (a.gov.sleep == .s3 && (p = .host || (write && !aonReg)))
    || (write && b.start.stage.toNat < 6 && off < 0x400000)

/-- Carry out an access: a write completes its handshake, a read returns its value. -/
def doAccess (r : Requester) (off : Nat) (v : Option Word) (x : Pair') : Pair' :=
  match v with
  | none =>
    let y := readAt r off x
    (y.2.1, y.2.2.send (.read (reqPath r) y.1))
  | some v =>
    let y : Pair' :=
      if 0x400000 ≤ off then
        ring (reqPath r) (BitVec.ofNat 18 ((off - 0x400000) / 16)) (BitVec.ofNat 2 ((off - 0x400000) / 4)) v x
      else match regAt off with
        | some (d, k) => writeReg r d k v x
        | none => x
    let p := reqPath r
    let b : Blk := { y.2 with latch := y.2.latch.drop p.ix }
    (y.1, if b.pathHeld p then b else b.send (.done p))

/-- An access of a path to an offset of its window; bits [1:0] do not count. -/
def access (r : Requester) (addr : BitVec 23) (v : Option Word) (x : Pair') : Pair' :=
  let off := addr.toNat / 4 * 4
  if accessHeld r off v.isSome x then
    (x.1, { x.2 with start := { x.2.start with accesses := x.2.start.accesses ++ [(r, addr, v)] } })
  else
    let y := doAccess r off v x
    (y.1, Blk.settle x.2 y.2)

/-- A register write. -/
def submit (r : Requester) (addr : Nat) (v : Word) (x : Pair') : Pair' := access r (BitVec.ofNat 23 addr) (some v) x

/-- Held accesses are taken up again, oldest first. -/
def flushAccesses (x : Pair') : Pair' :=
  let l := x.2.start.accesses
  let x : Pair' := (x.1, { x.2 with start := { x.2.start with accesses := [] } })
  l.foldl (fun y w => access w.1 w.2.1 w.2.2 y) x

/-- Held doorbells enter the FIFO, which completes their writes, and what was held behind them is taken up (14 R362). -/
def freeBells (x : Pair') : Pair' :=
  let (a, b) := x
  let c := b.enterBells
  let freed := b.heldBells.take (b.heldBells.length - c.heldBells.length)
  flushAccesses (a, c.sends (freed.map fun h => Out.done h.path))

/-- Whether a doorbell is accepted (12 R308). -/
def Blk.bellOk (b : Blk) (e : Bell) : Bool :=
  let x := b.ctx e.ctx
  let u := x.que e.queue
  !b.health.chipFailed && x.alive && (b.start.regime || e.path = .mgmt) && 4 ≤ u.size.toNat && u.size.toNat ≤ 20
    && (e.tail - u.tail).toNat + (u.tail - u.head).toNat ≤ 2 ^ u.size.toNat

/-- An accepted doorbell publishes entries and restarts its queue (12 R309; 14 R375). -/
def Queue.publish (u : Queue) (tail : Word) (now : Nat) : Queue :=
  let pubs := u.pubs.filter fun p => p.1 - u.pc != 0 && (p.1 - u.pc).toNat ≤ u.left.toNat
  { u with tail := tail, halted := false, pubs := if tail = u.tail then pubs else pubs ++ [(tail, now)] }

/-- The head of the doorbell FIFO applies once its descriptor is in the cache, at most one a cycle (14 R362; 01 R15); the
endpoint's not in the cycle it arrives in, in which host software's would go before it (R16). -/
def applyBell (x : Pair') : Pair' :=
  let (a, b) := x
  if a.gov.sleep == .s2 || a.gov.sleep == .s3 || b.cycle.toNat < b.bellAt then (a, b)
  else match b.bells with
    | [] => (a, b)
    | e :: rest =>
      if e.path = .mgmt && b.cycle.toNat ≤ e.at' then (a, b) else
      match ({ b with bells := rest, bellAt := b.cycle.toNat + 1 } : Blk).touch e.ctx with
      | none => (a, b)
      | some c =>
        let c := c.readDesc e.ctx
        let c := if c.bellOk e then c.modQue ⟨e.ctx, e.queue⟩ fun u => u.publish e.tail b.cycle.toNat
          else c.ctxEvent 0x81 e.ctx e.queue
        let y := freeBells (a, c)
        (y.1, Blk.settle b y.2)

end Sys2Proof.Machine
end

