-- ==== Sys2Proof/Machine/RegCmds.lean ====
section
/-! DEFINITION. RegCmds: the register, doorbell and operation commands of either path, what completes them, the rings of
22 R552, and the end of bring-up (21 R529, R530). -/

namespace Sys2Proof.Machine
open Sys2Proof

/-! ### Register writes with rows of their own -/

def execRegisterWrite (r : Requester) (addr : BitVec 23) (v : Word) (s : State) : Host.Outcome State Fault Refusal :=
  s.both (submit r addr.toNat v)

def execNdMemRegimeWrite (r : Requester) (v : Word) (s : State) : Host.Outcome State Fault Refusal := s.both (submit r 0x01C v)

def execNdCntCtxWrite (r : Requester) (v : Word) (s : State) : Host.Outcome State Fault Refusal := s.both (submit r 0x1000 v)

def execNdCtxStoreWrite (r : Requester) (v : Word) (s : State) : Host.Outcome State Fault Refusal := s.both (submit r 0x028 v)

/-- ND_FOLD_GRP, ND_FOLD_LIST and ND_FOLD_SHAPE. -/
def execNdFoldGrpWrite (r : Requester) (which : BitVec 2) (v : Word) (s : State) : Host.Outcome State Fault Refusal :=
  s.both (submit r (0x404 + 4 * which.toNat) v)

/-- ND_EPOCH_BANKn and ND_EPOCH_SIZEn. -/
def execNdEpochBankWrite (r : Requester) (size bank : Bool) (v : Word) (s : State) : Host.Outcome State Fault Refusal :=
  s.both (submit r ((if size then 0x324 else 0x308) + 4 * b01 bank) v)

def execNdEpochManWrite (r : Requester) (bank : Bool) (v : Word) (s : State) : Host.Outcome State Fault Refusal :=
  s.both (submit r (0x318 + 4 * b01 bank) v)

def execNdHandCfgWrite (r : Requester) (v : Word) (s : State) : Host.Outcome State Fault Refusal := s.both (submit r 0x344 v)

def execNdPartArithWrite (r : Requester) (n : PartId) (v : Word) (s : State) : Host.Outcome State Fault Refusal :=
  s.both (submit r (0x10C + 0x20 * n.toNat) v)

/-- ND_PART_CFG_n and ND_PART_RES_n. -/
def execNdPartCfgWrite (r : Requester) (res : Bool) (n : PartId) (v : Word) (s : State) : Host.Outcome State Fault Refusal :=
  s.both (submit r (0x100 + 4 * b01 res + 0x20 * n.toNat) v)

def execNdRegionWrite (r : Requester) (size : Bool) (v : Word) (s : State) : Host.Outcome State Fault Refusal :=
  s.both (submit r (0x204 + 4 * b01 size) v)

def execNdRecvWrite (r : Requester) (size : Bool) (die : BitVec 2) (v : Word) (s : State) : Host.Outcome State Fault Refusal :=
  s.both (submit r ((if size then 0x390 else 0x380) + 4 * die.toNat) v)

def execNdSplitWrite (r : Requester) (n : PartId) (v : Word) (s : State) : Host.Outcome State Fault Refusal :=
  s.both (submit r (0x114 + 0x20 * n.toNat) v)

def execNdTopoWrite (r : Requester) (v : Word) (s : State) : Host.Outcome State Fault Refusal := s.both (submit r 0x004 v)

def execNdVaultCfgWrite (r : Requester) (v : Word) (s : State) : Host.Outcome State Fault Refusal := s.both (submit r 0x804 v)

def execNdRingWrite (r : Requester) (tel : Bool) (v : Word) (s : State) : Host.Outcome State Fault Refusal :=
  s.both (submit r (if tel then 0x910 else 0x900) v)

def execNdPwrPhaseWrite (r : Requester) (n : PartId) (v : Word) (s : State) : Host.Outcome State Fault Refusal :=
  s.both (submit r (0x11C + 0x20 * n.toNat) v)

def execNdEvtHeadWrite (r : Requester) (v : Word) (s : State) : Host.Outcome State Fault Refusal := s.both (submit r 0x904 v)

def execNdTelHeadWrite (r : Requester) (v : Word) (s : State) : Host.Outcome State Fault Refusal := s.both (submit r 0x914 v)

/-! ### Operations started by a register write -/

/-- The word of ND_CTX_OP that starts an operation (14 R365). -/
def ctxOpWord (op : Nat) (n : PartId) (c : CtxId) : Word :=
  BitVec.ofNat 32 (put 27 24 op + put 23 21 n.toNat + put 17 0 c.toNat)

def execCreate (r : Requester) (n : PartId) (c : CtxId) (s : State) : Host.Outcome State Fault Refusal :=
  s.both (submit r 0x210 (ctxOpWord 1 n c))

def execKill (r : Requester) (n : PartId) (c : CtxId) (s : State) : Host.Outcome State Fault Refusal :=
  s.both (submit r 0x210 (ctxOpWord 2 n c))

def execExportCtx (r : Requester) (n : PartId) (c : CtxId) (s : State) : Host.Outcome State Fault Refusal :=
  s.both (submit r 0x210 (ctxOpWord 3 n c))

def execRestore (r : Requester) (n : PartId) (c : CtxId) (s : State) : Host.Outcome State Fault Refusal :=
  s.both (submit r 0x210 (ctxOpWord 4 n c))

def execFree (r : Requester) (n : PartId) (c : CtxId) (s : State) : Host.Outcome State Fault Refusal :=
  s.both (submit r 0x210 (ctxOpWord 5 n c))

def execShares (r : Requester) (n : PartId) (c : CtxId) (s : State) : Host.Outcome State Fault Refusal :=
  s.both (submit r 0x210 (ctxOpWord 6 n c))

def execSave (r : Requester) (s : State) : Host.Outcome State Fault Refusal := s.both (submit r 0x350 1)

def execLoad (r : Requester) (s : State) : Host.Outcome State Fault Refusal := s.both (submit r 0x350 2)

def execReset (r : Requester) (s : State) : Host.Outcome State Fault Refusal := s.both (submit r 0x350 3)

def execSealOut (r : Requester) (n : PartId) (s : State) : Host.Outcome State Fault Refusal :=
  s.both (submit r 0x80C (BitVec.ofNat 32 (put 27 24 1 + put 23 21 n.toNat)))

def execSealIn (r : Requester) (n : PartId) (s : State) : Host.Outcome State Fault Refusal :=
  s.both (submit r 0x80C (BitVec.ofNat 32 (put 27 24 2 + put 23 21 n.toNat)))

/-- The port's enable bit as the path's ND_LINK_SEL shows it. -/
def enableNow (r : Requester) (b : Blk) : Nat :=
  let n := fld (b.reg 0x500 (reqPath r).ix) 3 0
  if n < 11 then b01 (b.link (BitVec.ofNat 4 n)).enable else 0

/-- ND_LINK_CTL.rekey := 1, the enable field as it stands. -/
def execRekey (r : Requester) (s : State) : Host.Outcome State Fault Refusal :=
  s.both fun x => submit r 0x504 (BitVec.ofNat 32 (4 + enableNow r x.2)) x

def execRetrain (r : Requester) (s : State) : Host.Outcome State Fault Refusal :=
  s.both fun x => submit r 0x504 (BitVec.ofNat 32 (2 + enableNow r x.2)) x

def execEnable (r : Requester) (v : Bool) (s : State) : Host.Outcome State Fault Refusal :=
  s.both (submit r 0x504 (BitVec.ofNat 32 (b01 v)))

def execRestart (r : Requester) (s : State) : Host.Outcome State Fault Refusal := s.both (submit r 0x744 1)

def execBlock (r : Requester) (s : State) : Host.Outcome State Fault Refusal := s.both (submit r 0x014 1)

/-- ND_PWR_SLEEP.request, the idle time as it stands. -/
def execRequestS2 (r : Requester) (s : State) : Host.Outcome State Fault Refusal :=
  s.both fun x => submit r 0x604 (setFld (x.1.reg 0x604) 1 0 2) x

def execRequestS3 (r : Requester) (s : State) : Host.Outcome State Fault Refusal :=
  s.both fun x => submit r 0x604 (setFld (x.1.reg 0x604) 1 0 3) x

def execRequestS0 (r : Requester) (s : State) : Host.Outcome State Fault Refusal :=
  s.both fun x => submit r 0x604 (setFld (x.1.reg 0x604) 1 0 0) x

/-! ### Doorbells and reads -/

def execDoorbell (r : Requester) (p : Site) (tail : Word) (s : State) : Host.Outcome State Fault Refusal :=
  s.both (submit r (0x400000 + 16 * p.ctx.toNat + 4 * p.queue.toNat) tail)

def execDoorbellApply (s : State) : Host.Outcome State Fault Refusal := s.both applyBell

/-- PLDM OEM RegRead and RegWrite (R542; 20 R519). -/
def execRegRead (session : Option (BitVec 1)) (addr : BitVec 23) (s : State) : Host.Outcome State Fault Refusal :=
  s.both (access (.mgmt session) addr none)

def execRegWrite (session : Option (BitVec 1)) (addr : BitVec 23) (v : Word) (s : State) : Host.Outcome State Fault Refusal :=
  s.both (access (.mgmt session) addr (some v))

/-- A host read (R545). -/
def execCounterLowRead (addr : BitVec 23) (s : State) : Host.Outcome State Fault Refusal := s.both (access .host addr none)

/-! ### What completes a write -/

/-- The regime changes once no command is in flight (11 R287; 21 R532, R533). -/
def execRegimeChange (s : State) : Host.Outcome State Fault Refusal :=
  s.both fun (a, b) =>
    match b.start.regimeNext with
    | some v =>
      if b.flights.isEmpty then
        (a, Blk.settle b { b with start := { b.start with
          regime := v, regimeNext := none, stage := if b.health.chipFailed then 8 else if v then 7 else 6 } })
      else (a, b)
    | none => (a, b)

/-- A snapshot of the named context's counters is complete (22 R549). -/
def execSnapshotComplete (path : Path) (s : State) : Host.Outcome State Fault Refusal :=
  s.block fun _ b =>
    let v := b.reg 0x1000 path.ix
    let x := b.ctx (BitVec.ofNat 18 (fld v 17 0))
    let at' := path.ix * 0x1000
    let snaps := (List.range 64).foldl (fun (t : Tab Word) k =>
      let n := if x.life = .free then 0 else (x.counters.get k 0).toNat
      (t.put (at' + 2 * k) (BitVec.ofNat 32 n)).put (at' + 2 * k + 1) (BitVec.ofNat 32 (n / 2 ^ 32))) b.snaps
    ({ b with snaps := snaps } : Blk).setReg 0x1000 path.ix (setFld v 31 31 1)

/-- Every descriptor of the store has been written as FREE: 16 MiB of zeros (21 R534). -/
def execContextStoreInit (s : State) : Host.Outcome State Fault Refusal :=
  s.block fun _ b =>
    match b.start.storeInit with
    | some t =>
      if b.cycle.toNat < t then b
      else
        let base := fld (b.reg 0x028) 27 0 * 4096
        let out := fun (a : Nat) => a < base || base + 2 ^ 24 ≤ a
        { b with
          start := { b.start with storeInit := none }
          mem := { b.mem with stack := b.mem.stack.filter fun c => out c.1,
                              badMac := b.mem.badMac.filter fun l => out (64 * l),
                              poison := b.mem.poison.filter fun l => out (64 * l) } }
    | none => b

/-! ### The check of a group entry (08 R203) -/

/-- The member list's IDs; none where it cannot be read or names no instance. -/
def Blk.memberList (b : Blk) (base n : Nat) : Option (List InstId) :=
  match b.window base (2 * n) with
  | .ok bs =>
    let l := (pieces 2 bs).map leNat
    if l.all fun v => v < 4096 then some (l.map (BitVec.ofNat 12)) else none
  | .error _ => none

/-- The runs of a TIERED list: one per package, all of the same rising ring positions. -/
def runsOk (m : Nat) (l : List InstId) : Bool :=
  let runs := pieces m l
  let pos := fun (r : List InstId) => r.map posOf
  let first := pos (runs.headD [])
  let rising := (first.zip (first.drop 1)).all fun p => p.1 < p.2
  rising && runs.all fun r => pos r = first && r.all fun i => i.toNat / 8 = (r.headD 0).toNat / 8

/-- Every check but those that need the list. -/
def Blk.foldShapeOk (b : Blk) (e : BitVec 4) (g : GEntry) : Bool :=
  let others := (entries.filter fun x => x != e && (b.grp x).valid).map b.grp
  1 ≤ g.seats && g.seats ≤ 4 && g.timeout != 0 && 2 ≤ g.n
    && g.seats + sumL (others.map (·.seats)) ≤ 16 && others.all (fun x => x.group != g.group)
    && (if g.tiered then
          1 ≤ g.m && g.m ≤ 8 && g.n % g.m = 0 && 2 ≤ g.n / g.m && g.farMask != 0
            && (!g.gray || (g.n / g.m ≤ 64 && 2 ^ Nat.log2 (g.n / g.m) = g.n / g.m))
        else g.m = 0 && !g.gray)

/-- The seats an entry reserves: the lowest-numbered that no entry has, retired ones last. -/
def Blk.takeSeats (b : Blk) (e : BitVec 4) (n : Nat) : Blk :=
  let mine := seatNums.filter fun s => (b.seat s).entry = some e
  let open' := seatNums.filter fun s => (b.seat s).entry.isNone
  let order := mine ++ open'.filter (fun s => !(b.seat s).retired) ++ open'.filter fun s => (b.seat s).retired
  let b := mine.foldl (fun b s => b.setSeat s { b.seat s with entry := none }) b
  (order.take n).foldl (fun b s => b.setSeat s { b.seat s with entry := some e }) b

/-- The list has been read: the entry becomes valid, or BAD_FORMAT (R203, R204; 09 R246). -/
def execFoldEntryCheck (e : BitVec 4) (s : State) : Host.Outcome State Fault Refusal :=
  s.block fun _ b =>
    let f := b.fgroup e
    match f.checking with
    | none => b
    | some (v, _) =>
      let b := b.setFgroup e { f with checking := none }
      let g := GEntry.of v (b.reg 0x408 e.toNat) (b.reg 0x40C e.toNat)
      match (if b.foldShapeOk e g then b.memberList g.base g.n else none) with
      | none => b.event 0x03
      | some l =>
        if (l.filter (· = b.self)).length = 1 && l.eraseDups.length = l.length && (!g.tiered || runsOk g.m l) then
          ((b.setReg 0x404 e.toNat v).setFgroup e { nextSeq := 0, cometSeq := 0, members := l, checking := none, spent := [] }).takeSeats
            e g.seats
        else b.event 0x03

/-! ### Rings (22 R552, R553) -/

/-- The first record of an edge goes into its ring; the tail follows its bytes. -/
def execRingCopy (tel : Bool) (s : State) : Host.Outcome State Fault Refusal :=
  s.block fun _ b =>
    let off := if tel then 0x910 else 0x900
    let r := b.reg off
    let cap := 2 ^ (7 + fld r 30 28)
    let tail := b.reg (off + 8)
    let rec? : Option (List Byte) := if tel then b.tels.head? else b.evts.head?.map Rec.bytes
    match rec? with
    | none => b
    | some bs =>
      if !bit r.toNat 31 || (tail - b.reg (off + 4)).toNat = cap then b
      else
        let b := b.poke ((ringArea r).1 + 32 * (tail.toNat % cap)) bs
        let b : Blk := if tel then { b with tels := b.tels.drop 1 } else { b with evts := b.evts.drop 1 }
        (b.setReg (off + 8) 0 (tail + 1)).send (.copy tel tail bs)

/-- EVT_IRQ_N is low (R554). -/
def Blk.irqLow (b : Blk) : Bool := bit (b.reg 0x900).toNat 31 && b.reg 0x908 != b.reg 0x904

/-! ### The end of bring-up and of a wake (21 R529, R530; 18 R458, R460) -/

/-- REPAIR ends. -/
def execRepairDone (s : State) : Host.Outcome State Fault Refusal :=
  s.both fun (a, b) =>
    if b.start.stage != 3 then (a, b)
    else
      let y := repairEnd (a, b)
      if y.2.health.chipFailed then flushAccesses y else y

/-- TRAIN ends: DIRECT, or FAILED where a die port is not UP; held writes complete. -/
def execBringupTrainDone (s : State) : Host.Outcome State Fault Refusal :=
  s.both fun (a, b) =>
    if b.start.stage != 5 then (a, b)
    else match ([8, 9, 10] : List (BitVec 4)).find? fun i => (b.link i).st != .up with
      | some i => flushAccesses (a, b.chipFail (28 + i.toNat) 0)
      | none => flushAccesses (a, b.stageTo 6)

/-- The 12 µs wake from S2 ends: ports train again, and held doorbells enter. -/
def execS2WakeDone (s : State) : Host.Outcome State Fault Refusal :=
  s.both fun (a, b) =>
    match a.gov.wakeFrom with
    | some t =>
      if a.gov.sleep == .s2 && t + 300 ≤ a.count.toNat then
        let a := a.modGov fun g => { g with sleep := .s0, wakeFrom := none, idle := 0 }
        let y := freeBells (a, b.portsOn)
        (y.1, Blk.settle b y.2)
      else (a, b)
    | none => (a, b)

end Sys2Proof.Machine
end

