-- ==== Sys2Proof/Machine/Mgmt.lean ====
section
/-! DEFINITION. Mgmt: the management endpoint and the vault's own commands (20 R493 to R521): keys and ownership, audit
reads, firmware update, platform monitoring, discovery, and SPDM sessions and attestation. A reply is a completion code and
the content that the spec gives it; message framing belongs to the DSP standards (log 10). -/

namespace Sys2Proof.Machine
open Sys2Proof

/-- A command to the endpoint; none is served while AON reset holds it. -/
def State.endpoint (s : State) (f : Pair' → Pair') : Host.Outcome State Fault Refusal :=
  s.both fun x => if x.1.held then x else f x

/-- A reply with completion code SUCCESS. -/
def Blk.reply (b : Blk) (body : List Byte) : Blk := b.send (.mgmt 0 body)

/-- A reply with the generic ERROR code. -/
def Blk.refuse (b : Blk) : Blk := b.send (.mgmt 1 [])

def Aon.modVault (a : Aon) (f : Vault → Vault) : Aon := { a with vault := f a.vault }

/-- The finished session an access names. -/
def Aon.session (a : Aon) (k : Option (BitVec 1)) : Option Secured :=
  match k with
  | some k => (a.vault.sessions.rd k).filter (·.finished)
  | none => none

/-! ### Keys and ownership (R498 to R500, R511, R512) -/

/-- The hash of the root public key of a session's requester. -/
def Secured.rootHash (x : Secured) : Option (List Byte) :=
  if x.bothAuth then (Config.chainRoot x.chain).map sha384 else none

/-- Whether a transfer or RMA statement passes every check (R500). -/
def Aon.statementOk (a : Aon) (kind : Nat) (bs : List Byte) : Bool :=
  let key := (bs.drop 0x68).take 97
  let slot := le bs 6 1
  let newRoot := (bs.drop 0x38).take 48
  bs.length = 0x134 && le bs 0 4 = 0x4D545453 && le bs 4 1 = 1 && le bs 5 1 = kind && le bs 7 1 = 0
    && ((bs.drop 0xC9).take 3).all (· = 0)
    && (bs.drop 8).take 48 = sha384 Config.deviceKey && a.ownerHash = some (sha384 key)
    && (if kind = 1 then slot = a.vault.fuses.owners.length && slot ≤ 3 else slot = 0 && newRoot.all (· = 0))
    && (match SigBlock.parse (bs.drop 0xCC) with
      | some s => s.alg = 1 && s.slot = 0xFF && s.verifies key (bs.take 0xCC)
      | none => false)

/-- A key kind as audit records name it. -/
def keyCode : KeyKind → Nat
  | .link _ => 0
  | .fleet => 1
  | .owner => 2

/-- The lifecycle changes (R498, R516). -/
def Aon.lifeTo (a : Aon) (role : Role) (v : Life') : Aon :=
  let old := a.vault.fuses.lifecycle
  (a.modVault fun x => { x with fuses := { x.fuses with lifecycle := v } }).audit 10 role.code 1 false 0
    (BitVec.ofNat 32 old.code) (BitVec.ofNat 32 v.code)

/-- What SetKey changes; none where it is refused. -/
def setKeyEffect (k : Option (BitVec 1)) (kind : KeyKind) (data : List Byte) (a : Aon) : Option Aon :=
  let role := a.roleOf (.mgmt k)
  if a.vaultFail then none
  else match kind with
    | .link p =>
      if role = .installer && p.toNat < 6 && data.length = 32 then
        some (a.modVault fun v => { v with linkKeys := v.linkKeys.wr p (some data) })
      else none
    | .fleet =>
      if role = .installer && data.length = 32 then some (a.modVault fun v => { v with fleet := some data }) else none
    | .owner =>
      if a.vault.fuses.lifecycle == .provisioned then
        match a.session k, k, (a.session k).bind Secured.rootHash with
        | some x, some n, some h =>
          some ((a.modVault fun v =>
            { v with fuses := { v.fuses with owners := [h] }, sessions := v.sessions.wr n (some { x with role := .installer }) }).lifeTo
              role .owned)
        | _, _, _ => none
      else if a.vault.fuses.lifecycle == .owned && role = .installer && a.statementOk 1 data then
        some (a.modVault fun v => { v with fuses := { v.fuses with owners := v.fuses.owners ++ [(data.drop 0x38).take 48] } })
      else none

def execSetKey (k : Option (BitVec 1)) (kind : KeyKind) (data : List Byte) (s : State) : Host.Outcome State Fault Refusal :=
  s.endpoint fun (a, b) =>
    let role := a.roleOf (.mgmt k)
    match setKeyEffect k kind data a with
    | some a => (a.audit 4 role.code 1 false (keyCode kind), b.reply [])
    | none => (a.audit 4 role.code 1 true (keyCode kind), b.refuse)

/-- A link session whose keys are zeroised. -/
def Session'.zeroise (x : Session') : Session' := { x with key := [], txKey := [], rxKey := [], nextTx := [], nextRx := [] }

/-- Every link session's keys are zeroised. -/
def Blk.zeroise (b : Blk) : Blk :=
  ((List.range 6).map (BitVec.ofNat 4)).foldl (fun b i => b.modLink i fun l => { l with session := l.session.zeroise }) b

/-- RMA unlock blows the fuse and zeroises every key; sealed contents can be read no more (R499, R512). -/
def execRmaUnlock (k : Option (BitVec 1)) (statement : List Byte) (s : State) : Host.Outcome State Fault Refusal :=
  s.endpoint fun (a, b) =>
    let role := a.roleOf (.mgmt k)
    if role = .maker && a.vault.fuses.lifecycle == .owned && a.statementOk 2 statement then
      let a := (a.lifeTo role .rma).modVault fun v =>
        { v with linkKeys := Bank.all 3 none, fleet := none, sessions := Bank.all 1 none }
      (a, ({ b with mem := { b.mem with badMac := (b.mem.badMac ++ b.sealedLines).eraseDups } } : Blk).zeroise.reply [])
    else (a.audit 4 role.code 1 true 2, b.refuse)

/-- CommitSVN raises the fuse counter to the running image's SVN (R506). -/
def execCommitSvn (k : Option (BitVec 1)) (s : State) : Host.Outcome State Fault Refusal :=
  s.endpoint fun (a, b) =>
    let role := a.roleOf (.mgmt k)
    match a.vault.firm with
    | some f =>
      if role = .installer && f.svn.toNat ≤ 64 then
        let old := a.vault.fuses.svn
        let new := BitVec.ofNat 7 (Nat.max old.toNat f.svn.toNat)
        ((a.modVault fun v => { v with fuses := { v.fuses with svn := new } }).audit 5 role.code 1 false 1
          (BitVec.ofNat 32 old.toNat) (BitVec.ofNat 32 new.toNat), b.reply [])
      else (a.audit 5 role.code 1 true 1, b.refuse)
    | none => (a.audit 5 role.code 1 true 1, b.refuse)

/-! ### The audit log (R517) -/

/-- Up to 16 records from a number on, behind the chain value of the record before the first of them. -/
def Vault.auditFrom (v : Vault) (seq : Quad) : List Byte :=
  let before := (v.audit.filter fun r => r.1.seq.toNat < seq.toNat).getLast?
  let base := match before with
    | some r => r.2
    | none => v.auditBase
  base ++ ((v.audit.filter fun r => seq.toNat ≤ r.1.seq.toNat).take 16).flatMap fun r => r.1.bytesOf

def execReadAudit (seq : Quad) (s : State) : Host.Outcome State Fault Refusal :=
  s.endpoint fun (a, b) => (a, b.reply (a.vault.auditFrom seq))

/-- What the Alias key of the running components depends on (R501). -/
def Vault.alias' (v : Vault) : List Byte :=
  ((v.firm.map (·.digest)).getD []) ++ (v.config.map (·.digest)).getD []

/-- A signature under the Alias key, with its per-signature value from the DRBG (R511). -/
def Aon.sign (a : Aon) (msg : List Byte) : List Byte × Aon :=
  let (r, a) := a.drawBytes 48
  (Config.aliasSign a.vault.alias' (r ++ msg), a)

/-- The ASCII text "ND-AUDIT-HEAD". -/
def auditHeadLabel : List Byte := auditLabel ++ ascii [0x2D, 0x48, 0x45, 0x41, 0x44]

/-- The number of the last record and its chain value. -/
def Vault.auditHead (v : Vault) : List Byte := toLe 8 (v.auditNext - 1).toNat ++ v.chain

def execSignAudit (nonce : List Byte) (s : State) : Host.Outcome State Fault Refusal :=
  s.endpoint fun (a, b) =>
    if nonce.length != 32 || a.vault.firm.isNone || a.vault.fuses.lifecycle == .rma then (a, b.refuse)
    else
      let head := a.vault.auditHead
      let (sig, a) := a.sign (sha384 (auditHeadLabel ++ head ++ nonce))
      (a, b.reply (head ++ sig))

/-! ### CONFIG (R507) -/

/-- One publisher key record, and what follows it. -/
def keyRecord (bs : List Byte) : Option (Option PubKey × List Byte) :=
  let alg := le bs 0 1
  let n := le bs 2 2
  let fits := alg = 0 && n = 0 || alg = 1 && n = 97 || alg = 2 && n = 1952
  if bs.length < 4 + n || !fits then none
  else some (if n = 0 then none else some ⟨BitVec.ofNat 8 alg, bit (le bs 1 1) 0, (bs.drop 4).take n⟩, bs.drop (4 + n))

/-- Several key records in a row. -/
def keyRecords : Nat → List Byte → Option (List (Option PubKey) × List Byte)
  | 0, bs => some ([], bs)
  | n + 1, bs => match keyRecord bs with
    | none => none
    | some (k, rest) => (keyRecords n rest).map fun r => (k :: r.1, r.2)

/-- A CONFIG that is well formed, with its owner signature block. -/
def parseConfig (bs : List Byte) : Option (Config' × List Byte) :=
  if le bs 0 4 != 0x47464E43 || le bs 4 1 != 1 || 4 < le bs 5 1 || le bs 6 2 != 0 || le bs 12 4 != bs.length then none
  else match keyRecords 4 (bs.drop 16) with
    | none => none
    | some (keys, rest) =>
      if rest.length < 32 || (keys.filter (·.isSome)).length != le bs 5 1 then none
      else
        let regs := (List.range 16).map fun i => BitVec.ofNat 16 (le rest (2 * i) 2)
        some ({ digest := sha384 bs, seq := w32 bs 8, pubs := keys, regulators := regs }, rest.drop 32)

/-- A CONFIG that the vault accepts: the owner's signature, and a higher number than the one that runs (R505, R509). -/
def Aon.configOk (a : Aon) (bs : List Byte) : Option Config' :=
  match parseConfig bs with
  | none => none
  | some (c, block) =>
    let newer := match a.vault.config with
      | some old => old.seq.toNat < c.seq.toNat
      | none => true
    if newer && a.ownerSigned (bs.take (bs.length - block.length)) block then some c else none

/-- A FIRMWARE image that the ROM runs (R504). -/
def Aon.firmOk (a : Aon) (bs : List Byte) : Option Firm :=
  let f := a.vault.fuses
  if bs.length ≤ 2 ^ 20 && f.svn.toNat ≤ Config.firmSvn bs && Config.firmVerify f.makerRoot bs then
    some { digest := sha384 bs, svn := BitVec.ofNat 8 (Config.firmSvn bs) }
  else none

/-! ### Firmware update (R504 to R506) -/

/-- Whether a requester may update: anyone in RECEIVE, else an installer session (R505). -/
def Aon.mayUpdate (a : Aon) (k : Option (BitVec 1)) : Bool :=
  a.vault.boot == .receive || a.roleOf (.mgmt k) = .installer

def execRequestUpdate (k : Option (BitVec 1)) (components : BitVec 16) (s : State) : Host.Outcome State Fault Refusal :=
  s.endpoint fun (a, b) =>
    if !a.mayUpdate k || a.vault.update.isSome || components = 0 then (a, b.refuse)
    else
      (a.modVault fun v => { v with update := some { count := components.toNat, passed := [], current := none, size := 0,
                                                     data := [], transferred := false, verified := false, firm := none,
                                                     config := none, step := 1 } }, b.reply [])

/-- Act on the update in a given state, or answer ERROR. -/
def updating (step : BitVec 4) (f : Update → Pair' → Pair') (x : Pair') : Pair' :=
  match x.1.vault.update with
  | some u => if u.step = step then f u x else (x.1, x.2.refuse)
  | none => (x.1, x.2.refuse)

def Aon.setUpdate (a : Aon) (u : Option Update) : Aon := a.modVault fun v => { v with update := u }

/-- The two components of R505. -/
def isComp (c : CompId) : Bool := c = 1 || c = 2

def execPassComponentTable (comp : CompId) (s : State) : Host.Outcome State Fault Refusal :=
  s.endpoint (updating 1 fun u (a, b) =>
    let l := u.passed ++ [comp]
    (a.setUpdate (some { u with passed := l, step := if u.count ≤ l.length then 2 else 1 }),
     b.reply [if isComp comp then 0 else 1]))

/-- Bytes asked for at once. -/
def fetchUnit : Nat := 32

/-- Ask for the next bytes of a component. -/
def Blk.fetchNext (b : Blk) (u : Update) : Blk :=
  let have' := u.data.length
  if have' < u.size then
    b.send (.fetchMore (BitVec.ofNat 32 have') (BitVec.ofNat 32 (Nat.min fetchUnit (u.size - have'))))
  else b

def execUpdateComponent (comp : CompId) (size : Word) (s : State) : Host.Outcome State Fault Refusal :=
  s.endpoint (updating 2 fun u (a, b) =>
    if !isComp comp || !u.passed.contains comp || size = 0 || (comp = 1 && 2 ^ 20 < size.toNat) then (a, b.reply [1])
    else
      let u := { u with current := some comp, size := size.toNat, data := [], transferred := false, verified := false, step := 3 }
      (a.setUpdate (some u), (b.reply [0]).fetchNext u))

def execRequestFirmwareData (offset : Word) (data : List Byte) (s : State) : Host.Outcome State Fault Refusal :=
  s.endpoint (updating 3 fun u (a, b) =>
    if offset.toNat != u.data.length || data.length != Nat.min fetchUnit (u.size - u.data.length) || u.size ≤ u.data.length
    then (a, b.fetchNext u)
    else
      let u := { u with data := u.data ++ data }
      (a.setUpdate (some u), b.fetchNext u))

/-- The transfer ends: on success the vault verifies. -/
def execTransferComplete (result : BitVec 8) (s : State) : Host.Outcome State Fault Refusal :=
  s.endpoint (updating 3 fun u (a, b) =>
    if result = 0 && u.data.length = u.size then (a.setUpdate (some { u with transferred := true, step := 4 }), b)
    else (a.setUpdate (some { u with current := none, data := [], step := 2 }), b))

/-- Verification ends, with its audit record (R505, R516). -/
def execVerifyComplete (s : State) : Host.Outcome State Fault Refusal :=
  s.endpoint (updating 4 fun u (a, b) =>
    let comp := (u.current.map (·.toNat)).getD 0
    let ok := if comp = 1 then (a.firmOk u.data).isSome else (a.configOk u.data).isSome
    let a := a.auditVault 5 (!ok) comp 0 0 ((sha384 u.data).take 32)
    (a.setUpdate (some (if ok then { u with verified := true, step := 5 } else { u with current := none, data := [], step := 2 })),
     b.send (.mgmt (if ok then 0 else 1) [])))

/-- The component is kept for activation. -/
def execApplyComplete (s : State) : Host.Outcome State Fault Refusal :=
  s.endpoint (updating 5 fun u (a, b) =>
    let firm := if u.current = some 1 then a.firmOk u.data else u.firm
    let config := if u.current = some 2 then a.configOk u.data else u.config
    (a.setUpdate (some { u with firm := firm, config := config, current := none, data := [], step := 2 }), b.reply []))

/-- A CONFIG is activated: STATUS_WORD goes to every address of its regulator map on all four buses, and the buses that
acknowledge each entry are `acks` (22 R541). -/
def Aon.probe (a : Aon) (acks : List (BitVec 4)) (c : Option Config') : Aon :=
  match c with
  | none => a
  | some c => { a with regBus := c.regulators.zipIdx.map fun (_, i) => busOf ((acks[i]?).getD 0) }

/-- Activation: the management processor alone restarts; a new CONFIG takes effect now (R506). -/
def execActivateFirmware (k : Activation) (s : State) : Host.Outcome State Fault Refusal :=
  s.endpoint fun x => updating 2 (fun u (a, b) =>
    if !a.mayUpdate k.session || (u.firm.isNone && u.config.isNone) then (a, b.refuse)
    else
      let role := a.roleOf (.mgmt k.session)
      let a := if u.firm.isSome then a.audit 5 role.code 1 false 1 else a
      let a := if u.config.isSome then a.audit 5 role.code 1 false 2 else a
      let a := a.modVault fun v => { v with boot := .restart, config := u.config.or v.config }
      (a.probe k.acks u.config, b.reply [])) x

/-- The restart ends: the applied FIRMWARE runs; without any the ROM stays in RECEIVE. -/
def execFirmwareRestartDone (s : State) : Host.Outcome State Fault Refusal :=
  s.endpoint fun (a, b) =>
    if a.vault.boot != .restart then (a, b)
    else
      let firm := (a.vault.update.bind (·.firm)).or a.vault.firm
      (a.modVault fun v => { v with firm := firm, boot := if firm.isSome then .running else .receive, update := none }, b)

/-- The DSP0267 state: 0 idle, else the state of the update. -/
def execGetStatus (s : State) : Host.Outcome State Fault Refusal :=
  s.endpoint fun (a, b) => (a, b.reply [BitVec.ofNat 8 ((a.vault.update.map (·.step.toNat)).getD 0)])

def execCancelUpdateComponent (s : State) : Host.Outcome State Fault Refusal :=
  s.endpoint fun (a, b) =>
    match a.vault.update with
    | some u => if 3 ≤ u.step.toNat then (a.setUpdate (some { u with current := none, data := [], step := 2 }), b.reply [])
        else (a, b.refuse)
    | none => (a, b.refuse)

def execCancelUpdate (s : State) : Host.Outcome State Fault Refusal :=
  s.endpoint fun (a, b) =>
    if a.vault.update.isSome && a.vault.boot != .restart then (a.setUpdate none, b.reply []) else (a, b.refuse)

def execQueryDeviceIdentifiers (s : State) : Host.Outcome State Fault Refusal :=
  s.endpoint fun (a, b) => (a, b.reply Config.endpointUuid)

/-- The two components with what runs of each: SVN and digest of the FIRMWARE, number and digest of the CONFIG. -/
def execGetFirmwareParameters (s : State) : Host.Outcome State Fault Refusal :=
  s.endpoint fun (a, b) =>
    let f := match a.vault.firm with
      | some f => [f.svn] ++ f.digest
      | none => []
    let c := match a.vault.config with
      | some c => toLe 4 c.seq.toNat ++ c.digest
      | none => []
    (a, b.reply (toLe 2 1 ++ f ++ toLe 2 2 ++ c))

/-! ### Platform monitoring (R519, R520) -/

def execSetEventReceiver (eid : Byte) (enable : Bool) (s : State) : Host.Outcome State Fault Refusal :=
  s.endpoint fun (a, b) => (a.modVault fun v => { v with receiver := if enable then some eid else none }, b.reply [])

/-- A numeric sensor's reading; rail voltages are measured, and the spec gives no value (log 9). -/
def Blk.sensor (a : Aon) (b : Blk) (n : Nat) : Option (List Byte) :=
  let g := a.gov
  if 1 ≤ n && n ≤ 6 then some (toLe 2 (Config.freeNat b.free))
  else if n = 7 then some (toLe 2 (g.power.sum / 4))
  else if n = 8 then some (toLe 2 (g.power.compute / 4))
  else if n = 9 then some (toLe 2 (g.power.memory / 4))
  else if n = 10 then some (toLe 2 (g.power.links / 4))
  else if 11 ≤ n && n ≤ 14 then some [g.temps.rd (BitVec.ofNat 2 (n - 11))]
  else none

def execGetSensorReading (sensor : BitVec 16) (s : State) : Host.Outcome State Fault Refusal :=
  s.endpoint fun (a, b) =>
    match b.sensor a sensor.toNat with
    | some v => (a, b.draw.reply v)
    | none => (a, b.refuse)

/-- The state sensors: one set per throttle reason, and ND_HEALTH.state. -/
def execGetStateSensorReadings (sensor : BitVec 16) (s : State) : Host.Outcome State Fault Refusal :=
  s.endpoint fun (a, b) =>
    if sensor = 15 then (a, b.reply ((List.range 8).map fun c => BitVec.ofNat 8 (b01 (bit a.gov.throttle.toNat c))))
    else if sensor = 16 then (a, b.reply [BitVec.ofNat 8 b.health.state])
    else (a, b.refuse)

def execGetPdrRepositoryInfo (s : State) : Host.Outcome State Fault Refusal :=
  s.endpoint fun (a, b) => (a, b.reply (toLe 4 16))

/-- The record of a sensor: its ID, and 0 for a numeric or 1 for a state sensor. -/
def execGetPdr (handle : Word) (s : State) : Host.Outcome State Fault Refusal :=
  s.endpoint fun (a, b) =>
    if 1 ≤ handle.toNat && handle.toNat ≤ 16 then (a, b.reply (toLe 2 handle.toNat ++ [if 15 ≤ handle.toNat then 1 else 0]))
    else (a, b.refuse)

def execPollForPlatformEventMessage (s : State) : Host.Outcome State Fault Refusal :=
  s.endpoint fun (a, b) =>
    match a.vault.events with
    | r :: rest => (a.modVault fun v => { v with events := rest }, b.reply r.bytes)
    | [] => (a, b.reply [])

/-! ### PLDM base and MCTP control (R518, R519) -/

def pldmTypes : List Nat := [0, 2, 5, 0x3F]

def execGetTid (s : State) : Host.Outcome State Fault Refusal := s.endpoint fun (a, b) => (a, b.reply [a.vault.tid])

def execSetTid (tid : Byte) (s : State) : Host.Outcome State Fault Refusal :=
  s.endpoint fun (a, b) =>
    if tid = 0 || tid = 0xFF then (a, b.refuse) else (a.modVault fun v => { v with tid := tid }, b.reply [])

/-- Version numbers are not in the spec (log 9). -/
def execGetPldmVersion (type : BitVec 6) (s : State) : Host.Outcome State Fault Refusal :=
  s.endpoint fun (a, b) => if pldmTypes.contains type.toNat then (a, b.draw.reply (b.freeBytes 4)) else (a, b.refuse)

def execGetPldmTypes (s : State) : Host.Outcome State Fault Refusal :=
  s.endpoint fun (a, b) => (a, b.reply (toLe 8 (maskOf pldmTypes)))

/-- Command codes are not in the spec (log 9). -/
def execGetPldmCommands (type : BitVec 6) (s : State) : Host.Outcome State Fault Refusal :=
  s.endpoint fun (a, b) => if pldmTypes.contains type.toNat then (a, b.draw.reply (b.freeBytes 32)) else (a, b.refuse)

def execSetEndpointId (smbus : Bool) (eid : Byte) (s : State) : Host.Outcome State Fault Refusal :=
  s.endpoint fun (a, b) =>
    if eid = 0 || eid = 0xFF then (a, b.refuse)
    else (a.modVault fun v => { v with eids := v.eids.wr (BitVec.ofBool smbus) eid }, b.reply [eid])

def execGetEndpointId (smbus : Bool) (s : State) : Host.Outcome State Fault Refusal :=
  s.endpoint fun (a, b) => (a, b.reply [a.vault.eids.rd (BitVec.ofBool smbus)])

def execGetEndpointUuid (s : State) : Host.Outcome State Fault Refusal :=
  s.endpoint fun (a, b) => (a, b.reply Config.endpointUuid)

/-- DSP0236 version 1.3. -/
def execGetMctpVersionSupport (s : State) : Host.Outcome State Fault Refusal := s.endpoint fun (a, b) => (a, b.reply [1, 3])

def execGetMessageTypeSupport (s : State) : Host.Outcome State Fault Refusal :=
  s.endpoint fun (a, b) => (a, b.reply [0x00, 0x01, 0x05, 0x06])

/-! ### SPDM (R494, R501 to R503) -/

/-- VERSION lists 1.2 only; what was negotiated is gone. -/
def execGetVersion (s : State) : Host.Outcome State Fault Refusal :=
  s.endpoint fun (a, b) => (a.modVault fun v => { v with negotiated := false }, b.reply [0x12])

/-- The capabilities of R502 at their places in DSP0274: CERT, CHAL, MEAS with signature, ENCRYPT, MAC, MUT_AUTH, KEY_EX,
ENCAP, HBEAT, KEY_UPD. -/
def spdmCaps : Nat := maskOf [1, 2, 4, 6, 7, 8, 9, 12, 13, 14]

def execGetCapabilities (s : State) : Host.Outcome State Fault Refusal :=
  s.endpoint fun (a, b) => (a, b.reply (toLe 4 spdmCaps))

def execNegotiateAlgorithms (acceptable : Bool) (s : State) : Host.Outcome State Fault Refusal :=
  s.endpoint fun (a, b) =>
    (a.modVault fun v => { v with negotiated := acceptable }, if acceptable then b.reply [] else b.refuse)

/-- The certificate chain of slot 0. -/
def Vault.chain0 (v : Vault) : List Byte :=
  v.fuses.certs ++ (match v.firm with
    | some f => Config.aliasCert f.digest ((v.config.map (·.digest)).getD [])
    | none => [])

/-- An SPDM request that needs the negotiated algorithms and the DeviceID key. -/
def spdm (f : Pair' → Pair') (x : Pair') : Pair' :=
  if x.1.vault.negotiated && x.1.vault.fuses.lifecycle != .rma then f x else (x.1, x.2.refuse)

def execGetDigests (s : State) : Host.Outcome State Fault Refusal :=
  s.endpoint (spdm fun (a, b) => (a, b.reply ([1] ++ sha384 a.vault.chain0)))

def execGetCertificate (slot : BitVec 8) (offset length : BitVec 16) (s : State) : Host.Outcome State Fault Refusal :=
  s.endpoint (spdm fun (a, b) =>
    if slot != 0 || a.vault.chain0.length ≤ offset.toNat then (a, b.refuse)
    else (a, b.reply ((a.vault.chain0.drop offset.toNat).take length.toNat)))

def execChallenge (nonce : List Byte) (s : State) : Host.Outcome State Fault Refusal :=
  s.endpoint (spdm fun (a, b) =>
    let (own, a) := a.drawBytes 32
    let hash := sha384 a.vault.chain0
    let (sig, a) := a.sign (sha384 (hash ++ own ++ nonce))
    (a, b.reply (hash ++ own ++ sig)))

/-- A measurement block; none for an index that R503 does not list. -/
def measurement (a : Aon) (b : Blk) (n : Nat) : Option (List Byte) :=
  let v := a.vault
  let w := fun (x : Option Word) => toLe 4 (x.getD 0).toNat
  if n = 1 then some (sha384 Config.romImage)
  else if n = 2 then some (match v.firm with
    | some f => f.digest ++ [f.svn]
    | none => [])
  else if n = 3 then some ((v.config.map (·.digest)).getD [])
  else if n = 4 then some ([BitVec.ofNat 8 v.fuses.lifecycle.code, BitVec.ofNat 8 v.fuses.svn.toNat] ++ (a.ownerHash.getD [])
    ++ v.fuses.makerRoot)
  else if n = 5 then some (toLe 4 (a.reg 0x804).toNat ++ w (b.trustValue a .mgmt .operator 0x808 0))
  else if n = 6 then some (w (b.idValue a 0) ++ w (b.idValue a 0x20))
  else if n = 7 then some v.auditHead
  else none

/-- One block, or all with index 0xFF; index 0 asks how many there are. -/
def execGetMeasurements (index : BitVec 8) (nonce : List Byte) (s : State) : Host.Outcome State Fault Refusal :=
  s.endpoint (spdm fun (a, b) =>
    let all := (List.range 7).filterMap fun i => measurement a b (i + 1)
    let body := if index = 0 then some [7] else if index = 0xFF then some all.flatten else measurement a b index.toNat
    match body with
    | none => (a, b.refuse)
    | some body =>
      let (sig, a) := a.sign (sha384 (body ++ nonce))
      (a, b.reply (body ++ sig)))

/-- KEY_EXCHANGE opens a session that FINISH completes; a third is answered with SessionLimitExceeded. -/
def execKeyExchange (exchange : List Byte) (mutualAuth : Bool) (s : State) : Host.Outcome State Fault Refusal :=
  s.endpoint (spdm fun (a, b) =>
    match ([0, 1] : List (BitVec 1)).find? fun k => (a.vault.sessions.rd k).isNone with
    | none => (a, b.send (.mgmt 0x0A []))
    | some k =>
      let (own, a) := a.drawBytes 32
      let x : Secured := { finished := false, bothAuth := mutualAuth, chain := [], role := .operator, lastBeat := a.count, keyNo := 0 }
      let (sig, a) := a.sign (sha384 (exchange ++ own))
      (a.modVault fun v => { v with sessions := v.sessions.wr k (some x) }, b.reply ([BitVec.ofNat 8 k.toNat] ++ own ++ sig)))

/-- The requester's certificate chain, asked for by an encapsulated request; a digest alone gives none. -/
def execEncapsulatedResponse (session : BitVec 1) (chain : List Byte) (digest : Bool) (s : State) : Host.Outcome State Fault Refusal :=
  s.endpoint fun (a, b) =>
    match a.vault.sessions.rd session with
    | some x =>
      if x.finished || !x.bothAuth then (a, b.refuse)
      else (a.modVault fun v =>
        { v with sessions := v.sessions.wr session (some { x with chain := if digest then x.chain else chain }) }, b.reply [])
    | none => (a, b.refuse)

/-- The role of a session's requester (R494). -/
def Aon.roleFor (a : Aon) (x : Secured) : Role :=
  match x.rootHash with
  | some h => if a.ownerHash = some h then .installer else if h = a.vault.fuses.makerRoot then .maker else .operator
  | none => .operator

/-- An installer or maker session opens or ends (R516). -/
def Aon.auditSession (a : Aon) (role : Role) (opens : Bool) : Aon :=
  if role = .operator then a else a.audit 9 role.code 1 false 0 0 (BitVec.ofNat 32 (b01 opens))

def execFinish (session : BitVec 1) (ok : Bool) (s : State) : Host.Outcome State Fault Refusal :=
  s.endpoint fun (a, b) =>
    match a.vault.sessions.rd session with
    | some x =>
      if x.finished then (a, b.refuse)
      else if !ok then (a.modVault fun v => { v with sessions := v.sessions.wr session none }, b.refuse)
      else
        let role := a.roleFor x
        let y := { x with finished := true, role := role, lastBeat := a.count }
        ((a.modVault fun v => { v with sessions := v.sessions.wr session (some y) }).auditSession role true, b.reply [])
    | none => (a, b.refuse)

/-- A session ends; nothing it wrote is undone (R497). -/
def Aon.dropSession (a : Aon) (k : BitVec 1) : Aon :=
  match a.vault.sessions.rd k with
  | some x => (a.modVault fun v => { v with sessions := v.sessions.wr k none }).auditSession (if x.finished then x.role else .operator) false
  | none => a

/-- Change a finished session, or answer ERROR. -/
def inSession (k : BitVec 1) (f : Secured → Aon → Aon) (x : Pair') : Pair' :=
  match x.1.session (some k) with
  | some y => (f y x.1, x.2.reply [])
  | none => (x.1, x.2.refuse)

def execHeartbeat (session : BitVec 1) (s : State) : Host.Outcome State Fault Refusal :=
  s.endpoint (inSession session fun x a =>
    a.modVault fun v => { v with sessions := v.sessions.wr session (some { x with lastBeat := a.count }) })

/-- 30 s without a HEARTBEAT end the session (R494, R502). -/
def execHeartbeatMissed (session : BitVec 1) (s : State) : Host.Outcome State Fault Refusal :=
  s.endpoint fun (a, b) =>
    match a.session (some session) with
    | some x => if x.lastBeat.toNat + 750000000 ≤ a.count.toNat then (a.dropSession session, b) else (a, b)
    | none => (a, b)

def execKeyUpdate (session : BitVec 1) (s : State) : Host.Outcome State Fault Refusal :=
  s.endpoint (inSession session fun x a =>
    a.modVault fun v => { v with sessions := v.sessions.wr session (some { x with keyNo := x.keyNo + 1 }) })

def execEndSession (session : BitVec 1) (s : State) : Host.Outcome State Fault Refusal :=
  s.endpoint (inSession session fun _ a => a.dropSession session)

end Sys2Proof.Machine
end

