-- ==== Sys2Proof/Machine/Dispatch.lean ====
section
/-! DEFINITION. Dispatch: one arm per command of the opcode table, each one direct call of its meaning. -/

namespace Sys2Proof.Machine
open Sys2Proof

def exec (i : Instr) (s : State) : Host.Outcome State Fault Refusal :=
  match i with
  | .li p f => Sys2Proof.Machine.execLi p f s
  | .mov p f => Sys2Proof.Machine.execMov p f s
  | .add p f => Sys2Proof.Machine.execAdd p f s
  | .sub p f => Sys2Proof.Machine.execSub p f s
  | .mul p f => Sys2Proof.Machine.execMul p f s
  | .and p f => Sys2Proof.Machine.execAnd p f s
  | .or p f => Sys2Proof.Machine.execOr p f s
  | .xor p f => Sys2Proof.Machine.execXor p f s
  | .shl p f => Sys2Proof.Machine.execShl p f s
  | .shr p f => Sys2Proof.Machine.execShr p f s
  | .cmp p f => Sys2Proof.Machine.execCmp p f s
  | .pclr p f => Sys2Proof.Machine.execPclr p f s
  | .br p f => Sys2Proof.Machine.execBr p f s
  | .loop p f => Sys2Proof.Machine.execLoop p f s
  | .loopv p f => Sys2Proof.Machine.execLoopv p f s
  | .backEdge p => Sys2Proof.Machine.execBackEdge p s
  | .halt p f => Sys2Proof.Machine.execHalt p f s
  | .tset p f => Sys2Proof.Machine.execTset p f s
  | .wait p f => Sys2Proof.Machine.execWait p f s
  | .barrier p f => Sys2Proof.Machine.execBarrier p f s
  | .epochBind p f => Sys2Proof.Machine.execEpochBind p f s
  | .epochFlip p f => Sys2Proof.Machine.execEpochFlip p f s
  | .bankChecking layer kind => Sys2Proof.Machine.execBankChecking layer kind s
  | .flipComplete p => Sys2Proof.Machine.execFlipComplete p s
  | .epochHold p f => Sys2Proof.Machine.execEpochHold p f s
  | .epochHoldIssue p f => Sys2Proof.Machine.execEpochHoldIssue p f s
  | .epochRelease p f => Sys2Proof.Machine.execEpochRelease p f s
  | .govPhase p f => Sys2Proof.Machine.execGovPhase p f s
  | .scoreBf16 p f next => Sys2Proof.Machine.execScoreBf16 p f next s
  | .scoreFp16 p f next => Sys2Proof.Machine.execScoreFp16 p f next s
  | .scoreOfp8 p f next => Sys2Proof.Machine.execScoreOfp8 p f next s
  | .hash p f next => Sys2Proof.Machine.execHash p f next s
  | .select p f => Sys2Proof.Machine.execSelect p f s
  | .sample p f => Sys2Proof.Machine.execSample p f s
  | .place p f => Sys2Proof.Machine.execPlace p f s
  | .count p f => Sys2Proof.Machine.execCount p f s
  | .scan p f => Sys2Proof.Machine.execScan p f s
  | .send p f => Sys2Proof.Machine.execSend p f s
  | .sendPacketEmit p => Sys2Proof.Machine.execSendPacketEmit p s
  | .ringQueueDepart ring => Sys2Proof.Machine.execRingQueueDepart ring s
  | .permute p f => Sys2Proof.Machine.execPermute p f s
  | .gather p f => Sys2Proof.Machine.execGather p f s
  | .scatter p f => Sys2Proof.Machine.execScatter p f s
  | .combineBf16 p f => Sys2Proof.Machine.execCombineBf16 p f s
  | .combineFp16 p f => Sys2Proof.Machine.execCombineFp16 p f s
  | .combineFp32 p f => Sys2Proof.Machine.execCombineFp32 p f s
  | .foldStart p f => Sys2Proof.Machine.execFoldStart p f s
  | .foldWait p f => Sys2Proof.Machine.execFoldWait p f s
  | .foldSettle p f => Sys2Proof.Machine.execFoldSettle p f s
  | .cometReduce p f => Sys2Proof.Machine.execCometReduce p f s
  | .cometBarrier p f => Sys2Proof.Machine.execCometBarrier p f s
  | .vld p f => Sys2Proof.Machine.execVld p f s
  | .vst p f => Sys2Proof.Machine.execVst p f s
  | .vbcast p f => Sys2Proof.Machine.execVbcast p f s
  | .vadd p f => Sys2Proof.Machine.execVadd p f s
  | .vsub p f => Sys2Proof.Machine.execVsub p f s
  | .vmul p f => Sys2Proof.Machine.execVmul p f s
  | .vfma p f => Sys2Proof.Machine.execVfma p f s
  | .vmax p f => Sys2Proof.Machine.execVmax p f s
  | .vmin p f => Sys2Proof.Machine.execVmin p f s
  | .vcmp p f => Sys2Proof.Machine.execVcmp p f s
  | .vsel p f => Sys2Proof.Machine.execVsel p f s
  | .vcvt p f => Sys2Proof.Machine.execVcvt p f s
  | .exp p f => Sys2Proof.Machine.execExp p f s
  | .log p f => Sys2Proof.Machine.execLog p f s
  | .recip p f => Sys2Proof.Machine.execRecip p f s
  | .rsqrt p f => Sys2Proof.Machine.execRsqrt p f s
  | .sigmoid p f => Sys2Proof.Machine.execSigmoid p f s
  | .tanh p f => Sys2Proof.Machine.execTanh p f s
  | .gelu p f => Sys2Proof.Machine.execGelu p f s
  | .silu p f => Sys2Proof.Machine.execSilu p f s
  | .softplus p f => Sys2Proof.Machine.execSoftplus p f s
  | .sin p f => Sys2Proof.Machine.execSin p f s
  | .cos p f => Sys2Proof.Machine.execCos p f s
  | .swiglu p f => Sys2Proof.Machine.execSwiglu p f s
  | .normStat p f => Sys2Proof.Machine.execNormStat p f s
  | .normApply p f => Sys2Proof.Machine.execNormApply p f s
  | .normMax p f => Sys2Proof.Machine.execNormMax p f s
  | .normSum p f => Sys2Proof.Machine.execNormSum p f s
  | .normScale p f => Sys2Proof.Machine.execNormScale p f s
  | .mixSeed p f => Sys2Proof.Machine.execMixSeed p f s
  | .mixDraw p f => Sys2Proof.Machine.execMixDraw p f s
  | .reservedOpcode p word => Sys2Proof.Machine.execReservedOpcode p word s
  | .commandComplete p qidx bubble stack back => Sys2Proof.Machine.execCommandComplete p qidx bubble stack back s
  | .observation part layer => Sys2Proof.Machine.execObservation part layer s
  | .workTileBoundary p qidx => Sys2Proof.Machine.execWorkTileBoundary p qidx s
  | .quantumExpiry part => Sys2Proof.Machine.execQuantumExpiry part s
  | .idle64Cycles part => Sys2Proof.Machine.execIdle64Cycles part s
  | .switchComplete part => Sys2Proof.Machine.execSwitchComplete part s
  | .trump c => Sys2Proof.Machine.execTrump c s
  | .trumpWindowEnd part => Sys2Proof.Machine.execTrumpWindowEnd part s
  | .doorbell by' p tail => Sys2Proof.Machine.execDoorbell by' p tail s
  | .teardownComplete c => Sys2Proof.Machine.execTeardownComplete c s
  | .create by' part c => Sys2Proof.Machine.execCreate by' part c s
  | .kill by' part c => Sys2Proof.Machine.execKill by' part c s
  | .exportCtx by' part c => Sys2Proof.Machine.execExportCtx by' part c s
  | .restore by' part c => Sys2Proof.Machine.execRestore by' part c s
  | .free by' part c => Sys2Proof.Machine.execFree by' part c s
  | .shares by' part c => Sys2Proof.Machine.execShares by' part c s
  | .save by' => Sys2Proof.Machine.execSave by' s
  | .load by' => Sys2Proof.Machine.execLoad by' s
  | .reset by' => Sys2Proof.Machine.execReset by' s
  | .sealOut by' part => Sys2Proof.Machine.execSealOut by' part s
  | .sealIn by' part => Sys2Proof.Machine.execSealIn by' part s
  | .shadowPush die layer => Sys2Proof.Machine.execShadowPush die layer s
  | .ndMemRegimeWrite by' v => Sys2Proof.Machine.execNdMemRegimeWrite by' v s
  | .ndCntCtxWrite by' v => Sys2Proof.Machine.execNdCntCtxWrite by' v s
  | .snapshotComplete path => Sys2Proof.Machine.execSnapshotComplete path s
  | .ndCtxStoreWrite by' v => Sys2Proof.Machine.execNdCtxStoreWrite by' v s
  | .ndFoldGrpWrite by' which v => Sys2Proof.Machine.execNdFoldGrpWrite by' which v s
  | .foldEntryCheck entry => Sys2Proof.Machine.execFoldEntryCheck entry s
  | .ndEpochBankWrite by' size bank v => Sys2Proof.Machine.execNdEpochBankWrite by' size bank v s
  | .ndEpochManWrite by' bank v => Sys2Proof.Machine.execNdEpochManWrite by' bank v s
  | .ndHandCfgWrite by' v => Sys2Proof.Machine.execNdHandCfgWrite by' v s
  | .ndPartArithWrite by' n v => Sys2Proof.Machine.execNdPartArithWrite by' n v s
  | .ndPartCfgWrite by' res n v => Sys2Proof.Machine.execNdPartCfgWrite by' res n v s
  | .ndRegionWrite by' size v => Sys2Proof.Machine.execNdRegionWrite by' size v s
  | .ndRecvWrite by' size die v => Sys2Proof.Machine.execNdRecvWrite by' size die v s
  | .ndSplitWrite by' n v => Sys2Proof.Machine.execNdSplitWrite by' n v s
  | .ndTopoWrite by' v => Sys2Proof.Machine.execNdTopoWrite by' v s
  | .ndVaultCfgWrite by' v => Sys2Proof.Machine.execNdVaultCfgWrite by' v s
  | .ndRingWrite by' tel v => Sys2Proof.Machine.execNdRingWrite by' tel v s
  | .ndPwrPhaseWrite by' n v => Sys2Proof.Machine.execNdPwrPhaseWrite by' n v s
  | .registerWrite by' addr v => Sys2Proof.Machine.execRegisterWrite by' addr v s
  | .ndEvtHeadWrite by' v => Sys2Proof.Machine.execNdEvtHeadWrite by' v s
  | .ndTelHeadWrite by' v => Sys2Proof.Machine.execNdTelHeadWrite by' v s
  | .ringCopy tel => Sys2Proof.Machine.execRingCopy tel s
  | .dealReceive k => Sys2Proof.Machine.execDealReceive k s
  | .fetchReceive k => Sys2Proof.Machine.execFetchReceive k s
  | .returnReceive k => Sys2Proof.Machine.execReturnReceive k s
  | .splitPartialReceive die k => Sys2Proof.Machine.execSplitPartialReceive die k s
  | .openReceive k => Sys2Proof.Machine.execOpenReceive k s
  | .endReceive k => Sys2Proof.Machine.execEndReceive k s
  | .claimReceive k => Sys2Proof.Machine.execClaimReceive k s
  | .grantReceive k => Sys2Proof.Machine.execGrantReceive k s
  | .readyReceive k => Sys2Proof.Machine.execReadyReceive k s
  | .bounceReceive k => Sys2Proof.Machine.execBounceReceive k s
  | .abortReceive k => Sys2Proof.Machine.execAbortReceive k s
  | .packetForward k => Sys2Proof.Machine.execPacketForward k s
  | .exchTimeout c layer w => Sys2Proof.Machine.execExchTimeout c layer w s
  | .computed die layer b => Sys2Proof.Machine.execComputed die layer b s
  | .swapped die layer stamp => Sys2Proof.Machine.execSwapped die layer stamp s
  | .written die op layer tag stamp => Sys2Proof.Machine.execWritten die op layer tag stamp s
  | .discarded die layer b => Sys2Proof.Machine.execDiscarded die layer b s
  | .weightsReceive layer expert offset last stamp data => Sys2Proof.Machine.execWeightsReceive layer expert offset last stamp data s
  | .fdataReceive k => Sys2Proof.Machine.execFdataReceive k s
  | .freadyReceive k => Sys2Proof.Machine.execFreadyReceive k s
  | .fnakReceive k => Sys2Proof.Machine.execFnakReceive k s
  | .fexpReceive k => Sys2Proof.Machine.execFexpReceive k s
  | .fabortReceive k => Sys2Proof.Machine.execFabortReceive k s
  | .localBufferLoad seat => Sys2Proof.Machine.execLocalBufferLoad seat s
  | .foldSeqGap p => Sys2Proof.Machine.execFoldSeqGap p s
  | .foldPeerTimeout seat => Sys2Proof.Machine.execFoldPeerTimeout seat s
  | .cdataReceive k => Sys2Proof.Machine.execCdataReceive k s
  | .cabortReceive k => Sys2Proof.Machine.execCabortReceive k s
  | .cometTimeout p id => Sys2Proof.Machine.execCometTimeout p id s
  | .cpaceReceive k => Sys2Proof.Machine.execCpaceReceive k s
  | .flitReceive port k => Sys2Proof.Machine.execFlitReceive port k s
  | .ctrlFlitReceive port k x => Sys2Proof.Machine.execCtrlFlitReceive port k x s
  | .nakRepeat port => Sys2Proof.Machine.execNakRepeat port s
  | .ctrlFlitInterval port sealBlock => Sys2Proof.Machine.execCtrlFlitInterval port sealBlock s
  | .laneLost port lane => Sys2Proof.Machine.execLaneLost port lane s
  | .weakLane port lane => Sys2Proof.Machine.execWeakLane port lane s
  | .spareLaneRetire port lane => Sys2Proof.Machine.execSpareLaneRetire port lane s
  | .mapGroupSwitch port tx => Sys2Proof.Machine.execMapGroupSwitch port tx s
  | .rekey by' => Sys2Proof.Machine.execRekey by' s
  | .blockCounterWrap port => Sys2Proof.Machine.execBlockCounterWrap port s
  | .rekeyAt port => Sys2Proof.Machine.execRekeyAt port s
  | .retrain by' => Sys2Proof.Machine.execRetrain by' s
  | .enable by' v => Sys2Proof.Machine.execEnable by' v s
  | .detectLock port lanes => Sys2Proof.Machine.execDetectLock port lanes s
  | .trainDone port good => Sys2Proof.Machine.execTrainDone port good s
  | .mapDone port peer peerPort => Sys2Proof.Machine.execMapDone port peer peerPort s
  | .alignDone port => Sys2Proof.Machine.execAlignDone port s
  | .secureDone port => Sys2Proof.Machine.execSecureDone port s
  | .recoverDone port => Sys2Proof.Machine.execRecoverDone port s
  | .linkStateTimeout port => Sys2Proof.Machine.execLinkStateTimeout port s
  | .signalLoss port => Sys2Proof.Machine.execSignalLoss port s
  | .downRetry port => Sys2Proof.Machine.execDownRetry port s
  | .portTrainDone port ok => Sys2Proof.Machine.execPortTrainDone port ok s
  | .dealStageSwap inbound => Sys2Proof.Machine.execDealStageSwap inbound s
  | .dealStageSwapDone inbound => Sys2Proof.Machine.execDealStageSwapDone inbound s
  | .retest unit => Sys2Proof.Machine.execRetest unit s
  | .retestDone unit number pass => Sys2Proof.Machine.execRetestDone unit number pass s
  | .scrubWindowEnd margin => Sys2Proof.Machine.execScrubWindowEnd margin s
  | .rowCopyDone unit row => Sys2Proof.Machine.execRowCopyDone unit row s
  | .scrubRow unit row => Sys2Proof.Machine.execScrubRow unit row s
  | .bankCopyDone bank => Sys2Proof.Machine.execBankCopyDone bank s
  | .rawSample bit => Sys2Proof.Machine.execRawSample bit s
  | .restart by' => Sys2Proof.Machine.execRestart by' s
  | .controlPeriod x => Sys2Proof.Machine.execControlPeriod x s
  | .gov die w0 w1 w2 => Sys2Proof.Machine.execGov die w0 w1 w2 s
  | .poutRead memory links core => Sys2Proof.Machine.execPoutRead memory links core s
  | .railWarning rail level => Sys2Proof.Machine.execRailWarning rail level s
  | .railReset rail => Sys2Proof.Machine.execRailReset rail s
  | .railOrderError repeated => Sys2Proof.Machine.execRailOrderError repeated s
  | .ralertAssert group => Sys2Proof.Machine.execRalertAssert group s
  | .ralertDeassert group => Sys2Proof.Machine.execRalertDeassert group s
  | .kDroop die => Sys2Proof.Machine.execKDroop die s
  | .thermalCrossing sensor celsius => Sys2Proof.Machine.execThermalCrossing sensor celsius s
  | .requestS2 by' => Sys2Proof.Machine.execRequestS2 by' s
  | .requestS3 by' => Sys2Proof.Machine.execRequestS3 by' s
  | .requestS0 by' => Sys2Proof.Machine.execRequestS0 by' s
  | .knownAnswerTests pass => Sys2Proof.Machine.execKnownAnswerTests pass s
  | .block by' => Sys2Proof.Machine.execBlock by' s
  | .bringupClockDone straps => Sys2Proof.Machine.execBringupClockDone straps s
  | .selftestDone bad => Sys2Proof.Machine.execSelftestDone bad s
  | .regRead session addr => Sys2Proof.Machine.execRegRead session addr s
  | .regWrite session addr v => Sys2Proof.Machine.execRegWrite session addr v s
  | .counterLowRead addr => Sys2Proof.Machine.execCounterLowRead addr s
  | .setKey session kind data => Sys2Proof.Machine.execSetKey session kind data s
  | .commitSvn session => Sys2Proof.Machine.execCommitSvn session s
  | .readAudit seq => Sys2Proof.Machine.execReadAudit seq s
  | .signAudit nonce => Sys2Proof.Machine.execSignAudit nonce s
  | .rmaUnlock session statement => Sys2Proof.Machine.execRmaUnlock session statement s
  | .requestUpdate session components => Sys2Proof.Machine.execRequestUpdate session components s
  | .passComponentTable comp => Sys2Proof.Machine.execPassComponentTable comp s
  | .updateComponent comp size => Sys2Proof.Machine.execUpdateComponent comp size s
  | .transferComplete result => Sys2Proof.Machine.execTransferComplete result s
  | .requestFirmwareData offset data => Sys2Proof.Machine.execRequestFirmwareData offset data s
  | .activateFirmware session => Sys2Proof.Machine.execActivateFirmware session s
  | .setEventReceiver eid enable => Sys2Proof.Machine.execSetEventReceiver eid enable s
  | .getSensorReading sensor => Sys2Proof.Machine.execGetSensorReading sensor s
  | .getStateSensorReadings sensor => Sys2Proof.Machine.execGetStateSensorReadings sensor s
  | .getPdr handle => Sys2Proof.Machine.execGetPdr handle s
  | .setTid tid => Sys2Proof.Machine.execSetTid tid s
  | .getPldmVersion type => Sys2Proof.Machine.execGetPldmVersion type s
  | .getPldmCommands type => Sys2Proof.Machine.execGetPldmCommands type s
  | .setEndpointId smbus eid => Sys2Proof.Machine.execSetEndpointId smbus eid s
  | .getEndpointId smbus => Sys2Proof.Machine.execGetEndpointId smbus s
  | .negotiateAlgorithms acceptable => Sys2Proof.Machine.execNegotiateAlgorithms acceptable s
  | .getCertificate slot offset length => Sys2Proof.Machine.execGetCertificate slot offset length s
  | .challenge nonce => Sys2Proof.Machine.execChallenge nonce s
  | .getMeasurements index nonce => Sys2Proof.Machine.execGetMeasurements index nonce s
  | .keyExchange exchange mutualAuth => Sys2Proof.Machine.execKeyExchange exchange mutualAuth s
  | .encapsulatedResponse session chain digest => Sys2Proof.Machine.execEncapsulatedResponse session chain digest s
  | .finish session ok => Sys2Proof.Machine.execFinish session ok s
  | .heartbeat session => Sys2Proof.Machine.execHeartbeat session s
  | .heartbeatMissed session => Sys2Proof.Machine.execHeartbeatMissed session s
  | .keyUpdate session => Sys2Proof.Machine.execKeyUpdate session s
  | .endSession session => Sys2Proof.Machine.execEndSession session s
  | .fetch => Sys2Proof.Machine.execFetch s
  | .doorbellApply => Sys2Proof.Machine.execDoorbellApply s
  | .contextOpComplete => Sys2Proof.Machine.execContextOpComplete s
  | .ephemerisOpComplete => Sys2Proof.Machine.execEphemerisOpComplete s
  | .vaultOpComplete => Sys2Proof.Machine.execVaultOpComplete s
  | .vaultVerdict => Sys2Proof.Machine.execVaultVerdict s
  | .regimeChange => Sys2Proof.Machine.execRegimeChange s
  | .contextStoreInit => Sys2Proof.Machine.execContextStoreInit s
  | .telemetrySample => Sys2Proof.Machine.execTelemetrySample s
  | .pacingRound => Sys2Proof.Machine.execPacingRound s
  | .quadRetire => Sys2Proof.Machine.execQuadRetire s
  | .chipFailedWriteoutDone => Sys2Proof.Machine.execChipFailedWriteoutDone s
  | .startupTestEnd => Sys2Proof.Machine.execStartupTestEnd s
  | .conditionedBlock => Sys2Proof.Machine.execConditionedBlock s
  | .drbgReseed => Sys2Proof.Machine.execDrbgReseed s
  | .drbgGenerate => Sys2Proof.Machine.execDrbgGenerate s
  | .calibration => Sys2Proof.Machine.execCalibration s
  | .coolingBlock => Sys2Proof.Machine.execCoolingBlock s
  | .opStepDone => Sys2Proof.Machine.execOpStepDone s
  | .supplyHoldEnd => Sys2Proof.Machine.execSupplyHoldEnd s
  | .supplyStepUp => Sys2Proof.Machine.execSupplyStepUp s
  | .droopDetect => Sys2Proof.Machine.execDroopDetect s
  | .s1Entry => Sys2Proof.Machine.execS1Entry s
  | .s1Wake => Sys2Proof.Machine.execS1Wake s
  | .s2WakeDone => Sys2Proof.Machine.execS2WakeDone s
  | .s3WakeDone => Sys2Proof.Machine.execS3WakeDone s
  | .aonRstN => Sys2Proof.Machine.execAonRstN s
  | .aonResetRelease => Sys2Proof.Machine.execAonResetRelease s
  | .blkRstN => Sys2Proof.Machine.execBlkRstN s
  | .blockResetRelease => Sys2Proof.Machine.execBlockResetRelease s
  | .repairDone => Sys2Proof.Machine.execRepairDone s
  | .clearDone => Sys2Proof.Machine.execClearDone s
  | .bringupTrainDone => Sys2Proof.Machine.execBringupTrainDone s
  | .verifyComplete => Sys2Proof.Machine.execVerifyComplete s
  | .applyComplete => Sys2Proof.Machine.execApplyComplete s
  | .firmwareRestartDone => Sys2Proof.Machine.execFirmwareRestartDone s
  | .getStatus => Sys2Proof.Machine.execGetStatus s
  | .cancelUpdateComponent => Sys2Proof.Machine.execCancelUpdateComponent s
  | .cancelUpdate => Sys2Proof.Machine.execCancelUpdate s
  | .queryDeviceIdentifiers => Sys2Proof.Machine.execQueryDeviceIdentifiers s
  | .getFirmwareParameters => Sys2Proof.Machine.execGetFirmwareParameters s
  | .getPdrRepositoryInfo => Sys2Proof.Machine.execGetPdrRepositoryInfo s
  | .pollForPlatformEventMessage => Sys2Proof.Machine.execPollForPlatformEventMessage s
  | .getTid => Sys2Proof.Machine.execGetTid s
  | .getPldmTypes => Sys2Proof.Machine.execGetPldmTypes s
  | .getEndpointUuid => Sys2Proof.Machine.execGetEndpointUuid s
  | .getMctpVersionSupport => Sys2Proof.Machine.execGetMctpVersionSupport s
  | .getMessageTypeSupport => Sys2Proof.Machine.execGetMessageTypeSupport s
  | .getVersion => Sys2Proof.Machine.execGetVersion s
  | .getCapabilities => Sys2Proof.Machine.execGetCapabilities s
  | .getDigests => Sys2Proof.Machine.execGetDigests s

end Sys2Proof.Machine
end

