-- ==== Sys2Proof/Machine/Tick.lean ====
section
/-! DEFINITION. Tick: what one period of the clock changes when no command is waiting (log 3): an ECLK cycle
(22 R547), or an AONCLK period where no ECLK runs. -/

namespace Sys2Proof.Machine
open Sys2Proof

/-- How far one ECLK cycle at an operating point goes in an AONCLK period of 40 ns, in 978,880ths of half a cycle each (18 R453; 20 R516). -/
def aonPart (op : BitVec 3) : Nat :=
  match op.toNat with
  | 0 => 15295
  | 1 => 13984
  | 2 => 12880
  | 3 => 12236
  | _ => 10640

/-- The AONCLK count after one ECLK cycle, which is half as long again where it was stretched (01 R24; 18 R468). -/
def Aon.aonCycle (a : Aon) (stretched : Bool) : Aon :=
  let p := a.phase + (if stretched then 3 else 2) * aonPart a.gov.op
  if p < 978880 then { a with phase := p } else { a with phase := p - 978880, count := a.count + 1 }

/-- Whether ECLK runs: not in RESET, S2 or S3 (18 R458; 21 R528). -/
def eclkRuns (a : Aon) (b : Blk) : Bool := b.start.stage != 0 && a.gov.sleep != .s2 && a.gov.sleep != .s3

/-- The cycle a queue's head spends in a wait that FOLD_WAIT or COMET_WAIT counts (08 R209; 09 R247).
DESIGN CHOICE: FOLD_WAIT counts waits for chunks alone (log 71). -/
def Blk.countWait (b : Blk) (c : CtxId) (u : Queue) : Blk :=
  if !u.waiting then b
  else
    match u.outside with
    | some (.fold _ _) => b.addCtx c Cnt.foldWait 1
    | some (.comet _) => b.addCtx c Cnt.cometWait 1
    | some (.areas reads writes) => if b.cometBlocks reads writes then b.addCtx c Cnt.cometWait 1 else b
    | _ => b

/-- What a context counts in the cycle that ends (12 R322; 14 R378): a head waits that has not issued in it. -/
def Blk.countCtx (b : Blk) (c : CtxId) : Blk :=
  let x := b.ctx c
  if !x.alive then b
  else
    let b := if (b.slot x.part).running = some c then b.addOwn c Cnt.run 1 else b
    let b := if x.queues.any fun u => u.ready && !u.pairOpen && u.nextAt < b.cycle.toNat then b.addCtx c Cnt.issueWait 1 else b
    queueNums.foldl (fun b q => b.countWait c (x.que q)) b

/-- A run slot whose context has a command in flight or an issuable instruction is not idle (R371). -/
def Blk.slotCycle (b : Blk) (n : PartId) : Blk :=
  let s := b.slot n
  match s.running with
  | none => b
  | some c =>
    if (b.inFlight c).isEmpty && !(queueNums.any fun q => ((b.ctx c).que q).issuable) then b
    else b.setSlot n { s with idleFrom := b.cycle.toNat }

/-- Done predicates that this cycle sets (R305). -/
def Blk.setDones (b : Blk) : Blk :=
  (b.ctxIds.filter fun c => !(b.ctx c).dones.isEmpty).foldl (fun b c => b.modCtx c fun x => x.dueDones b.cycle.toNat) b

/-- Seats whose abort handling is complete are FREE (08 R208; log 61). -/
def Blk.freeSeats (b : Blk) : Blk :=
  (seatNums.filter fun n => (b.seat n).st == .faulted).foldl (fun b n => b.setSeat n (b.seat n).freed) b

/-- Credit counts that go back to the peers with this cycle: none in one that a bubble takes (01 R15; 17 R424). -/
def Blk.returnCredit (b : Blk) : Blk :=
  if bit b.bubble.toNat 2 then b
  else ((List.range 11).map (BitVec.ofNat 4)).foldl (fun b i =>
    let l := b.link i
    if l.returned = l.rxWords then b
    else
      let b := b.setLink i { l with returned := l.rxWords }
      if l.st == .up then b.idleRow i else b) b

/-- The cycle a working block counts. -/
def Blk.workCycle (b : Blk) : Blk :=
  let b := b.setDones
  let b := b.ctxIds.foldl Blk.countCtx b
  let b := if parts.any fun n => (b.slot n).running.isSome then b.addInst (0x2000 + 8 * Cnt.run) 1 else b
  (parts.foldl Blk.slotCycle b).resumeDirs true

/-- Whether a cycle of a run of 64 carries a bubble: the 6-bit reversal of its place lies below the count (18 R465). -/
def bubbleAt (n cycle : Nat) : Bool :=
  let j := cycle % 64
  field j 0 0 * 32 + field j 1 1 * 16 + field j 2 2 * 8 + field j 3 3 * 4 + field j 4 4 * 2 + field j 5 5 < n

/-- The bubbles that the governor's counts put into a cycle (R15). -/
def Gov.bubbleBits (g : Gov) (cycle : Nat) : BitVec 3 :=
  BitVec.ofNat 3 (b01 (bubbleAt g.bubbles.compute cycle) + 2 * b01 (bubbleAt g.bubbles.memory cycle)
    + 4 * b01 (bubbleAt g.bubbles.links cycle))

/-- The activity energy beside that of completed commands goes to the governor's window, and at the present calibration to the
contexts' counters, of which each keeps what makes no whole unit (14 R380; 18 R472, R473). -/
def flushBurn (x : Pair') : Pair' :=
  let (a, b) := x
  let g := a.gov.gain
  let due := b.burns.filter fun q => (b.ctx q.1).alive
  let b := due.foldl (fun b q => b.addOwn q.1 Cnt.energy (energyUnits q.2 g)) b
  (a.modGov fun y => y.addEnergy b.burnt,
    { b with burnt := 0, burns := (due.map fun q => (q.1, q.2 * g % 40000000 / g)).filter fun q => q.2 != 0 })

/-- A bubble in M0 requests takes the slot of this cycle from the commands that run (01 R15; 18 R465). -/
def Blk.takeBubble (b : Blk) : Blk :=
  if !bit b.bubble.toNat 1 then b
  else { b with flights := b.flights.map fun f => if f.suspended.isSome || f.m0Cycles = 0 then f else { f with bubbled := f.bubbled + 1 } }

/-- The event that ends S1 is noted (18 R459). -/
def Aon.noteS1 (a : Aon) (b : Blk) : Aon :=
  if a.gov.sleep == .s1 && a.gov.s1Event.isNone && !s1Quiet a b then a.modGov fun g => { g with s1Event := some b.cycle.toNat } else a

/-- Packets with damaged words that wait in a far queue are read as they may leave (06 R173; 19 R476). -/
def Blk.readFar (b : Blk) : Blk :=
  ((List.range 6).map (BitVec.ofNat 4)).foldl (fun b i =>
    if (b.link i).wait.any fun p => !p.hurt.isEmpty then b.pumpLink i else b) b

/-- One ECLK cycle. -/
def eclkCycle (x : Pair') : Pair' :=
  let (a, b) := x
  let a := a.aonCycle (b.stretchAt = some b.cycle.toNat)
  let a := a.noteS1 b
  let b := b.takeBubble
  let b : Blk := { b with cycle := b.cycle + 1, bubble := a.gov.bubbleBits (b.cycle + 1).toNat }
  let (a, b) := drainComets (a, b.freeSeats.returnCredit.drainFolds.readFar)
  let b := if b.working then b.workCycle else b
  let b := if a.gov.sleep == .s1 then b.addInst Cnt.pwrS1 1 else b
  let x := if a.gov.sleep == .s2 || b.heldBells.isEmpty then (a, b) else freeBells (a, b)
  flushBurn (x.1.modGov fun g => { g with idle := if s1Ready x.1 x.2 then g.idle + 1 else 0 }, x.2)

/-- The next period of the clock: of ECLK where it runs, else of AONCLK; while the AON reset is asserted, none. -/
def clock (x : Pair') : Pair' :=
  if x.1.held then x
  else if eclkRuns x.1 x.2 then flushRepairs (eclkCycle x)
  else ({ x.1 with count := x.1.count + 1 }, x.2)

/-- What passes when no command waits. -/
def tick (s : State) : State := { s with aon := (clock (s.aon, s.blk)).1, blk := (clock (s.aon, s.blk)).2 }

end Sys2Proof.Machine
end

