-- ==== Sys2Proof/WellFormed.lean ====
section
/-! DEFINITION. WellFormed: which commands the world can send: a message whose payload has the length its header
gives, a port and a die that exist, a key statement of its length. What breaks a rule of the spec inside a
well-formed command is met by the command's meaning. -/

namespace Sys2Proof

/-- A port of ND_LINK_SEL (22 R449): far links 0 to 5, orbit links 6 and 7, die links 8 to 10. -/
def portOk (port : BitVec 4) : Bool := port.toNat < 11

/-- A compute die (01 R11): 0 to 2. -/
def dieOk (die : BitVec 2) : Bool := die.toNat < 3

/-- An exchange packet carries as many payload bytes as its header says (R166). -/
def Packet.wf (k : Packet) : Bool := k.payload.length = k.hdr.bytes.toNat

/-- A fold packet carries a payload on FDATA and FEXP alone (R220). -/
def FoldPkt.wf (k : FoldPkt) : Bool :=
  k.payload.length = if k.hdr.kind = 1 || k.hdr.kind = 4 then k.hdr.bytes.toNat else 0

/-- A comet message's payload has its header's length (R244). -/
def CometMsg.wf (k : CometMsg) : Bool := k.payload.length = k.len.toNat

/-- A flit has the fixed payload of its port, and comes with no codewords or with the four of its group (R422, R432). -/
def Flit.wf (k : Flit) (far : Bool) : Bool :=
  k.payload.length = (if far then 248 else 256) && k.place.toNat < 10
    && (k.fec.isEmpty || (far && k.fec.length = 4 && k.fec.all (·.length = 528)))

/-- Well-formed commands. -/
def Instr.wf : Instr → Bool
  | .dealReceive k => k.wf
  | .fetchReceive k => k.wf
  | .returnReceive k => k.wf
  | .splitPartialReceive die k => dieOk die && k.wf
  | .openReceive k => k.wf
  | .endReceive k => k.wf
  | .claimReceive k => k.wf
  | .grantReceive k => k.wf
  | .readyReceive k => k.wf
  | .bounceReceive k => k.wf
  | .abortReceive k => k.wf
  | .packetForward k => k.wf
  | .computed die _ _ => dieOk die
  | .swapped die _ _ => dieOk die
  | .written die _ _ _ _ => dieOk die
  | .discarded die _ _ => dieOk die
  | .shadowPush die _ => dieOk die
  | .fdataReceive k => k.wf
  | .freadyReceive k => k.wf
  | .fnakReceive k => k.wf
  | .fexpReceive k => k.wf
  | .fabortReceive k => k.wf
  | .cdataReceive k => k.wf
  | .cabortReceive k => k.wf
  | .cpaceReceive k => k.wf
  | .flitReceive port k => portOk port && k.wf (port.toNat < 6)
  | .ctrlFlitReceive port k x => portOk port && k.wf (port.toNat < 6) && x = Machine.ctrlOfBytes k.payload
  | .nakRepeat port => portOk port
  | .ctrlFlitInterval port _ => portOk port
  | .laneLost port _ => portOk port
  | .weakLane port _ => portOk port
  | .spareLaneRetire port _ => portOk port
  | .mapGroupSwitch port _ => portOk port
  | .blockCounterWrap port => portOk port
  | .rekeyAt port => portOk port
  | .detectLock port _ => portOk port
  | .trainDone port _ => portOk port
  | .mapDone port _ _ => portOk port
  | .alignDone port => portOk port
  | .secureDone port => portOk port
  | .recoverDone port => portOk port
  | .linkStateTimeout port => portOk port
  | .signalLoss port => portOk port
  | .downRetry port => portOk port
  | .portTrainDone port _ => portOk port
  | .kDroop die => dieOk die
  | .gov die _ _ _ => dieOk die
  | _ => true

end Sys2Proof
end

