-- ==== Sys2Proof/Safety.lean ====
section
/-! DEFINITION. Safety: the terms the statements use: a safe step, a command that runs, and when the instruction at
the head of a queue issues. -/

namespace Sys2Proof.Machine
open Sys2Proof

/-- The machine goes on. -/
def Safe (s : State) : Prop := ∃ t, step s = .next t

/-- A command answers a next state, of which `Q` holds. -/
def Runs (c : Instr) (s : State) (Q : State → Prop) : Prop := ∃ t, exec c s = .next t ∧ Q t

/-- The instruction at the head of a queue stands clear of everything that holds an instruction back whatever it is:
the sequencer looks at the queue, no pair is open, its guard holds, the registers it names are not pending, and neither
a flip nor a `comet.barrier` of its queue is in its way (R303, R311, R325). -/
def Blk.clear (a : Aon) (b : Blk) (p : Site) (g : Guard) (regs : List Nat) : Bool :=
  b.open a p && !(b.que p).pairOpen && b.regsFree p.ctx g [] && (b.ctx p.ctx).guard g && !b.behindBarrier p
    && b.regsFree p.ctx g regs && !b.behindFlip p

/-- An instruction that completes as it issues does so now, without a fault. -/
def Blk.quickGoes (a : Aon) (b : Blk) (p : Site) (q : Quick) : Bool :=
  let n := q.now b (b.ctx p.ctx) (b.que p)
  b.clear a p q.g q.regs && !n.wait && (n.ledger == 0 || b.slotsFor a p != 0) && !q.bad && n.faults.isEmpty
    && ((b.que p).chargeFaults q.k n.ledger).isEmpty

/-- The plan of an instruction that starts a command. -/
def Blk.planOf (b : Blk) (p : Site) (r : Req) : Plan := r.plan b (b.ctx p.ctx) (b.que p)

/-- An instruction that starts a command starts it now, without a fault. -/
def Blk.reqGoes (a : Aon) (b : Blk) (p : Site) (r : Req) : Bool :=
  let n := b.planOf p r
  b.clear a p r.g r.regs && (r.k == .control || (b.ownedHeld (b.ctx p.ctx) r.regs).isNone) && !n.wait && !b.areaWaits p n
    && !b.planWaits a p r.w n && !r.bad && n.faults.isEmpty && ((b.que p).chargeFaults r.k n.ledger).isEmpty

/-- Every record of the stream has been seen by the management plane: no command is under way. -/
def State.Seen (s : State) : Prop := s.blk.posted = []

/-- The management endpoint serves a request: no AON reset holds it, and it has seen every record. -/
def State.serves (s : State) : Prop := s.aon.held = false ∧ s.Seen

/-- The block is as before but for contexts, run slots, counters, the issue slots of the cycle and the instructions whose
ledger runs: memory, tables, links, the exchange, folds, registers of the window and outputs are untouched. -/
def Blk.sameBut (b c : Blk) : Prop :=
  c = { b with ctxs := c.ctxs, slots := c.slots, counters := c.counters, issueCycle := c.issueCycle,
               issueCount := c.issueCount, shorts := c.shorts }

/-- Memory is as before, and in canonical form where it was, but for descriptors that the context cache wrote back to the
context store (14 R357, R361). -/
def Blk.memKept (b c : Blk) : Prop :=
  c.mem.scratch = b.mem.scratch ∧ c.mem.flips = b.mem.flips ∧ c.mem.badMac = b.mem.badMac ∧ c.mem.poison = b.mem.poison
    ∧ (b.mem.stack.wf = true → c.mem.stack.wf = true
      ∧ ∀ a, a < b.storeAddr 0 ∨ b.storeAddr 0 + 64 * 2 ^ 18 ≤ a → c.mem.stack.rd a = b.mem.stack.rd a)

/-- Of one context, nothing changed but one queue, its passes, counters and predicates. -/
def Ctx.sameBut (x y : Ctx) (q : BitVec 2) : Prop :=
  y = { x with queues := y.queues, preds := y.preds, dones := y.dones, pass := y.pass, counters := y.counters,
               doneAt := y.doneAt, doneSet := y.doneSet, wroteAt := y.wroteAt, wrote := y.wrote } ∧ ∀ r, r ≠ q → y.que r = x.que r

/-- What an instruction of a queue that only touches its own queue and predicates leaves alone. -/
def State.onlyQueue (s t : State) (p : Site) : Prop :=
  t.pending = s.pending ∧ t.aon = s.aon ∧ s.blk.sameBut t.blk ∧ (∀ d, d ≠ p.ctx → t.blk.ctx d = s.blk.ctx d)
    ∧ (s.blk.ctx p.ctx).sameBut (t.blk.ctx p.ctx) p.queue

/-! ### Terms of the control-class statements -/

/-- The two-operand scalar instructions with the function of R331 that each computes. -/
def scalarOps : List ((Site → RFields → Instr) × Nat × (Word → Word → Word)) :=
  [(.add, 0x03, fun x y => BitVec.ofNat 32 (x.toNat + y.toNat)),
   (.sub, 0x04, fun x y => BitVec.ofInt 32 ((x.toNat : Int) - y.toNat)),
   (.mul, 0x05, fun x y => BitVec.ofNat 32 (x.toNat * y.toNat)),
   (.and, 0x06, fun x y => x &&& y), (.or, 0x07, fun x y => x ||| y), (.xor, 0x08, fun x y => x ^^^ y),
   (.shl, 0x09, fun x y => BitVec.ofNat 32 (x.toNat * 2 ^ (y.toNat % 32))),
   (.shr, 0x0A, fun x y => BitVec.ofNat 32 (x.toNat / 2 ^ (y.toNat % 32)))]

/-- What R332 says of the condition codes 0 to 7 on two words. -/
def condMeans (cc : BitVec 4) (x y : Word) : Prop :=
  match cc.toNat with
  | 0 => x.toNat = y.toNat
  | 1 => x.toNat ≠ y.toNat
  | 2 => x.toInt < y.toInt
  | 3 => x.toInt ≤ y.toInt
  | 4 => y.toInt < x.toInt
  | 5 => y.toInt ≤ x.toInt
  | 6 => x.toNat < y.toNat
  | _ => y.toNat ≤ x.toNat

/-- A predicate that a completing command set in this cycle, or an instruction of a higher queue wrote, keeps its value
over the result of an instruction of queue `p` (R304). -/
def Blk.doneNow (b : Blk) (p : Site) (n : BitVec 3) : Bool := (b.ctx p.ctx).overruled b.cycle.toNat p.queue.toNat (regP n)

/-- A predicate of a context is written in this cycle by a completing command or by an instruction, whose result stands over
the clearing of a done predicate (R304). -/
def Blk.writtenNow (b : Blk) (c : CtxId) (n : BitVec 3) : Bool :=
  let x := b.ctx c
  x.overruled b.cycle.toNat 0 (regP n) || (x.wroteAt == b.cycle.toNat && x.wrote.any fun w => w.1 == regP n)

/-- No word of an array other than the scratchpad is damaged (R54). -/
def Blk.intact (b : Blk) (u : Nat) : Bool := b.mem.hurt.all fun h => h.1 / 2 ^ 40 != u

/-- A message has been handed to a port: it has left, or it waits there for the flits it may still send (R423, R437). -/
def Blk.handed (b : Blk) (q : Port) (o : Out) : Prop := o ∈ b.out ∨ ∃ p ∈ (b.link q.ix).wait, p.out = o

/-- The innermost loop `l` of a queue takes its back-edge now, without a fault. -/
def Blk.edgeGoes (a : Aon) (b : Blk) (p : Site) (l : LoopLv) : Bool :=
  let u := b.que p
  b.looks a p && !u.pairOpen && u.atBackEdge
    && u.loops.head? == some l && !(decide (2 ≤ l.test.toNat) && (b.pending p.ctx).contains (regP l.pred))
    && !u.runOver .control 1 && (u.overCap 1).isNone

/-- Whether a loop goes round again as its back-edge is taken (R313): a count that has not run out, WHILE with its
predicate 1, UNTIL with it 0. -/
def LoopLv.again (l : LoopLv) (x : Ctx) : Bool :=
  match l.test.toNat with
  | 0 => l.trips != 1
  | 1 => l.trips != 1
  | 2 => x.pred l.pred
  | _ => !x.pred l.pred

/-- A `barrier` of queue `p` passes now: every other queue that its mask names stands at a `barrier` with the same mask, and
what the queues of the mask issued has completed (R312). -/
def Blk.barrierGoes (a : Aon) (b : Blk) (p : Site) (f : RFields) : Bool :=
  let x := b.ctx p.ctx
  let qs := x.barrierSet p f.m
  b.clear a p f.g [] && !barrierBad f && decide (qs.length ≤ b.slotsFor a p)
    && (maskQueues f.m).all (fun q => (q == p.queue || x.atBarrier f.m q) && !b.unfinished p.ctx q)
    && (qs.filter (· != p.queue)).all (fun q => ((x.que q).overCap 1).isNone) && ((b.que p).chargeFaults .other 1).isEmpty

/-! ### Terms of the statements on commands in flight -/

/-- A command has started and is in flight: `fl` is the last of the flights, its queue stands at the next entry. -/
def State.launched (s t : State) (p : Site) (w : Quad) (dp : BitVec 3) (fl : Flight) : Prop :=
  t.blk.flights = s.blk.flights ++ [fl] ∧ fl.ctx = p.ctx ∧ fl.queue = p.queue ∧ fl.qidx = (s.blk.que p).pc ∧ fl.word = w
    ∧ fl.dp = dp ∧ fl.issued = s.blk.cycle.toNat ∧ fl.suspended = none ∧ (t.blk.que p).pc = (s.blk.que p).pc + 1
    ∧ t.pending = s.pending

/-- An instruction whose command does its work through the effects of its plan alone: the instruction, what it asks of
the sequencer, its opcode, the units its command holds (R346). -/
structure Starter where
  c : Instr
  r : Req
  op : Nat
  units : List Unit'

/-- The instructions of tally, deal, collect, fold (but for the start), lanes, functions, norms, mixer, hand and `tset`
that start such a command. -/
def starters (a : Aon) (b : Blk) (p : Site) (f : RFields) (fi : IFields) (fc : CFields) : List Starter :=
  [⟨.tset p fi, tsetReq fi, 0x11, []⟩, ⟨.sample p f, b.sampleReq p f, 0x29, [.hand, .pipes]⟩,
   ⟨.place p f, b.placeReq p f, 0x30, [.tally]⟩, ⟨.count p f, b.countReq p f, 0x31, [.tally]⟩,
   ⟨.scan p f, b.scanReq p f, 0x32, [.tally]⟩, ⟨.permute p f, b.permuteReq p f, 0x39, [.outbound, .inbound]⟩,
   ⟨.gather p f, b.gatherReq p f, 0x3A, [.outbound, .inbound]⟩,
   ⟨.scatter p f, b.scatterReq p f, 0x3B, [.outbound, .inbound]⟩,
   ⟨.combineBf16 p fc, b.combineReq p 0 fc, 0x40, [.collect, .inbound]⟩,
   ⟨.combineFp16 p fc, b.combineReq p 1 fc, 0x41, [.collect, .inbound]⟩,
   ⟨.combineFp32 p fc, b.combineReq p 2 fc, 0x42, [.collect, .inbound]⟩,
   ⟨.foldWait p f, foldWaitReq p f, 0x49, []⟩, ⟨.foldSettle p f, foldSettleReq p f, 0x4A, []⟩,
   ⟨.vld p f, b.vldReq p f, 0x50, [.lanes]⟩, ⟨.vst p f, b.vstReq p f, 0x51, [.lanes]⟩,
   ⟨.vbcast p f, b.vbcastReq p f, 0x52, [.lanes]⟩, ⟨.vadd p f, b.vaddReq p f, 0x53, [.lanes]⟩,
   ⟨.vsub p f, b.vsubReq p f, 0x54, [.lanes]⟩, ⟨.vmul p f, b.vmulReq p f, 0x55, [.lanes]⟩,
   ⟨.vfma p f, b.vfmaReq p f, 0x56, [.lanes]⟩, ⟨.vmax p f, b.vmaxReq p f, 0x57, [.lanes]⟩,
   ⟨.vmin p f, b.vminReq p f, 0x58, [.lanes]⟩, ⟨.vcmp p f, b.vcmpReq p f, 0x59, [.lanes]⟩,
   ⟨.vsel p f, b.vselReq p f, 0x5A, [.lanes]⟩, ⟨.vcvt p f, b.vcvtReq p f, 0x5B, [.lanes]⟩,
   ⟨.exp p f, b.fnReq p 0x60 f false true (fn1 0), 0x60, [.lanes]⟩,
   ⟨.log p f, b.fnReq p 0x61 f false false (fn1 1), 0x61, [.lanes]⟩,
   ⟨.recip p f, b.fnReq p 0x62 f false false (fn1 2), 0x62, [.lanes]⟩,
   ⟨.rsqrt p f, b.fnReq p 0x63 f false false (fn1 3), 0x63, [.lanes]⟩,
   ⟨.sigmoid p f, b.fnReq p 0x64 f false false (fn1 4), 0x64, [.lanes]⟩,
   ⟨.tanh p f, b.fnReq p 0x65 f false false (fn1 5), 0x65, [.lanes]⟩,
   ⟨.gelu p f, b.fnReq p 0x66 f false false (fn1 6), 0x66, [.lanes]⟩,
   ⟨.silu p f, b.fnReq p 0x67 f false false (fn1 7), 0x67, [.lanes]⟩,
   ⟨.softplus p f, b.fnReq p 0x68 f false false (fn1 8), 0x68, [.lanes]⟩,
   ⟨.sin p f, b.fnReq p 0x69 f false false (fn1 9), 0x69, [.lanes]⟩,
   ⟨.cos p f, b.fnReq p 0x6A f false false (fn1 10), 0x6A, [.lanes]⟩,
   ⟨.swiglu p f, b.fnReq p 0x6B f true false fun u v => toF32 (fnSwiglu (valOf u) (valOf v)), 0x6B, [.lanes]⟩,
   ⟨.normStat p f, b.normStatReq p f, 0x70, [.lanes]⟩, ⟨.normApply p f, b.normApplyReq p f, 0x71, [.lanes]⟩,
   ⟨.normMax p f, b.normMaxReq p f, 0x72, [.lanes]⟩, ⟨.normSum p f, b.normSumReq p f, 0x73, [.lanes]⟩,
   ⟨.normScale p f, b.normScaleReq p f, 0x74, [.lanes]⟩, ⟨.mixSeed p f, b.mixSeedReq a p f, 0x78, []⟩,
   ⟨.mixDraw p f, b.mixDrawReq p f, 0x79, [.mixer]⟩]

/-- The pair of a `score` or `hash` and the `select` in the next entry issues its first member now, without a fault. -/
def Blk.pairGoes (a : Aon) (b : Blk) (p : Site) (w next : Quad) (f : RFields) (bad : Bool) (regs : List Nat) (s : ScoreIn) :
    Bool :=
  let u := b.que p
  let x := b.ctx p.ctx
  let sf := decR next
  let sel := b.selIn x p s.layer sf
  let ld := s.ledger sel.c
  let plan : Plan := {
    units := [.gate],
    reads := (if s.hash then [] else b.rangeOf x.part s.tokens) ++ b.rangesO x.part [s.idx] ++ b.selReads x.part sel,
    writes := b.selWrites x.part sel }
  b.open a p && !b.pairStands && decide (2 ≤ u.left.toNat) && opcodeOf next == 0x28 && sf.g.ginv == f.g.ginv
    && sf.g.gpred == f.g.gpred && b.regsFree p.ctx f.g [] && b.regsFree p.ctx sf.g [] && decide (2 ≤ b.slotsFor a p) && x.guard f.g
    && b.regsFree p.ctx f.g regs
    && b.regsFree p.ctx sf.g ([regS p sf.b] ++ [sf.c, sf.d, sf.e, sf.f, sf.gg].flatMap regD) && !b.behindFlip p
    && !b.behindBarrier p && !(sel.first && b.heldFor x.part s.layer) && !b.areaWaits p plan
    && decide (b.flying p.ctx + 2 ≤ 16) && !b.sampling && !b.planWaits a p w plan && !b.unitOut 0x28 && !b.selWaits x sel s.layer
    && (pairFault (operandFaults bad ++ s.faults sel.c ++ u.chargeFaults .other ld)
      (operandFaults (b.selBad x sf) ++ b.selFaults x sel s.layer s.t s.e
        ++ u.chargeFaults .other (ld + sel.ledger s.hash s.e))).isNone

/-! ### Terms of the statements on faults, seats and registers -/

/-- A fault stands in the stream with its code and detail A, and every queue of its context reads DEAD (R349, R350). -/
def State.faulted (t : State) (c : CtxId) (code a : Nat) : Prop :=
  (∀ q, ((t.blk.ctx c).que q).dead = true)
    ∧ ∃ r ∈ t.blk.evts, r.event = false ∧ r.ctx = some c ∧ r.code.toNat = code ∧ r.a.toNat = a

/-- A seat has `P`, unless what the seat then sent faulted its context and ended its collective. -/
def Blk.seatHas (b : Blk) (n : BitVec 4) (P : Seat → Prop) : Prop := (b.seat n).live = false ∨ P (b.seat n)

/-- A write of a register by a path is carried out at once, names no field that its role may not change, and no check
refuses it: the register's table row, its index and the value that its fields take (R8, R9, R495, R496, R530, R543). -/
structure State.Writes (s : State) (r : Requester) (addr : Nat) (v : Word) (d : RegDef) (i : Nat) (new : Word) : Prop where
  now : accessHeld r addr true (s.aon, s.blk) = false
  plain : addr < 0x400000 ∧ addr % 4 = 0
  quiet : s.blk.pathHeld (reqPath r) = false
  reg : ∃ k, regAt addr = some (d, k) ∧ s.blk.ixOf s.aon (reqPath r) d k = some i
  value : new = d.merge (s.aon.roleOf r) (s.blk.value s.aon (reqPath r) (s.aon.roleOf r) d i) v
  rights : ∀ f ∈ d.differing (s.blk.value s.aon (reqPath r) (s.aon.roleOf r) d i) v,
    mayWrite (s.aon.roleOf r) d.off v f = true
  passes : writeRefused d.off i (d.addr i) (s.blk.value s.aon (reqPath r) (s.aon.roleOf r) d i) new (s.aon, s.blk) = none

/-- The value a register shows now. -/
def State.shows (s : State) (r : Requester) (d : RegDef) (i : Nat) : Word :=
  s.blk.value s.aon (reqPath r) (s.aon.roleOf r) d i

/-- Registers whose write does more than store the value, or that stand in the always-on domain. -/
def ownEffect : List Nat :=
  [0x010, 0x014, 0x01C, 0x028, 0x210, 0x350, 0x404, 0x504, 0x544, 0x600, 0x604, 0x61C, 0x744, 0x804, 0x80C, 0x900, 0x910,
   0x1000]

/-- The commands that write one register, each with its address in the window. -/
def writers (r : Requester) (v : Word) (n : PartId) (die : BitVec 2) (z k : Bool) : List (Instr × Nat) :=
  [(.ndHandCfgWrite r v, 0x344), (.ndPartArithWrite r n v, 0x10C + 0x20 * n.toNat),
   (.ndPartCfgWrite r z n v, 0x100 + 4 * b01 z + 0x20 * n.toNat), (.ndRegionWrite r z v, 0x204 + 4 * b01 z),
   (.ndRecvWrite r z die v, (if z then 0x390 else 0x380) + 4 * die.toNat), (.ndSplitWrite r n v, 0x114 + 0x20 * n.toNat),
   (.ndTopoWrite r v, 0x004), (.ndPwrPhaseWrite r n v, 0x11C + 0x20 * n.toNat),
   (.ndEpochBankWrite r z k v, (if z then 0x324 else 0x308) + 4 * b01 k),
   (.ndEpochManWrite r z v, 0x318 + 4 * b01 z), (.ndEvtHeadWrite r v, 0x904), (.ndTelHeadWrite r v, 0x914),
   (.ndFoldGrpWrite r die v, 0x404 + 4 * die.toNat)]

/-! ### The audit log -/

/-- Audit records in a row after a chain value: each is numbered next, and its own chain value is the hash of the value
before it and its 64 bytes (R516). -/
def chainFrom (c : List Byte) (n : Quad) : List (Audit × List Byte) → Prop
  | [] => True
  | (r, x) :: rest => r.seq = n ∧ x = sha384 (c ++ r.bytesOf) ∧ chainFrom x (n + 1) rest

/-- The audit log is chained: at most 4,096 records, numbered in a row up to the last one written, and the chain value is
that of the newest (R516, R517). -/
def Vault.Chained (v : Vault) : Prop :=
  v.audit.length ≤ 4096 ∧ chainFrom v.auditBase (v.auditNext - BitVec.ofNat 64 v.audit.length) v.audit
    ∧ v.chain = ((v.audit.getLast?).map (·.2)).getD v.auditBase

end Sys2Proof.Machine
end

