-- ==== Sys2Proof/Certificates/Slice0/Obligations.lean ====
section
/-! DEFINITION. Obligations: the statements for the provers. -/

open Sys2Proof Sys2Proof.Machine

/-! ### Control class -/

/-- R331, R316: each scalar instruction that goes writes its result to its destination, costs one ledger cycle, moves
its queue on by one entry and leaves every other register, every other queue and context, and everything outside the
contexts alone. R331: `li` and `mov` write their operand. R331, R332, R304: `cmp` writes the comparison to its
predicate, `pclr` clears the predicates of its mask; p0 stays 1, and a predicate that a completing command set in the
same cycle keeps its value. -/
def Obligations.ScalarResults : Prop :=
  ((∀ e ∈ scalarOps, ∀ (s : State) (p : Site) (f : RFields), s.Seen →
      s.blk.quickGoes s.aon p (scalar2Quick p e.2.1 f e.2.2) = true →
      Runs (e.1 p f) s fun t =>
        (t.blk.ctx p.ctx).s p.queue f.a = e.2.2 ((s.blk.ctx p.ctx).s p.queue f.b) ((s.blk.ctx p.ctx).s p.queue f.c)
          ∧ (∀ r, r ≠ f.a → (t.blk.ctx p.ctx).s p.queue r = (s.blk.ctx p.ctx).s p.queue r)
          ∧ (t.blk.que p).pc = (s.blk.que p).pc + 1
          ∧ (t.blk.ctx p.ctx).counters.get Cnt.ledger 0 = (s.blk.ctx p.ctx).counters.get Cnt.ledger 0 + 1
          ∧ (t.blk.ctx p.ctx).preds = (s.blk.ctx p.ctx).preds
          ∧ s.onlyQueue t p)
   ∧ ((∀ (s : State) (p : Site) (f : IFields), s.Seen → s.blk.quickGoes s.aon p (liQuick p f) = true →
      Runs (.li p f) s fun t =>
        (t.blk.ctx p.ctx).s p.queue f.a = f.imm
          ∧ (∀ r, r ≠ f.a → (t.blk.ctx p.ctx).s p.queue r = (s.blk.ctx p.ctx).s p.queue r)
          ∧ (t.blk.que p).pc = (s.blk.que p).pc + 1 ∧ s.onlyQueue t p)
    ∧ ∀ (s : State) (p : Site) (f : RFields), s.Seen → s.blk.quickGoes s.aon p (movQuick p f) = true →
      Runs (.mov p f) s fun t =>
        (t.blk.ctx p.ctx).s p.queue f.a = (s.blk.ctx p.ctx).s p.queue f.b
          ∧ (∀ r, r ≠ f.a → (t.blk.ctx p.ctx).s p.queue r = (s.blk.ctx p.ctx).s p.queue r)
          ∧ (t.blk.que p).pc = (s.blk.que p).pc + 1 ∧ s.onlyQueue t p))
  ∧ ((∀ (s : State) (p : Site) (f : RFields), s.Seen → s.blk.quickGoes s.aon p (cmpQuick p f) = true →
     Runs (.cmp p f) s fun t =>
       let n : BitVec 3 := BitVec.ofNat 3 f.a.toNat
       (n ≠ 0 → s.blk.doneNow p n = false →
         ((t.blk.ctx p.ctx).pred n = true ↔
           condMeans f.m ((s.blk.ctx p.ctx).s p.queue f.b) ((s.blk.ctx p.ctx).s p.queue f.c)))
         ∧ (∀ m, m ≠ n ∨ m = 0 ∨ s.blk.doneNow p m = true → (t.blk.ctx p.ctx).pred m = (s.blk.ctx p.ctx).pred m)
         ∧ (∀ r, (t.blk.ctx p.ctx).s p.queue r = (s.blk.ctx p.ctx).s p.queue r)
         ∧ (t.blk.que p).pc = (s.blk.que p).pc + 1 ∧ s.onlyQueue t p)
   ∧ ∀ (s : State) (p : Site) (f : IFields), s.Seen → s.blk.quickGoes s.aon p (pclrQuick p f) = true →
     Runs (.pclr p f) s fun t =>
       (∀ n : BitVec 3, (t.blk.ctx p.ctx).pred n =
           ((s.blk.ctx p.ctx).pred n && (n == 0 || !f.imm.getLsbD n.toNat || s.blk.doneNow p n)))
         ∧ (∀ r, (t.blk.ctx p.ctx).s p.queue r = (s.blk.ctx p.ctx).s p.queue r)
         ∧ (t.blk.que p).pc = (s.blk.que p).pc + 1 ∧ s.onlyQueue t p)

/-- R313, R316, R333: `br` goes to its own index plus imm; `loop` and `loopv` enter their body with a new level that
holds its start, body and trips, or pass over it where the test of `loopv` fails at entry; each costs 2 cycles. R313,
R316, R363: a back-edge goes to the loop's start while its count has trips left or its predicate test holds, counts a
trip down, and otherwise leaves the loop; it costs one cycle. -/
def Obligations.FlowResults : Prop :=
  ((∀ (s : State) (p : Site) (f : IFields), s.Seen → s.blk.quickGoes s.aon p (brQuick p f) = true →
     Runs (.br p f) s fun t =>
       (t.blk.que p).pc = (s.blk.que p).pc + f.imm
         ∧ (t.blk.ctx p.ctx).counters.get Cnt.ledger 0 = (s.blk.ctx p.ctx).counters.get Cnt.ledger 0 + 2
         ∧ s.onlyQueue t p)
   ∧ (∀ (s : State) (p : Site) (f : IFields), s.Seen → s.blk.quickGoes s.aon p (loopQuick p f) = true →
     Runs (.loop p f) s fun t =>
       (t.blk.que p).pc = (s.blk.que p).pc + 1
         ∧ (t.blk.que p).loops.head? =
             some ⟨(s.blk.que p).pc + 1, BitVec.ofNat 16 f.b.toNat, 0, 0, f.imm, 0, 0⟩
         ∧ (t.blk.que p).loops.length = (s.blk.que p).loops.length + 1 ∧ (t.blk.que p).loops.length ≤ 4
         ∧ (t.blk.ctx p.ctx).counters.get Cnt.ledger 0 = (s.blk.ctx p.ctx).counters.get Cnt.ledger 0 + 2
         ∧ s.onlyQueue t p)
   ∧ ∀ (s : State) (p : Site) (f : IFields), s.Seen → s.blk.quickGoes s.aon p (loopvQuick p f) = true →
     Runs (.loopv p f) s fun t =>
       let x := s.blk.ctx p.ctx
       let run : Bool := match f.k.toNat with
         | 0 => x.s p.queue f.a != 0
         | 1 => x.pred (BitVec.ofNat 3 f.a.toNat)
         | _ => !x.pred (BitVec.ofNat 3 f.a.toNat)
       (run = true → (t.blk.que p).pc = (s.blk.que p).pc + 1
         ∧ (t.blk.que p).loops.length = (s.blk.que p).loops.length + 1 ∧ (t.blk.que p).loops.length ≤ 4
         ∧ ∃ l, (t.blk.que p).loops.head? = some l ∧ l.start = (s.blk.que p).pc + 1 ∧ l.body.toNat = f.b.toNat
             ∧ l.test.toNat = f.k.toNat + 1 ∧ l.cap = f.imm ∧ l.cap0 = f.imm
             ∧ (f.k = 0 → l.trips = x.s p.queue f.a) ∧ (f.k ≠ 0 → l.pred.toNat = f.a.toNat))
         ∧ (run = false → (t.blk.que p).pc = (s.blk.que p).pc + 1 + BitVec.ofNat 32 f.b.toNat
             ∧ (t.blk.que p).loops.length = (s.blk.que p).loops.length)
         ∧ (t.blk.ctx p.ctx).counters.get Cnt.ledger 0 = (s.blk.ctx p.ctx).counters.get Cnt.ledger 0 + 2
         ∧ s.onlyQueue t p)
  ∧ (∀ (s : State) (p : Site) (l : LoopLv), s.Seen → s.blk.edgeGoes s.aon p l = true →
     Runs (.backEdge p) s fun t =>
       (l.again (s.blk.ctx p.ctx) = true →
         (t.blk.que p).pc = l.start ∧ (t.blk.que p).loops.length = (s.blk.que p).loops.length
           ∧ ∃ m, (t.blk.que p).loops.head? = some m ∧ m.start = l.start ∧ m.body = l.body
               ∧ m.trips = (if l.test.toNat ≤ 1 then l.trips - 1 else l.trips))
         ∧ (l.again (s.blk.ctx p.ctx) = false →
           (t.blk.que p).pc = (s.blk.que p).pc ∧ (t.blk.que p).loops.length + 1 = (s.blk.que p).loops.length)
         ∧ (t.blk.ctx p.ctx).counters.get Cnt.ledger 0 = (s.blk.ctx p.ctx).counters.get Cnt.ledger 0 + 1
         ∧ s.onlyQueue t p)

/-- R309, R312, R316: `halt` stops its queue, keeps its tag and raises QUEUE_HALT with it; `wait` issues without cost;
`barrier` moves every queue it joins on by one entry. -/
def Obligations.SyncResults : Prop :=
  (∀ (s : State) (p : Site) (f : IFields), s.blk.quickGoes s.aon p (haltQuick p f) = true →
    Runs (.halt p f) s fun t =>
      (t.blk.que p).halted = true ∧ (t.blk.que p).tag = BitVec.ofNat 8 f.imm.toNat
        ∧ (t.blk.que p).pc = (s.blk.que p).pc + 1
        ∧ ∃ r, t.blk.evts.getLast? = some r ∧ r.code = 0x80 ∧ r.event = true ∧ r.ctx = some p.ctx ∧ r.queue = p.queue
            ∧ r.a = f.imm)
  ∧ (∀ (s : State) (p : Site) (f : IFields), s.Seen → s.blk.quickGoes s.aon p (waitQuick f) = true →
    (∀ n : BitVec 3, n ≠ 0 → f.imm.getLsbD n.toNat = true → (s.blk.ctx p.ctx).pred n = true)
    ∧ Runs (.wait p f) s fun t =>
      (t.blk.que p).pc = (s.blk.que p).pc + 1 ∧ t.blk.issueCount = s.blk.issueCount
        ∧ (t.blk.ctx p.ctx).counters.get Cnt.ledger 0 = (s.blk.ctx p.ctx).counters.get Cnt.ledger 0
        ∧ (t.blk.ctx p.ctx).preds = (s.blk.ctx p.ctx).preds
        ∧ s.onlyQueue t p)
  ∧ ∀ (s : State) (p : Site) (f : RFields), s.blk.barrierGoes s.aon p f = true →
    Runs (.barrier p f) s fun t =>
      (∀ q ∈ (s.blk.ctx p.ctx).barrierSet p f.m, ((t.blk.ctx p.ctx).que q).pc = ((s.blk.ctx p.ctx).que q).pc + 1
          ∧ ((t.blk.ctx p.ctx).que q).barrier = none ∧ ((t.blk.ctx p.ctx).que q).sregs = ((s.blk.ctx p.ctx).que q).sregs)
        ∧ (∀ q, q ∉ (s.blk.ctx p.ctx).barrierSet p f.m → (t.blk.ctx p.ctx).que q = (s.blk.ctx p.ctx).que q)
        ∧ (∀ d, d ≠ p.ctx → t.blk.ctx d = s.blk.ctx d) ∧ t.blk.mem = s.blk.mem ∧ t.blk.flights = s.blk.flights

/-- R324, R349, R350: every opcode outside the map is reserved, and so is 0; a reserved opcode at the head of a queue of a
context that runs, with no `comet.barrier` before it, posts one BAD_OPCODE record with the instruction word and its queue and index, and every queue of the
context reads DEAD: an entry of all zeros never executes. -/
def Obligations.ReservedOpcodeFaults : Prop :=
  (∀ (s : State) (p : Site) (w : Quad), s.blk.open s.aon p = true → (s.blk.que p).pairOpen = false →
    s.blk.behindBarrier p = false → listedOpcode (opcodeOf w) = false →
    Runs (.reservedOpcode p w) s fun t =>
      (∃ r ∈ t.blk.evts, r.code = 0x01 ∧ r.event = false ∧ r.ctx = some p.ctx ∧ r.queue = p.queue
          ∧ r.word1 = (s.blk.que p).pc ∧ r.insn = w)
        ∧ (∀ q, ((t.blk.ctx p.ctx).que q).dead = true) ∧ (t.blk.ctx p.ctx).torn = true)
  ∧ (∀ (p : Site) (w next : Quad), listedOpcode (opcodeOf w) = false → decodeBrodip p w next = .reservedOpcode p w)
  ∧ ∀ (p : Site) (next : Quad), listedOpcode 0 = false ∧ decodeBrodip p 0 next = .reservedOpcode p 0

/-! ### Epochs, refresh, phases -/

/-- R336, R304: `epoch.bind` writes its layer, imm or the scalar that B names, to its e register and to no other, under the
result of a higher queue in that cycle; a layer above
255 and the reserved values of K fault with BAD_OPERAND, and bind nothing. R456, R316: `gov.phase` sets the phase field of
its partition's ND_PWR_PHASE and no other field of any register. -/
def Obligations.BindAndPhase : Prop :=
  (∀ (s : State) (p : Site) (f : IFields), s.Seen → s.blk.quickGoes s.aon p (epochBindQuick p f) = true →
    Runs (.epochBind p f) s fun t =>
      let e : BitVec 2 := BitVec.ofNat 2 f.a.toNat
      let l : Layer := if f.k = 0 then BitVec.ofNat 8 f.imm.toNat
        else BitVec.ofNat 8 ((s.blk.ctx p.ctx).s p.queue (BitVec.ofNat 5 f.b.toNat)).toNat
      s.blk.ownsLayer (s.blk.ctx p.ctx).part l.toNat = true
        ∧ ((s.blk.ctx p.ctx).overruled s.blk.cycle.toNat p.queue.toNat (regE e) = false → (t.blk.ctx p.ctx).eregs.rd e = l)
        ∧ (∀ r, r ≠ e ∨ (s.blk.ctx p.ctx).overruled s.blk.cycle.toNat p.queue.toNat (regE r) = true →
            (t.blk.ctx p.ctx).eregs.rd r = (s.blk.ctx p.ctx).eregs.rd r)
        ∧ (∀ r, (t.blk.ctx p.ctx).s p.queue r = (s.blk.ctx p.ctx).s p.queue r)
        ∧ (t.blk.ctx p.ctx).tregs = (s.blk.ctx p.ctx).tregs
        ∧ (t.blk.que p).pc = (s.blk.que p).pc + 1 ∧ s.blk.sameBut t.blk ∧ t.aon = s.aon ∧ t.pending = s.pending
        ∧ ∀ d, d ≠ p.ctx → t.blk.ctx d = s.blk.ctx d)
  ∧ (∀ (s : State) (p : Site) (f : IFields),
    s.blk.clear s.aon p f.g (epochBindQuick p f).regs = true → s.blk.slotsFor s.aon p ≠ 0 →
    (s.blk.que p).chargeFaults .other 1 = [] →
    2 ≤ f.k.toNat ∨ 256 ≤ (if f.k = 0 then f.imm else (s.blk.ctx p.ctx).s p.queue (BitVec.ofNat 5 f.b.toNat)).toNat →
    Runs (.epochBind p f) s fun t =>
      (∃ r ∈ t.blk.evts, r.code = 0x02 ∧ r.event = false ∧ r.ctx = some p.ctx ∧ r.queue = p.queue
          ∧ r.word1 = (s.blk.que p).pc ∧ r.insn = encI 0x1A f)
        ∧ (∀ q, ((t.blk.ctx p.ctx).que q).dead = true) ∧ (t.blk.ctx p.ctx).eregs = (s.blk.ctx p.ctx).eregs)
  ∧ ∀ (s : State) (p : Site) (f : RFields), s.Seen → s.blk.quickGoes s.aon p (govPhaseQuick f) = true →
    Runs (.govPhase p f) s fun t =>
      let n := (s.blk.ctx p.ctx).part.toNat
      fld (t.blk.reg 0x11C n) 25 24 = f.m.toNat
        ∧ (∀ i : Nat, i < 32 → i ≠ 24 → i ≠ 25 → (t.blk.reg 0x11C n).getLsbD i = (s.blk.reg 0x11C n).getLsbD i)
        ∧ (∀ o i, i * 0x10000 + o ≠ n * 0x10000 + 0x11C → t.blk.reg o i = s.blk.reg o i)
        ∧ (t.blk.que p).pc = (s.blk.que p).pc + 1 ∧ t.blk.mem = s.blk.mem ∧ t.aon = s.aon
        ∧ ∀ d, d ≠ p.ctx → t.blk.ctx d = s.blk.ctx d

/-- R72, R74, R337: an `epoch.flip` that reaches its queue's head is ready: where every named shadow bank is FILLING
and the step gate allows it, its banks are to be checked and the queue waits for the verdict; otherwise it faults with
FLIP_REFUSED and the lowest reason, and no table changes. A flip of the same cycle for a shared table that goes before
it has it follow, with nothing to check yet; one that it goes before follows it. Once every named bank was accepted it
issues, for 16 cycles. R72 step 4, R67, R337: at the end of a flip's last ledger cycle every named kind flips
together: the accepted bank is ACTIVE, the epoch goes on by one (from 0xFFFF to 1), the old bank is DRAINING, or FREE
where nothing refers to it; the other kinds of the layer and the other layers stay, and the hold on the layer is
released. The order of a flip and its verdicts as commands is read from R72 by inference (log 39). -/
def Obligations.FlipsReadyAndComplete : Prop :=
  ((∀ (s : State) (p : Site) (f : RFields), s.Seen → s.blk.clear s.aon p f.g [regEf f.a] = true →
     s.blk.flipAt p = none →
     f.a.toNat < 4 → anyUsed [f.b, f.c, f.d, f.e, f.f, f.gg, f.h, f.i] = false → f.m ≠ 0 → f.m.toNat < 8 →
     s.blk.badLayer (s.blk.ctx p.ctx) f.a = false →
     let l := (s.blk.ctx p.ctx).layerE f.a
     let m : BitVec 3 := BitVec.ofNat 3 f.m.toNat
     let new := s.blk.newFlip p (encR 0x1B f) l m
     let others := putBehind (new false) s.blk.refresh.flips
     let why := (s.blk.setFlips others).flipReasons (s.blk.ctx p.ctx).part l m
     Runs (.epochFlip p f) s fun t =>
       (s.blk.flipLed (new false) = true → t.blk.refresh.flips = s.blk.refresh.flips ++ [new true]
         ∧ (t.blk.que p).waiting = true ∧ (t.blk.que p).pc = (s.blk.que p).pc
         ∧ t.blk.refresh.tables = s.blk.refresh.tables)
       ∧ (s.blk.flipLed (new false) = false → why = [] →
         t.blk.refresh.flips = others ++ [new false]
         ∧ (t.blk.que p).waiting = true ∧ (t.blk.que p).pc = (s.blk.que p).pc
         ∧ t.blk.refresh.tables = s.blk.refresh.tables)
       ∧ (s.blk.flipLed (new false) = false → why ≠ [] → (∀ q, ((t.blk.ctx p.ctx).que q).dead = true)
         ∧ ∃ r ∈ t.blk.evts, r.code = 0x0E ∧ r.event = false ∧ r.ctx = some p.ctx
             ∧ r.a.toNat ∈ why ∧ ∀ x ∈ why, r.a.toNat ≤ x))
   ∧ ∀ (s : State) (p : Site) (f : RFields) (fl : Flip), s.blk.flipAt p = some fl → fl.behind = false →
     fl.toCheck = [] → fl.due = [] → fl.reasons = [] → s.blk.reqGoes s.aon p (flipReq p fl) = true →
     Runs (.epochFlip p f) s fun t =>
       ∃ fg, s.launched t p fl.word (decR fl.word).g.dp fg ∧ fg.ledger = 16 ∧ fg.job = .flip fl.layer fl.kinds
         ∧ t.blk.refresh.tables = s.blk.refresh.tables)
  ∧ (∀ (s : State) (p : Site) (fl : Flight) (l : Layer) (m : BitVec 3), s.blk.flipFlight p = some fl →
     fl.job = .flip l m → fl.issued + 16 ≤ s.blk.cycle.toNat → (s.blk.ctx p.ctx).alive = true →
     (∀ f ∈ s.blk.refresh.flips, f.behind = false) →
     Runs (.flipComplete p) s fun t =>
       (∀ k ∈ kindsOf m, let u := s.blk.table l k
         let v := t.blk.table l k
         v.epoch = (if u.epoch = 0xFFFF then 1 else u.epoch + 1) ∧ v.active = u.shadow ∧ v.live.st = .active
           ∧ v.live.extent = (u.bank u.shadow).extent
           ∧ (u.epoch ≠ 0 → (v.bank u.active).st = if u.live.refs = 0 then .free else .draining))
         ∧ (∀ l' k, l' ≠ l ∨ k ∉ kindsOf m → t.blk.table l' k = s.blk.table l' k)
         ∧ t.blk.refresh.holder.find l.toNat = none
         ∧ (∀ f ∈ t.blk.refresh.flips, ¬ (f.ctx = p.ctx ∧ f.queue = p.queue)))

/-- R72 steps 1 and 2, R387: a named bank in FILLING whose writes have committed moves to CHECKING; with a header in
range and a manifest it takes the manifest's stamp and joins the vault's verdict queue, behind the banks of lower or
equal rank. A push into a die's shadow expert bank starts once the die has applied its swap, and not before a swap
that is to be sent first (R388). R387: the vault decides one bank at a time in queue order: once the verdict's cycles
have passed, the bank at the head of its queue, where none that goes before it is still to be checked, leaves it, and
the time of the next begins. The order of a flip and its verdicts as commands is read from R72 by inference (log 39);
the signature check is opaque (log 10). -/
def Obligations.BankIsChecked : Prop :=
  ((∀ (s : State) (layer : Layer) (kind : BitVec 2) (f : Flip) (m : Manifest),
     let bank := (s.blk.table layer kind).shadow
     s.blk.flipChecking layer kind = some f → ((s.blk.table layer kind).bank bank).st = .filling →
     f.since < s.blk.cycle.toNat → s.blk.bankBusy layer kind bank f.since = false → s.blk.malformed layer kind bank = false →
     s.blk.manifest ((s.blk.layerPart layer.toNat).getD 0) layer kind bank = some m →
     Runs (.bankChecking layer kind) s fun t =>
       let v := (t.blk.table layer kind).bank bank
       v.st = .checking ∧ v.stamp = m.stamp ∧ v.extent = ((s.blk.table layer kind).bank bank).extent
         ∧ (t.blk.table layer kind).bank (!bank) = (s.blk.table layer kind).bank (!bank)
         ∧ (t.blk.table layer kind).epoch = (s.blk.table layer kind).epoch
         ∧ (∃ x, t.blk.refresh.verdicts.map (fun y => (y.layer, y.kind, y.bank, y.rank))
               = (putVerdict x s.blk.refresh.verdicts).map (fun y => (y.layer, y.kind, y.bank, y.rank))
             ∧ x.layer = layer ∧ x.kind = kind ∧ x.bank = bank ∧ x.rank = f.rank kind)
         ∧ t.blk.mem = s.blk.mem)
   ∧ ∀ (s : State) (die : BitVec 2) (layer : Layer), s.blk.refresh.swapDue.contains (die, layer) = false →
     Runs (.shadowPush die layer) s fun t =>
       t.blk.refresh.pushes = s.blk.refresh.pushes.map (fun x =>
           if x.die = die ∧ x.layer = layer ∧ x.active = false ∧ (∀ w, s.blk.nextSwap die layer = some w → x.epoch = w.epoch)
           then { x with sent := true } else x)
         ∧ t.blk.refresh.tables = s.blk.refresh.tables ∧ t.blk.mem = s.blk.mem)
  ∧ (∀ (s : State) (v : Verdict) (rest : List Verdict) (image : List Byte) (m : Manifest),
     s.blk.refresh.verdicts = v :: rest → s.blk.verdictNow = some v → (∀ x ∈ rest, x.rank ≠ v.rank) → s.blk.image v.layer v.kind v.bank = .ok image →
     s.blk.manifest ((s.blk.layerPart v.layer.toNat).getD 0) v.layer v.kind v.bank = some m →
     v.from' + Blk.verdictCycles v m image ≤ s.blk.cycle.toNat →
     Runs .vaultVerdict s fun t =>
       t.blk.refresh.verdicts.map (fun x => (x.layer, x.kind, x.bank)) = rest.map (fun x => (x.layer, x.kind, x.bank))
         ∧ ∀ y, t.blk.verdictNow = some y → y.from' = s.blk.cycle.toNat)

/-- R338, R339: an `epoch.hold` that is ready holds a free layer for its context; it issues, for 4 cycles, while no
dispatch of the layer is open; `epoch.release` by the holder releases it. -/
def Obligations.HoldAndRelease : Prop :=
  (∀ (s : State) (p : Site) (f : RFields), s.blk.clear s.aon p f.g [regEf f.a] = true →
    s.blk.badE1 p f = false → (s.blk.que p).holdDue = none →
    s.blk.refresh.holder.find ((s.blk.ctx p.ctx).layerE f.a).toNat = none →
    Runs (.epochHold p f) s fun t =>
      let l := (s.blk.ctx p.ctx).layerE f.a
      t.blk.refresh.holder.find l.toNat = some p.ctx ∧ (t.blk.ctx p.ctx).holds.getLsbD l.toNat = true
        ∧ (∀ l' : Layer, l' ≠ l → t.blk.refresh.holder.find l'.toNat = s.blk.refresh.holder.find l'.toNat)
        ∧ (t.blk.que p).pc = (s.blk.que p).pc ∧ t.blk.refresh.tables = s.blk.refresh.tables)
  ∧ (∀ (s : State) (p : Site) (f : RFields) (l : Layer), (s.blk.que p).holdDue = some l →
    s.blk.reqGoes s.aon p (s.blk.holdReq p f l) = true →
    s.blk.layerOpen l = false ∧ Runs (.epochHoldIssue p f) s fun t =>
      ∃ fl, s.launched t p (encR 0x1C f) f.g.dp fl ∧ fl.ledger = 4)
  ∧ ∀ (s : State) (p : Site) (f : RFields), s.blk.quickGoes s.aon p (s.blk.releaseQuick p f) = true →
    s.blk.refresh.holder.find ((s.blk.ctx p.ctx).layerE f.a).toNat = some p.ctx
      ∧ Runs (.epochRelease p f) s fun t =>
        t.blk.refresh.holder.find ((s.blk.ctx p.ctx).layerE f.a).toNat = none
          ∧ (t.blk.ctx p.ctx).holds.getLsbD ((s.blk.ctx p.ctx).layerE f.a).toNat = false
          ∧ t.blk.refresh.tables = s.blk.refresh.tables

/-! ### Commands in flight -/

/-- R302, R305, R346, R364: an instruction of the tally, deal, collect, lane, function, norm, mixer and hand classes, a
`fold.wait`, `fold.settle` or `tset` that goes starts its command: the command is the last in flight, with the
plan's ledger, effects and areas and the units its class holds; its done predicate reads 0, unless an instruction or a
completion writes it in that cycle (R304), and its queue stands at the next entry. It writes no memory, table, link or register of the window yet, and touches no other context. That
the entry's fields come with the command is the model's choice (log 16). -/
def Obligations.CommandsStart : Prop :=
  ∀ (s : State) (p : Site) (f : RFields) (fi : IFields) (fc : CFields), ∀ x ∈ starters s.aon s.blk p f fi fc,
    s.blk.reqGoes s.aon p x.r = true →
    Runs x.c s fun t => ∃ fl,
      s.launched t p x.r.w x.r.g.dp fl ∧ opcodeOf fl.word = x.op ∧ fl.units = x.units
        ∧ fl.ledger = (s.blk.planOf p x.r).ledger ∧ fl.fx = (s.blk.planOf p x.r).fx
        ∧ fl.reads = (s.blk.planOf p x.r).reads ∧ fl.writes = (s.blk.planOf p x.r).writes
        ∧ (x.r.g.dp ≠ 0 → s.blk.writtenNow p.ctx x.r.g.dp = false → (t.blk.ctx p.ctx).pred x.r.g.dp = false)
        ∧ (∀ r, (t.blk.ctx p.ctx).s p.queue r = (s.blk.ctx p.ctx).s p.queue r)
        ∧ (t.blk.ctx p.ctx).tregs = (s.blk.ctx p.ctx).tregs ∧ (t.blk.ctx p.ctx).eregs = (s.blk.ctx p.ctx).eregs
        ∧ (∀ d, d ≠ p.ctx → t.blk.ctx d = s.blk.ctx d)
        ∧ t.blk.mem = s.blk.mem ∧ t.blk.regs = s.blk.regs ∧ t.blk.links = s.blk.links ∧ t.aon.regs = s.aon.regs
        ∧ t.aon.gov = s.aon.gov

/-- R61, R85, R69, R98: a `score` or `hash` whose pair goes starts with the ledger of R61 in the gate array, binds the
ACTIVE bank of its layer's GATE table, whose reference count goes up by one, and leaves its queue to the `select`; the
gate store holds no damaged word. -/
def Obligations.PairsStart : Prop :=
  (∀ op : Fin 3, ∀ (s : State) (p : Site) (f : RFields) (next : Quad),
    s.blk.pairGoes s.aon p (encR (0x20 + op) f) next f (s.blk.scoreBad p f) (scoreRegs p f)
      (s.blk.scoreIn (s.blk.ctx p.ctx) p op f) = true → s.blk.intact 18 = true →
    let l := (s.blk.ctx p.ctx).layerE f.b
    let tok := ((s.blk.ctx p.ctx).descF f.a).getD Desc.zero
    let c : Instr := if op = 0 then .scoreBf16 p f next else if op = 1 then .scoreFp16 p f next else .scoreOfp8 p f next
    ∃ bs, s.blk.gateTable l false = .ok bs ∧ Runs c s fun t => ∃ fl,
      s.launched t p (encR (0x20 + op) f) f.g.dp fl ∧ fl.units = [.gate] ∧ fl.binds = [s.blk.bindNow l 0]
        ∧ fl.ledger = ceilDiv tok.rows 128 * ceilDiv (GateHdr.of bs).experts 128
            * (if op = 2 then tok.n0 / 2 else tok.n0) + 48
        ∧ (t.blk.que p).pairOpen = true
        ∧ (t.blk.table l 0).live.refs = (s.blk.table l 0).live.refs + 1 ∧ t.blk.mem = s.blk.mem)
  ∧ ∀ (s : State) (p : Site) (f : RFields) (next : Quad),
    s.blk.pairGoes s.aon p (encR 0x23 f) next f (s.blk.hashBad p f) (hashRegs p f)
      (s.blk.hashIn (s.blk.ctx p.ctx) p f) = true → s.blk.intact 18 = true →
    let l := (s.blk.ctx p.ctx).layerE f.b
    Runs (.hash p f next) s fun t => ∃ fl,
      s.launched t p (encR 0x23 f) f.g.dp fl ∧ fl.units = [.gate] ∧ fl.binds = [s.blk.bindNow l 0]
        ∧ fl.ledger = ceilDiv (((s.blk.ctx p.ctx).s p.queue f.d).toNat
            * (s.blk.selIn (s.blk.ctx p.ctx) p l (decR next)).c) 32 + 48
        ∧ (t.blk.que p).pairOpen = true
        ∧ (t.blk.table l 0).live.refs = (s.blk.table l 0).live.refs + 1 ∧ t.blk.mem = s.blk.mem

/-- R87, R89, R98, R99: the `select` of the pair that its queue has just opened takes that pair's tokens. A FIRST or ONLY
opens the dispatch of its context and layer, with the ephemeris' next sequence number and the capacity of R89; the
`select` is in flight from the cycle of its pair on, with the ledger of R99, and the queue's pair is closed. -/
def Obligations.SelectStarts : Prop :=
  ∀ (s : State) (p : Site) (f : RFields) (fl : Flight) (sc : Scoring), s.blk.open s.aon p = true →
    (s.blk.que p).pairOpen = true → s.blk.pairMate p = some fl → fl.job = .score sc →
    let x := s.blk.ctx p.ctx
    let i := s.blk.selIn x p sc.layer f
    s.blk.selWaits x i sc.layer = false → s.blk.selFaults x i sc.layer sc.tokens.length sc.e = [] →
    Runs (.select p f) s fun t =>
      (∃ fg, t.blk.flights = s.blk.flights ++ [fg] ∧ fg.ctx = p.ctx ∧ fg.queue = p.queue ∧ fg.qidx = (s.blk.que p).pc
          ∧ fg.word = encR 0x28 f ∧ fg.dp = f.g.dp ∧ fg.issued = fl.issued ∧ fg.ledger = i.ledger sc.hash sc.e)
        ∧ (t.blk.que p).pc = (s.blk.que p).pc + 1
        ∧ (t.blk.que p).pairOpen = false
        ∧ ∃ d, t.blk.openDisp p.ctx sc.layer = some d
          ∧ d.tokens = (if i.first then 0 else (i.disp.map (·.tokens)).getD 0) + sc.tokens.length
          ∧ (i.first = true → d.k = f.a.toNat + 1 ∧ d.td = (x.s p.queue f.b).toNat
              ∧ d.seq = (s.blk.eph x.part sc.layer).seq
              ∧ (t.blk.eph x.part sc.layer).seq = (s.blk.eph x.part sc.layer).seq + 1
              ∧ d.cap = Nat.min d.td (ceilDiv (polCf (s.blk.handCfg x.part sc.layer) * d.td * d.k) (64 * (d.experts + d.moons.length))))

/-- R89, R103: serving tokens never takes a slot beyond the dispatch's capacity, and every accepted choice has a position
below it. -/
def Obligations.CapacityHolds : Prop :=
  ∀ (d : Dispatch) (ts : List Token), d.cap ≤ 2 ^ 20 → (∀ k, d.counts.get k 0 ≤ d.cap) →
    (∀ k, (d.serveAll ts).1.counts.get k 0 ≤ d.cap)
      ∧ ∀ r ∈ (d.serveAll ts).2, ∀ c ∈ r.choices, c.dropped = false → c.position.toNat < d.cap

/-- R174, R150, R152: a `send` that goes starts with the ledger of R152 in the outbound direction; it takes the state
of its dispatch that its `place` left. A `sendPacketEmit` with room in the ring queue puts the DEAL of the next
deal-list entry into that queue, and touches no memory but the context store (R361). R173, R174, R177, R559: the
packet at the head of a ring queue leaves it, where the far queue on its way has room, once its dispatch holds the
units it needs at its owner and die; the bytes that left, as they are read (R55), are counted. A head that lacks units
stays, and a CLAIM for them goes out unless one for that die is outstanding; one that finds the far queue full stays.
That a FETCH needs the unit of an empty payload is read by inference (log 31); a head with a word that cannot be read
faults its context instead (R476). -/
def Obligations.SendsAndDeals : Prop :=
  ((∀ (s : State) (p : Site) (f : RFields), s.blk.reqGoes s.aon p (s.blk.sendReq p f) = true →
     ∃ d gi g, s.blk.lastDisp p.ctx ((s.blk.ctx p.ctx).layerE f.a) = some d ∧ d.lastGroup = some (gi, g) ∧
       Runs (.send p f) s fun t => ∃ fl ∈ t.blk.flights,
         fl.ctx = p.ctx ∧ fl.queue = p.queue ∧ fl.qidx = (s.blk.que p).pc ∧ fl.word = encR 0x38 f ∧ fl.units = [.outbound]
           ∧ fl.ledger = ceilDiv (g.rows * d.k * ((((s.blk.ctx p.ctx).descF f.b).getD Desc.zero).rb + 32))
               (((s.blk.ctx p.ctx).descF f.b).getD Desc.zero).sendWidth)
   ∧ ∀ (s : State) (p : Site) (fl : Flight) (x : Sending) (d : Dispatch) (i : Nat) (rest : List Nat) (k : Packet),
     s.blk.sendOf p = some (fl, x) → s.blk.dispOf p.ctx x.layer x.seq = some d → fl.suspended = none →
     s.blk.failingUnit fl = none → (s.blk.ctx p.ctx).alive = true → x.opens = [] → x.todo = i :: rest → s.blk.nextDeal d x i = .ok k →
     s.blk.ringRoom (ringOfInst k.hdr.dst) k.size = true → d.staging k.hdr.slot.toNat = false →
     Runs (.sendPacketEmit p) s fun t =>
       k.hdr.kind = 1 ∧ k.hdr.bytes.toNat = k.payload.length % 2 ^ 17
         ∧ (∃ place, t.blk.exch.rings.rd (ringOfInst k.hdr.dst)
             = s.blk.exch.rings.rd (ringOfInst k.hdr.dst) ++ [⟨some p.ctx, k, place⟩])
         ∧ (∀ q, q ≠ ringOfInst k.hdr.dst → t.blk.exch.rings.rd q = s.blk.exch.rings.rd q)
         ∧ s.blk.memKept t.blk ∧ t.pending = s.pending)
  ∧ ((∀ (s : State) (q : BitVec 3) (e : Egress) (rest : List Egress) (d : Dispatch), s.blk.exch.rings.rd q = e :: rest →
     s.blk.heldFar e.k = false → s.blk.dispOfEgress e = some d → (s.blk.readArray 20 (e.holds q)).2 = false →
     (d.creditNeed e.k).1 ≤ d.credits.get (odKey e.k.hdr.dst e.k.hdr.die) 0 →
     Runs (.ringQueueDepart q) s fun t =>
       t.blk.exch.rings.rd q = rest ∧ (∀ r, r ≠ q → t.blk.exch.rings.rd r = s.blk.exch.rings.rd r)
         ∧ t.blk.counters.get (Cnt.egressRing q.toNat) 0
             = s.blk.counters.get (Cnt.egressRing q.toNat) 0 + BitVec.ofNat 64 (e.asRead s.blk.mem q).size)
   ∧ (∀ (s : State) (q : BitVec 3) (e : Egress) (rest : List Egress) (d : Dispatch), s.blk.exch.rings.rd q = e :: rest →
     s.blk.heldFar e.k = false → s.blk.dispOfEgress e = some d → d.aborted = false →
     d.credits.get (odKey e.k.hdr.dst e.k.hdr.die) 0 < (d.creditNeed e.k).1 → s.Seen →
     Runs (.ringQueueDepart q) s fun t => t.blk.exch.rings = s.blk.exch.rings
       ∧ (s.blk.claimOut (odKey e.k.hdr.dst e.k.hdr.die) = true → t = s)
       ∧ (s.blk.claimOut (odKey e.k.hdr.dst e.k.hdr.die) = false → ∃ x ∈ t.blk.disps,
           x.ctx = d.ctx ∧ x.layer = d.layer ∧ x.seq = d.seq ∧ (odKey e.k.hdr.dst e.k.hdr.die, s.blk.cycle.toNat) ∈ x.claims))
   ∧ ∀ (s : State) (q : BitVec 3) (e : Egress) (rest : List Egress), s.blk.exch.rings.rd q = e :: rest →
     s.Seen → s.blk.heldFar e.k = true → Runs (.ringQueueDepart q) s fun t => t = s)

/-- The typed lane instructions, with their operation on FP32 and on INT32 elements. -/
def Sys2Proof.Machine.laneOps (b : Blk) (p : Site) (f : RFields) :
    List (Instr × Req × (Word → Word → Word) × (Word → Word → Word)) :=
  [(.vadd p f, b.vaddReq p f, f32Add, fun x y => BitVec.ofInt 32 (x.toInt + y.toInt)),
   (.vsub p f, b.vsubReq p f, f32Sub, fun x y => BitVec.ofInt 32 (x.toInt - y.toInt)),
   (.vmul p f, b.vmulReq p f, f32Mul, fun x y => BitVec.ofInt 32 (x.toInt * y.toInt)),
   (.vmax p f, b.vmaxReq p f, f32Max, fun x y => BitVec.ofInt 32 (max x.toInt y.toInt)),
   (.vmin p f, b.vminReq p f, f32Min, fun x y => BitVec.ofInt 32 (min x.toInt y.toInt))]

/-- R340, R342, R38, R55: the arithmetic lane instructions write vA element by element, of the v registers as reads meet them: the typed ones as FP32 with one
rounding or as INT32 that wraps, `vbcast` the scalar, `vsel` the second or the third source by whether the first is 0,
`vcmp` all ones or all zeros; each takes ceil(64/N) cycles on N lanes. -/
def Obligations.LaneResults : Prop :=
  ∀ (s : State) (p : Site) (f : RFields),
    let x := s.blk.ctx p.ctx
    let u := (s.blk.que p).vRead s.blk.mem p
    let res := fun (c : Instr) (r : Req) (ws : List Word) => s.blk.reqGoes s.aon p r = true →
      Runs c s fun t => ∃ fl, s.launched t p r.w f.g.dp fl ∧ fl.units = [.lanes]
        ∧ fl.fx.getLast? = some (.vreg (BitVec.ofNat 4 f.a.toNat) (s.blk.que p).runNo ws)
        ∧ fl.ledger = ceilDiv 64 (s.blk.partLanes x.part) ∧ t.blk.mem = s.blk.mem
    (∀ e ∈ laneOps s.blk p f, res e.1 e.2.1
      ((u.v f.b).zipWith (if f.m = 1 then e.2.2.2 else e.2.2.1) (u.v f.c)))
    ∧ res (.vbcast p f) (s.blk.vbcastReq p f) (List.replicate 1024 (x.s p.queue f.b))
    ∧ res (.vfma p f) (s.blk.vfmaReq p f)
        (((u.v f.b).zip ((u.v f.c).zip (u.v f.d))).map fun q => f32Fma q.1 q.2.1 q.2.2)
    ∧ res (.vcmp p f) (s.blk.vcmpReq p f)
        ((u.v f.b).zipWith (fun y z => if f32Cmp f.m.toNat y z then 0xFFFFFFFF else 0) (u.v f.c))
    ∧ res (.vsel p f) (s.blk.vselReq p f)
        (((u.v f.b).zip ((u.v f.c).zip (u.v f.d))).map fun q => if q.1 = 0 then q.2.2 else q.2.1)
    ∧ res (.vcvt p f) (s.blk.vcvtReq p f)
        ((u.v f.b).map fun w => (convWord f.m.toNat (saturates (s.blk.arith x.part)) w).1)

/-- R302, R303, R304, R322, R472: a command whose ledger has elapsed completes: its effects stand in memory, which
else changes by descriptors that the context cache writes back alone (R361), and in its context's registers, its done
predicate reads 1, CTX_LEDGER counts its ledger, it is no longer in flight and its energy is modelled. R22: a command
does not complete before its ledger cost has elapsed: the report of one that may not changes nothing. That the
effects, decided at issue, land at the completion is the model's choice (log 6); when the completion comes after its
ledger is the sender's (log 3). -/
def Obligations.CommandsComplete : Prop :=
  (∀ (s : State) (p : Site) (qidx bubble stack back : Word) (f : Flight) (c : Blk), s.blk.flightAt p qidx = some f →
     f.job = .plain → s.blk.mayComplete f = true → (s.blk.noteReads f.reads).failingUnit f = none →
     (s.blk.noteReads f.reads).applyFx f f.fx = (c, none) →
     Runs (.commandComplete p qidx bubble stack back) s fun t =>
       (∀ g ∈ t.blk.flights, ¬ (g.ctx = p.ctx ∧ g.queue = p.queue ∧ g.qidx = qidx))
         ∧ (t.blk.ctx p.ctx).pred f.dp = true
         ∧ (∀ q r, (t.blk.ctx p.ctx).s q r = (c.ctx p.ctx).s q r) ∧ (t.blk.ctx p.ctx).tregs = (c.ctx p.ctx).tregs
         ∧ c.memKept t.blk
         ∧ (t.blk.ctx p.ctx).counters.get Cnt.ledger 0
             = (c.ctx p.ctx).counters.get Cnt.ledger 0 + BitVec.ofNat 64 f.ledger
         ∧ t.aon.gov.modelled = s.aon.gov.modelled + f.energy ∧ t.pending = s.pending)
  ∧ (∀ (s : State) (p : Site) (qidx bubble stack back : Word) (f : Flight), s.Seen → s.blk.flightAt p qidx = some f →
     f.job = .plain → f.ran s.blk.cycle.toNat < f.ledger →
     Runs (.commandComplete p qidx bubble stack back) s fun t => t = s)

/-- R68, R75, R386: a write to the stack window that meets no locked bank or home copy lands byte for byte, leaves
every other byte and the canonical form, and makes FILLING every placed bank it touches; a write into a bank that is
neither FREE nor FILLING is refused with BANK_LOCKED. R54, R56: a scratchpad write that does not fail lands byte for
byte and leaves every other byte, the stack window and the canonical form; a word without damage never fails a write.
The canonical form, and that an unlisted byte reads 0, are the model's choice (log 5). -/
def Obligations.MemoryWrites : Prop :=
  ((∀ (b c : Blk) (at' : Nat) (bs : List Byte), b.mem.stack.wf = true → b.wrStack at' bs = .ok c →
     c.mem.stack.wf = true ∧ c.mem.stack.rdBytes at' bs.length = bs
       ∧ (∀ k, k < at' ∨ at' + bs.length ≤ k → c.mem.stack.rd k = b.mem.stack.rd k)
       ∧ c.mem.scratch = b.mem.scratch
       ∧ ∀ x ∈ b.bankHits at' bs.length, ((c.table x.1 x.2.1).bank x.2.2.1).st = .filling)
   ∧ ∀ (b : Blk) (at' : Nat) (bs : List Byte), (∃ x ∈ b.bankHits at' bs.length,
       ((b.table x.1 x.2.1).bank x.2.2.1).st ≠ .free ∧ ((b.table x.1 x.2.1).bank x.2.2.1).st ≠ .filling) →
     ∃ e, b.wrStack at' bs = .error e ∧ e.code = 0x0D)
  ∧ ((∀ (m n : Mem) (at' : Nat) (bs : List Byte), m.scratch.wf = true → m.wrScratch at' bs = .ok n →
     n.scratch.wf = true ∧ n.scratch.rdBytes at' bs.length = bs
       ∧ (∀ k, k < at' ∨ at' + bs.length ≤ k → n.scratch.rd k = m.scratch.rd k) ∧ n.stack = m.stack)
   ∧ ∀ (m : Mem) (at' : Nat) (bs : List Byte), m.flips = [] → ∃ n, m.wrScratch at' bs = .ok n ∧ n.flips = [])

/-! ### The exchange -/

/-- R165, R175, R184: an owner that takes a DEAL for one of its experts counts the units it uses at its die and group
and the expert as work of the group; a DEAL whose payload CRC fails ends its dispatch here. R176, R177, R178: an OPEN
makes its dispatch known with its format and its want granted or owed; a CLAIM that finds units free is granted, at
most what is free, and one that comes before its OPEN waits; the last END of a dispatch at a die ends what is granted
there, and it keeps the units its DEALs used. That a DEAL with a bad payload frees its units at once is read by
inference (log 31). -/
def Obligations.OwnerTakesAndGrants : Prop :=
  (∀ (s : State) (k : Packet) (d : InDisp), k.hdr.dst = s.blk.self → k.malformed 1 = false →
     s.blk.inDisp k.hdr = some d → d.discarded = false →
     Runs (.dealReceive k) s fun t => ∃ e, t.blk.inDisp k.hdr = some e
       ∧ (crc32c k.payload = k.hdr.crc → s.blk.routedHere k.hdr = true →
           e.used.get (k.hdr.die.toNat * 256 + k.hdr.group.toNat) 0
               = d.used.get (k.hdr.die.toNat * 256 + k.hdr.group.toNat) 0 + unitsOf k.payload.length
             ∧ (k.hdr.die, k.hdr.group, k.hdr.expert) ∈ e.work ∧ e.discarded = false)
       ∧ (crc32c k.payload ≠ k.hdr.crc → e.discarded = true ∧ e.work = []))
  ∧ ((∀ (s : State) (k : Packet), k.hdr.dst = s.blk.self → k.malformed 4 = false → s.blk.inDisp k.hdr = none →
     Runs (.openReceive k) s fun t => ∃ e, t.blk.inDisp k.hdr = some e ∧ e.opened = true ∧ e.discarded = false
       ∧ e.fmt = k.hdr.hand ∧ ∀ die ∈ dies, s.blk.wantAt k.hdr die ≤ e.granted.get die.toNat 0 + e.owed.get die.toNat 0)
   ∧ (∀ (s : State) (k : Packet) (d : InDisp), k.hdr.dst = s.blk.self → k.malformed 7 = false →
     s.blk.inDisp k.hdr = some d → d.opened = true → d.discarded = false → d.lastEnd.contains k.hdr.die = false →
     s.blk.exch.claimQ = [] → (∀ x ∈ s.blk.exch.inDisps, x.owed.get k.hdr.die.toNat 0 = 0) →
     k.hdr.gidx.toNat / 64 ≤ s.blk.freeUnits k.hdr.die → s.blk.freeUnits k.hdr.die ≠ 0 →
     Runs (.claimReceive k) s fun t => t.blk.exch.claimQ = [] ∧ ∃ e, t.blk.inDisp k.hdr = some e
       ∧ e.granted.get k.hdr.die.toNat 0
           = d.granted.get k.hdr.die.toNat 0 + Nat.min k.hdr.gidx.toNat (s.blk.freeUnits k.hdr.die))
   ∧ (∀ (s : State) (k : Packet), k.hdr.dst = s.blk.self → k.malformed 7 = false → s.blk.inDisp k.hdr = none →
     Runs (.claimReceive k) s fun t => t.blk.exch.claimQ = s.blk.exch.claimQ
       ++ [⟨k.hdr.src, k.hdr.part, k.hdr.layer, k.hdr.seq, k.hdr.die, k.hdr.gidx.toNat⟩])
   ∧ ∀ (s : State) (k : Packet) (d : InDisp), k.hdr.dst = s.blk.self → k.malformed 5 = false →
     s.blk.inDisp k.hdr = some d → d.discarded = false → k.hdr.position.getLsbD 0 = true →
     Runs (.endReceive k) s fun t => ∃ e, t.blk.inDisp k.hdr = some e ∧ k.hdr.die ∈ e.lastEnd
       ∧ e.owed.get k.hdr.die.toNat 0 = 0 ∧ e.granted.get k.hdr.die.toNat 0 = d.usedAt k.hdr.die)

/-- R182, R184, R446: an ABORT ends its dispatch at the owner, also one that it does not know yet; the report of a die
that has discarded the dispatch's rows frees the units its DEALs used there; the report that a group is computed
frees the group's units. How an ABORT is told apart from another is read by inference (log 31). -/
def Obligations.OwnerEndsDispatches : Prop :=
  (∀ (s : State) (k : Packet), k.hdr.dst = s.blk.self → k.malformed 10 = false →
    Runs (.abortReceive k) s fun t => ∃ e, t.blk.inDisp k.hdr = some e ∧ e.discarded = true)
  ∧ (∀ (s : State) (die : BitVec 2) (layer : Layer) (x : KBody) (d : InDisp),
    s.blk.inDisp (bodyName x layer) = some d → d.discarded = true →
    Runs (.discarded die layer x) s fun t => ∃ e, t.blk.inDisp (bodyName x layer) = some e ∧ e.usedAt die = 0)
  ∧ ∀ (s : State) (die : BitVec 2) (layer : Layer) (x : KBody) (d : InDisp),
    s.blk.inDisp (bodyName x layer) = some d → d.discarded = false →
    Runs (.computed die layer x) s fun t => ∃ e, t.blk.inDisp (bodyName x layer) = some e
      ∧ e.used.get (die.toNat * 256 + x.group.toNat) 0 = 0 ∧ ∀ w ∈ e.work, ¬ (w.1 = die ∧ w.2.1 = x.group)

/-- R196, R197, R445: a FETCH of an entry that is not split is handed to its die's port; one of a split entry is in service at
every die of its mask, and its answer leaves when the last partial has come. -/
def Obligations.OwnerServesFetches : Prop :=
  (∀ (s : State) (k : Packet), s.Seen → k.hdr.dst = s.blk.self → k.malformed 2 = false → k.hdr.slot ≠ 0xFFF →
    s.blk.inDisp k.hdr = none → s.blk.splits k.hdr = false → s.blk.exch.held = [] →
    s.blk.usable (.k k.hdr.die) = true →
    Runs (.fetchReceive k) s fun t => ∃ m, t.blk.handed (.k k.hdr.die) (.die m) ∧ m.cls = 1 ∧ m.op = 0 ∧ m.die = k.hdr.die
      ∧ m.layer = k.hdr.layer ∧ m.body = k.hdr.bytesOf ++ k.payload ∧ t.blk.exch.held = [])
  ∧ (∀ (s : State) (k : Packet), k.hdr.dst = s.blk.self → k.malformed 2 = false → k.hdr.slot ≠ 0xFFF →
    s.blk.inDisp k.hdr = none → s.blk.splits k.hdr = true →
    Runs (.fetchReceive k) s fun t => ∃ j, t.blk.exch.splits = s.blk.exch.splits ++ [j] ∧ j.req = k ∧ j.got = []
      ∧ ∀ die : BitVec 2, die ∈ j.dies ↔ die.toNat < 3 ∧ (s.blk.splitCfg k.hdr.part).getLsbD (24 + die.toNat) = true)
  ∧ ∀ (s : State) (die : BitVec 2) (k : Packet) (j : SplitJob),
    s.blk.exch.splits.find? (fun j => j.takes die k.hdr) = some j →
    Runs (.splitPartialReceive die k) s fun t => t.blk.exch.splits =
      (let rest := dropFirst (fun (x : SplitJob) => x.takes die k.hdr) s.blk.exch.splits
       if j.got.length + 1 = j.dies.length then rest else rest ++ [{ j with got := j.got ++ [(die, k)] }])

/-- R177, R178, R182: at the source a GRANT adds its units to the credit for its owner and die, and a READY ends the wait
of its group for that owner and die, in a dispatch whose name no other has. -/
def Obligations.SourceTakesCredit : Prop :=
  (∀ (s : State) (k : Packet) (d : Dispatch), k.hdr.dst = s.blk.self → k.malformed 6 = false →
    s.blk.liveDisp k.hdr = some d →
    Runs (.grantReceive k) s fun t => ∃ e, t.blk.ownDisp k.hdr = some e
      ∧ e.credits.get (odKey k.hdr.src k.hdr.die) 0
          = d.credits.get (odKey k.hdr.src k.hdr.die) 0 + k.hdr.gidx.toNat
      ∧ (k.hdr.position.getLsbD 0 = true → ∀ c ∈ e.claims, c.1 ≠ odKey k.hdr.src k.hdr.die)
      ∧ (k.hdr.position.getLsbD 0 = false → e.claims = d.claims))
  ∧ ∀ (s : State) (k : Packet) (d : Dispatch), k.hdr.dst = s.blk.self → k.malformed 8 = false →
    s.blk.liveDisp k.hdr = some d →
    (s.blk.disps.filter fun e => e.named k.hdr) = [d] →
    Runs (.readyReceive k) s fun t => ∀ e ∈ t.blk.disps, e.named k.hdr = true → ∀ g, e.groups[k.hdr.group.toNat]? = some g → ∀ r ∈ g.ready, ¬ (r.1 = k.hdr.src ∧ r.2.1 = k.hdr.die)

/-- R161, R182, R183, R185, R350: a BOUNCE, a RETURN with a bad payload CRC and a wait beyond the exchange timeout each
fault the context concerned with the code that the spec names, and its queues read DEAD. -/
def Obligations.SourceFaults : Prop :=
  (∀ (s : State) (k : Packet) (d : Dispatch), k.hdr.dst = s.blk.self → k.malformed 9 = false → k.hdr.slot ≠ 0xFFF →
    s.blk.awaiting (fun a => a.refused k.hdr) = none → s.blk.liveDisp k.hdr = some d →
    Runs (.bounceReceive k) s fun t => (∀ q, ((t.blk.ctx d.ctx).que q).dead = true) ∧ ∃ r ∈ t.blk.evts,
      r.event = false ∧ r.ctx = some d.ctx ∧ r.a = k.hdr.crc
        ∧ r.code = (if k.hdr.crc = 1 ∨ k.hdr.crc = 2 then 0x13 else if k.hdr.crc = 3 then 0x12
            else if k.hdr.crc = 4 then 0x14 else 0x03))
  ∧ (∀ (s : State) (k : Packet) (f : Flight) (a : Await), k.hdr.dst = s.blk.self → k.malformed 9 = false →
    s.blk.awaiting (fun a => a.refused k.hdr) = some (f, a) →
    Runs (.bounceReceive k) s fun t => (∀ q, ((t.blk.ctx f.ctx).que q).dead = true) ∧ ∃ r ∈ t.blk.evts,
      r.event = false ∧ r.ctx = some f.ctx ∧ r.a = k.hdr.crc ∧ r.word1 = f.qidx ∧ r.insn = f.word
        ∧ r.code = (if k.hdr.crc = 1 ∨ k.hdr.crc = 2 then 0x13 else if k.hdr.crc = 3 then 0x12
            else if k.hdr.crc = 4 then 0x14 else 0x03))
  ∧ (∀ (s : State) (k : Packet) (f : Flight) (a : Await), k.hdr.dst = s.blk.self → k.malformed 3 = false →
    s.blk.awaiting (fun a => a.answers k.hdr) = some (f, a) → (s.blk.wear 29).failing = [] → crc32c k.payload ≠ k.hdr.crc →
    Runs (.returnReceive k) s fun t => (∀ q, ((t.blk.ctx f.ctx).que q).dead = true) ∧ ∃ r ∈ t.blk.evts,
      r.event = false ∧ r.ctx = some f.ctx ∧ r.code = 0x14 ∧ r.word1 = f.qidx ∧ r.insn = f.word)
  ∧ ∀ (s : State) (c : CtxId) (l : Layer) (w : WaitFor) (since : Nat), s.blk.waitingSince c l w = some since →
    since + s.blk.exchTimeoutCycles < s.blk.cycle.toNat → (s.blk.ctx c).alive = true →
    Runs (.exchTimeout c l w) s fun t => (∀ q, ((t.blk.ctx c).que q).dead = true) ∧ ∃ r ∈ t.blk.evts,
      r.event = false ∧ r.ctx = some c ∧ r.code = 0x15

/-- R192, R299, R174: a remote read's FETCH enters its owner's ring queue where there is room, and its RETURN lands for
the row that awaits it. A packet for another package is handed to the far port of its route with its hop count down by one,
and waits in the far queue while that link recovers; a full far queue holds it back (R173). -/
def Obligations.RowsAndTransit : Prop :=
  (∀ (s : State) (f : Flight) (src dst : Desc) (l : List Await) (a : Await),
    s.blk.flights.find? (fun f => f.suspended.isNone && (s.blk.ctx f.ctx).alive && f.fetchDue) = some f →
    f.job = .remote src dst l → (l.filter fun a => a.sent.isSome && a.landed.isNone).length < 256 →
    l.find? (fun a => a.sent.isNone) = some a → s.blk.ringRoom (ringOfInst a.hdr.dst) 32 = true →
    Runs .fetch s fun t => (∃ place, t.blk.exch.rings.rd (ringOfInst a.hdr.dst)
        = s.blk.exch.rings.rd (ringOfInst a.hdr.dst) ++ [⟨some f.ctx, ⟨a.hdr, []⟩, place⟩])
      ∧ t.blk.mem.scratch = s.blk.mem.scratch ∧ t.blk.mem.stack = s.blk.mem.stack)
  ∧ (∀ (s : State) (k : Packet) (f : Flight) (a : Await) (src dst : Desc) (l : List Await), k.hdr.dst = s.blk.self →
    k.malformed 3 = false → s.blk.awaiting (fun a => a.answers k.hdr) = some (f, a) → f.job = .remote src dst l →
    (s.blk.wear 29).failing = [] →
    crc32c k.payload = k.hdr.crc → k.hdr.fmt = a.hdr.fmt → k.payload.length = a.bytes →
    Runs (.returnReceive k) s fun t => ∃ g ∈ t.blk.flights, g.ctx = f.ctx ∧ g.queue = f.queue ∧ g.qidx = f.qidx
      ∧ g.job = .remote src dst (modFirst (fun (y : Await) => y.answers k.hdr)
          (fun y => { y with landed := some k.payload }) l))
  ∧ ∀ (s : State) (k : Packet) (x : BitVec 3), s.blk.onward k = .ok (.l x) →
    let o : Out := .packet (.l x) ⟨{ k.hdr with ttl := k.hdr.ttl - 1 }, k.payload⟩
    (s.blk.heldFar k = false → Runs (.packetForward k) s fun t => t.blk.handed (.l x) o
      ∧ ((s.blk.link (Port.ix (.l x))).st = .recover → (t.blk.farQueue x).map (·.out) = (s.blk.farQueue x).map (·.out) ++ [o]))
    ∧ (s.Seen → s.blk.heldFar k = true → Runs (.packetForward k) s fun t => t = s)

/-- R388, R397, R398, R446, R113: a die's reports and weight messages: a swap that a die applied is no longer due; the last
write of a shadow push marks it written, and one of a refused flip is then done with; that of an active push into the bank
that is still the active one makes its expert resident; that of a moon's berth, the last image on its way there and not outdated by
a flip, makes it staged; weights for moons are kept until their last byte comes. -/
def Obligations.WeightReports : Prop :=
  (∀ (s : State) (die : BitVec 2) (layer : Layer) (stamp : BitVec 16),
    Runs (.swapped die layer stamp) s fun t => t.blk.refresh.swapDue = dropFirst (fun x => x = (die, layer)) s.blk.refresh.swapDue
      ∧ t.blk.refresh.tables = s.blk.refresh.tables ∧ t.blk.mem = s.blk.mem)
  ∧ (∀ (s : State) (die : BitVec 2) (layer : Layer) (tag stamp : BitVec 16), tag.getLsbD 15 = true →
    Runs (.written die 1 layer tag stamp) s fun t => t.blk.refresh.pushes = (modFirst
      (fun (x : Push) => x.die = die && x.layer = layer && x.local' = BitVec.ofNat 11 tag.toNat && x.sent && !x.active && !x.written)
      (fun x => { x with written := true }) s.blk.refresh.pushes).filter fun x => !(x.dead && x.written))
  ∧ (∀ (s : State) (die : BitVec 2) (layer : Layer) (tag stamp : BitVec 16) (x : Push), tag.getLsbD 15 = true →
    s.blk.exch.held = [] →
    s.blk.refresh.pushes.find? (fun x => x.active && x.die = die && x.layer = layer && x.local' = BitVec.ofNat 11 tag.toNat) = some x →
    Runs (.written die 2 layer tag stamp) s fun t =>
      t.blk.residents layer die = s.blk.residents layer die ++ (if x.epoch = (s.blk.table layer 0).epoch then [x.expert] else []))
  ∧ (∀ (s : State) (die : BitVec 2) (layer : Layer) (tag stamp : BitVec 16) (img : BerthImg), tag.getLsbD 15 = true →
    let here := fun (x : BerthImg) => x.die = die && x.layer = layer && x.berth = BitVec.ofNat 8 tag.toNat
    s.blk.exch.berths.find? here = some img → img.old = false → (dropFirst here s.blk.exch.berths).any here = false →
    Runs (.written die 3 layer tag stamp) s fun t =>
      ∀ m ∈ (t.blk.eph ((s.blk.layerPart layer.toNat).getD 0) layer).plan,
        m.die = die → m.berth = BitVec.ofNat 8 tag.toNat → m.expert = img.expert → m.staged = true)
  ∧ (∀ (s : State) (layer : Layer) (expert : BitVec 11) (offset : Word) (stamp : BitVec 16) (data : List Byte),
    let key := layer.toNat * 2048 + expert.toNat
    offset.toNat ≤ (s.blk.exch.staging.get key []).length →
    Runs (.weightsReceive layer expert offset false stamp data) s fun t =>
      t.blk.exch.staging.get key [] = (s.blk.exch.staging.get key []).take offset.toNat ++ data)
  ∧ ∀ (s : State) (layer : Layer) (expert : BitVec 11) (offset : Word) (stamp : BitVec 16) (data : List Byte),
    Runs (.weightsReceive layer expert offset true stamp data) s fun t =>
      t.blk.exch.staging.find (layer.toNat * 2048 + expert.toNat) = none

/-! ### Folds and comets -/

/-- R211, R212, R213, R248: a `fold.start` that goes starts a command of 24 cycles and takes its group's next sequence
number; a `comet.reduce` or `comet.barrier` starts one of 8 cycles and takes the group's next comet number. Numbers that
an abort has consumed are passed over. No other group's numbers move. -/
def Obligations.CollectivesStart : Prop :=
  (∀ (s : State) (p : Site) (f : RFields), s.blk.reqGoes s.aon p (s.blk.foldStartReq p f) = true →
    ∃ e, s.blk.entryFor (s.blk.ctx p.ctx).part ((s.blk.ctx p.ctx).s p.queue f.a) = some e ∧
      Runs (.foldStart p f) s fun t =>
        (∃ fl, s.launched t p (encR 0x48 f) f.g.dp fl ∧ fl.ledger = 24)
        ∧ ((false, (s.blk.fgroup e).nextSeq + 1) ∉ (s.blk.fgroup e).spent →
            (t.blk.fgroup e).nextSeq = (s.blk.fgroup e).nextSeq + 1)
        ∧ (t.blk.fgroup e).cometSeq = (s.blk.fgroup e).cometSeq
        ∧ (∀ x, x ≠ e → t.blk.fgroup x = s.blk.fgroup x) ∧ t.pending = s.pending)
  ∧ ∀ (s : State) (p : Site) (f : RFields), ∀ x ∈ [(Instr.cometReduce p f, s.blk.cometReduceReq p f, 0x4C),
      (Instr.cometBarrier p f, cometBarrierReq p f, 0x4D)], s.blk.reqGoes s.aon p x.2.1 = true →
    ∃ e, s.blk.entryFor (s.blk.ctx p.ctx).part ((s.blk.ctx p.ctx).s p.queue f.a) = some e ∧
      Runs x.1 s fun t =>
        (∃ fl, s.launched t p (encR x.2.2 f) f.g.dp fl ∧ fl.ledger = 8)
        ∧ ((true, (s.blk.fgroup e).cometSeq + 1) ∉ (s.blk.fgroup e).spent →
            (t.blk.fgroup e).cometSeq = (s.blk.fgroup e).cometSeq + 1)
        ∧ (t.blk.fgroup e).nextSeq = (s.blk.fgroup e).nextSeq
        ∧ (∀ y, y ≠ e → t.blk.fgroup y = s.blk.fgroup y) ∧ t.pending = s.pending

/-- R216, R217, R222, R223, R227, R219: what packets do at a seat that they fit. A piece with a good CRC is recorded
with one link more verified; a piece whose last revision is bad fails the fold. An FREADY brings credit and the
neighbour's piece size; for a fold not yet started here it waits. An FNAK is counted, and its piece is sent again at the next
revision, from where the member keeps it. Agreed exponents are kept, and source data is loaded, a chunk or in cut-up a piece of it (R233). A packet that its port
FIFO keeps waits there, and nothing else changes (log 64). Where what the seat then sends faults its context, its
collective has ended. The numbering of steps is read from R217's listing by inference (log 20), and so is the place
of an FREADY's direction (log 21). -/
def Obligations.FoldPackets : Prop :=
  (∀ (s : State) (k : FoldPkt) (n : BitVec 4) (ring r : Nat),
    let y := s.blk.seat n
    let h := k.hdr
    let ws := parseWire (s.blk.wireOf y h.stage.toNat) k.payload
    let total := (s.blk.chunkRun y h.stage.toNat h.chunk).2
    let old := (y.chunkOf h.stage.toNat h.phase h.chunk).getD
      { s.blk.ownChunk y h.stage.toNat h.phase h.chunk (List.replicate total 0) 0 with pieces := [] }
    let first := (s.blk.pieceRun y k).1
    h.kind = 1 → s.blk.foldWaits k = false → s.blk.dataSeat h = some n → s.blk.foldMisfit y h = none → s.blk.ringPlace y h = some (ring, r) →
    (s.blk.ctx y.ctx).alive = true → stepFits ring r h y.dir = true → h.wire.toNat = s.blk.wireOf y h.stage.toNat →
    k.payload.length = h.bytes.toNat → (s.blk.pieceRun y k).2 ≠ 0 → first + (s.blk.pieceRun y k).2 ≤ total →
    (∀ q ∈ old.pieces, q.no ≠ h.piece.toNat) →
    (crc32c k.payload = k.crc → Runs (.fdataReceive k) s fun t => t.blk.seatHas n fun z =>
      ∃ c ∈ z.chunks, c.is h.stage.toNat h.phase h.chunk = true ∧ ∃ q ∈ c.pieces, q.no = h.piece.toNat
        ∧ q.first = first ∧ q.len = ws.length ∧ q.ok = true ∧ q.verified = k.verified.toNat + 1)
    ∧ (crc32c k.payload ≠ k.crc → h.rev = 3 → Runs (.fdataReceive k) s fun t => t.faulted y.ctx 0x16 8))
  ∧ (∀ (s : State) (k : FoldPkt) (n : BitVec 4),
    let y := s.blk.seat n
    let ring := ringNo k.hdr.stage.toNat
    k.hdr.kind = 2 → k.hdr.dst = s.blk.self → s.blk.foldWaits k = false → s.blk.seatsOf k.hdr.id ≠ [] → s.blk.readySeat k.hdr = some n →
    s.blk.foldMisfit y k.hdr = none → (s.blk.ctx y.ctx).alive = true →
    (Runs (.freadyReceive k) s fun t => t.blk.seatHas n fun z =>
        z.pieceOut.get ring 4 = 4 * b01 k.hdr.dir + k.hdr.piece.toNat ∧ z.since = s.blk.cycle.toNat)
    ∧ ((s.blk.grp y.grp).tiered = false →
        (∀ m ∈ s.blk.seatsOf k.hdr.id, (s.blk.seat m).chunks = [] ∧ (s.blk.seat m).loads = 0 ∧ (s.blk.seat m).bufs = []
          ∧ (s.blk.seat m).ordered = false ∧ (s.blk.seat m).entry = y.entry) →
        Runs (.freadyReceive k) s fun t =>
          (t.blk.seat n).credit.get ring 0 = y.credit.get ring 0 + k.hdr.bytes.toNat % 4))
  ∧ (∀ (s : State) (k : FoldPkt) (e : BitVec 4), k.hdr.kind = 2 → k.hdr.dst = s.blk.self → s.blk.seatsOf k.hdr.id = [] →
    s.blk.entryOf k.hdr.id = some e →
    (let d := seqBehind (s.blk.fgroup e).nextSeq (seqOf k.hdr.id); d = 0 ∨ 2 ^ 19 < d) → s.blk.foldWaits k = false →
    Runs (.freadyReceive k) s fun t => t.blk.folds.early = s.blk.folds.early ++ [k] ∧ t.blk.folds.seats = s.blk.folds.seats)
  ∧ (∀ (s : State) (k : FoldPkt) (n : BitVec 4) (c : Chunk),
    let y := s.blk.seat n
    let h := k.hdr
    let ring := s.blk.ringOf y.grp h.stage.toNat
    let first := h.piece.toNat * Nat.max 1 (y.outPiece h.stage.toNat)
    h.kind = 3 → s.blk.foldWaits k = false → h.rev.toNat < 3 → s.blk.dirSeat h = some n → s.blk.foldMisfit y h = none →
    y.chunkOf h.stage.toNat h.phase h.chunk = some c → neighbour ring (s.blk.ixIn ring) y.dir = some h.src →
    c.step + 1 = h.step.toNat → h.piece.toNat * y.outPiece h.stage.toNat < c.data.length →
    (∃ ws, s.blk.sentFrom y c first (Nat.min (Nat.max 1 (y.outPiece h.stage.toNat)) (c.data.length - first)) = .ok ws) →
    Runs (.fnakReceive k) s fun t =>
      t.blk.counters.get Cnt.foldRetry 0 = s.blk.counters.get Cnt.foldRetry 0 + 1
        ∧ (t.blk.seat n).chunks = y.chunks
        ∧ ((∃ q f, t.blk.handed q (.fold q f) ∧ f.hdr.kind = 1 ∧ f.hdr.dst = h.src ∧ f.hdr.rev.toNat = h.rev.toNat + 1
              ∧ f.hdr.piece = h.piece ∧ f.hdr.chunk = c.index ∧ f.hdr.phase = c.phase ∧ f.hdr.step = h.step)
          ∨ t.blk.counters.get Cnt.linkDropped 0 = s.blk.counters.get Cnt.linkDropped 0 + 1))
  ∧ (∀ (s : State) (k : FoldPkt) (n : BitVec 4) (ring r : Nat),
    let y := s.blk.seat n
    let h := k.hdr
    let run := s.blk.chunkRun y h.stage.toNat h.chunk
    h.kind = 4 → s.blk.foldWaits k = false → s.blk.dataSeat h = some n → s.blk.foldMisfit y h = none → s.blk.ringPlace y h = some (ring, r) →
    (s.blk.ctx y.ctx).alive = true → stepFits ring r h y.dir = true → k.payload.length = ceilDiv run.2 32 →
    Runs (.fexpReceive k) s fun t => t.blk.seatHas n fun z => z.since = s.blk.cycle.toNat
      ∧ (h.phase = true → (∀ m ∈ s.blk.seatsOf h.id, (s.blk.seat m).kind ≠ 2) → ∀ i, i < k.payload.length →
          z.exps.get (run.1 / 32 + i) 1 = (k.payload.getD i 0).toNat))
  ∧ (∀ (s : State) (n : BitVec 4) (st : Nat) (i : BitVec 24) (first len : Nat) (ws : List Word),
    let y := s.blk.seat n
    y.mayLoad = true → (s.blk.srcRuns y)[y.loads]? = some (st, i, first, len) →
    s.blk.foldSrc y ((s.blk.chunkRun y st i).1 + first, len) = .ok ws → (s.blk.ctx y.ctx).alive = true →
    Runs (.localBufferLoad n) s fun t => t.blk.seatHas n fun z => z.loads = y.loads + 1)
  ∧ ∀ (s : State) (k : FoldPkt), s.Seen → s.blk.foldWaits k = true → k.hdr.dst = s.blk.self →
    ∀ x ∈ [((1 : BitVec 4), Instr.fdataReceive k), (2, .freadyReceive k), (3, .fnakReceive k), (5, .fabortReceive k)],
      k.hdr.kind = x.1 → Runs x.2 s fun t =>
        t = { s with blk := { s.blk with folds := { s.blk.folds with held := s.blk.folds.held ++ [k] } } }

/-- R208, R214, R215, R230, R231, R349: an FABORT for a running fold leaves its seats FAULTED and faults its context with
reason ABORTED, or CONFIG where its group check differs; for a fold not yet started it consumes the sequence number. A start or a seat that waits beyond the group timeout faults
its context with reason SEQ_GAP or PEER_TIMEOUT. -/
def Obligations.FoldFailures : Prop :=
  (∀ (s : State) (k : FoldPkt) (n : BitVec 4) (rest : List (BitVec 4)), k.hdr.kind = 5 → k.hdr.dst = s.blk.self →
    s.blk.foldWaits k = false → s.blk.seatsOf k.hdr.id = n :: rest → (s.blk.ctx (s.blk.seat n).ctx).alive = true →
    Runs (.fabortReceive k) s fun t =>
      t.faulted (s.blk.seat n).ctx 0x16 (if k.hdr.check = s.blk.checkOf (s.blk.seat n).grp then 9 else 6)
        ∧ ∀ m, (s.blk.seat m).live = true → (s.blk.seat m).ctx = (s.blk.seat n).ctx → (t.blk.seat m).st = .faulted)
  ∧ (∀ (s : State) (k : FoldPkt) (e : BitVec 4), k.hdr.kind = 5 → k.hdr.dst = s.blk.self → s.blk.seatsOf k.hdr.id = [] →
    s.blk.entryOf k.hdr.id = some e → s.blk.foldWaits k = false → (s.blk.fgroup e).spent.length < 2 ^ 19 →
    let d := seqBehind (s.blk.fgroup e).nextSeq (seqOf k.hdr.id)
    (d = 0 ∨ 2 ^ 19 < d) → (false, seqOf k.hdr.id) ∉ (s.blk.fgroup e).spent →
    Runs (.fabortReceive k) s fun t => (false, seqOf k.hdr.id) ∈ (t.blk.fgroup e).spent
      ∧ (d = 0 → (false, (s.blk.fgroup e).nextSeq + 1) ∉ (s.blk.fgroup e).spent →
          (t.blk.fgroup e).nextSeq = (s.blk.fgroup e).nextSeq + 1)
      ∧ ∀ y ∈ t.blk.folds.early, y.hdr.id ≠ k.hdr.id)
  ∧ (∀ (s : State) (p : Site) (x : CtxId × BitVec 2 × Word × Nat) (e : BitVec 4),
    s.blk.folds.starts.find? (fun y => y.1 = p.ctx && y.2.1 = p.queue) = some x → s.blk.entryOf x.2.2.1 = some e →
    isAhead (s.blk.fgroup e).nextSeq (seqOf x.2.2.1) = true →
    x.2.2.2 + (s.blk.grp e).cycles < s.blk.cycle.toNat → (s.blk.ctx p.ctx).alive = true →
    Runs (.foldSeqGap p) s fun t => t.faulted p.ctx 0x16 3)
  ∧ ∀ (s : State) (n : BitVec 4), (s.blk.seat n).st = .bound ∨ (s.blk.seat n).st = .running →
    (s.blk.seat n).since + (s.blk.grp (s.blk.seat n).grp).cycles < s.blk.cycle.toNat →
    (s.blk.ctx (s.blk.seat n).ctx).alive = true →
    Runs (.foldPeerTimeout n) s fun t => t.faulted (s.blk.seat n).ctx 0x16 7

/-- R248, R250, R255, R256: a comet value for a collective that still awaits others is kept under its sender's place; one
that does not fit fails the collective with its reason; one for a collective not yet started waits. A CABORT, or a wait
beyond the group timeout, ends the collective with COMET_FAULT; an abort of one not yet started consumes its number. A
message that its port FIFO keeps waits there, in one of the port's 32 message buffers (R242), and nothing else changes (log 64). -/
def Obligations.CometMessages : Prop :=
  (∀ (s : State) (k : CometMsg) (e : BitVec 4) (x : Comet) (i j : Nat), k.kind = 1 → badComet k = false →
    k.dst = s.blk.self → s.blk.entryOf k.id = some e → s.blk.liveComet k.id = some x → s.blk.cometMisfit x k = none →
    s.blk.cometWaits k = false → (∀ y ∈ s.blk.comets.early, y.id ≠ k.id) →
    k.pass = x.pass → k.stage = 0 → x.acc = none → findIdx (fun y => y = k.src) (s.blk.pkgRing x.entry) = some i →
    j < (s.blk.pkgRing x.entry).length → j ≠ i → x.values.find j = none →
    Runs (.cdataReceive k) s fun t => ∃ y, t.blk.liveComet k.id = some y ∧ y.values.get i [] = k.payload
      ∧ y.since = s.blk.cycle.toNat ∧ s.blk.memKept t.blk)
  ∧ (∀ (s : State) (k : CometMsg) (e : BitVec 4) (x : Comet) (why : Nat), k.kind = 1 → badComet k = false →
    k.dst = s.blk.self → s.blk.entryOf k.id = some e → s.blk.liveComet k.id = some x →
    s.blk.cometWaits k = false → s.blk.cometMisfit x k = some why → (s.blk.ctx x.ctx).alive = true →
    Runs (.cdataReceive k) s fun t => t.faulted x.ctx 0x17 why ∧ ∀ y ∈ t.blk.comets.live, y.ctx ≠ x.ctx)
  ∧ (∀ (s : State) (k : CometMsg) (e : BitVec 4), k.kind = 1 → badComet k = false → k.dst = s.blk.self →
    s.blk.entryOf k.id = some e → s.blk.liveComet k.id = none →
    (let d := seqBehind (s.blk.fgroup e).cometSeq (seqOf k.id); d = 0 ∨ 2 ^ 19 < d) → s.blk.cometWaits k = false →
    Runs (.cdataReceive k) s fun t => t.blk.comets.early = s.blk.comets.early ++ [k] ∧ t.blk.comets.live = s.blk.comets.live)
  ∧ (∀ (s : State) (k : CometMsg) (x : Comet), k.kind = 3 → badComet k = false → k.dst = s.blk.self →
    s.blk.cometWaits k = false → s.blk.liveComet k.id = some x → (s.blk.ctx x.ctx).alive = true →
    Runs (.cabortReceive k) s fun t => t.faulted x.ctx 0x17 9 ∧ ∀ y ∈ t.blk.comets.live, y.ctx ≠ x.ctx)
  ∧ (∀ (s : State) (k : CometMsg) (e : BitVec 4), k.kind = 3 → badComet k = false → k.dst = s.blk.self →
    s.blk.liveComet k.id = none → s.blk.entryOf k.id = some e → s.blk.cometWaits k = false →
    (s.blk.fgroup e).spent.length < 2 ^ 19 →
    let d := seqBehind (s.blk.fgroup e).cometSeq (seqOf k.id)
    (d = 0 ∨ 2 ^ 19 < d) → (true, seqOf k.id) ∉ (s.blk.fgroup e).spent →
    Runs (.cabortReceive k) s fun t => (true, seqOf k.id) ∈ (t.blk.fgroup e).spent
      ∧ ∀ y ∈ t.blk.comets.early, y.id ≠ k.id)
  ∧ (∀ (s : State) (p : Site) (id : Word) (x : Comet),
    s.blk.comets.live.find? (fun x => x.id = id && x.ctx = p.ctx) = some x →
    x.since + (s.blk.grp x.entry).cycles < s.blk.cycle.toNat → (s.blk.ctx p.ctx).alive = true →
    Runs (.cometTimeout p id) s fun t => t.faulted p.ctx 0x17 6)
  ∧ (∀ (s : State) (p : Site) (id : Word) (x : CtxId × BitVec 2 × Word × Nat) (e : BitVec 4),
    s.blk.comets.live.find? (fun x => x.id = id && x.ctx = p.ctx) = none →
    s.blk.comets.starts.find? (fun y => y.1 = p.ctx && y.2.1 = p.queue && y.2.2.1 = id) = some x →
    s.blk.entryOf id = some e → isAhead (s.blk.fgroup e).cometSeq (seqOf id) = true →
    x.2.2.2 + (s.blk.grp e).cycles < s.blk.cycle.toNat →
    (s.blk.ctx p.ctx).alive = true →
    Runs (.cometTimeout p id) s fun t => t.faulted p.ctx 0x17 3)
  ∧ ∀ (s : State) (k : CometMsg), s.Seen → badComet k = false → s.blk.cometWaits k = true →
    let full := 32 ≤ (s.blk.comets.held.filter fun y => s.blk.cometPort y = s.blk.cometPort k).length
    ∀ x ∈ [((1 : BitVec 4), Instr.cdataReceive k), (3, .cabortReceive k)], k.kind = x.1 → Runs x.2 s fun t =>
      (full → t = s)
      ∧ (¬ full → t = { s with blk := { s.blk with comets := { s.blk.comets with held := s.blk.comets.held ++ [k] } } })

/-! ### Contexts: tiles, switches, doorbells, operations -/

/-- R314, R346, R371, R372, R374: a command at a tile boundary is suspended where its context is switched out, and the
switch time runs from there, or where another partition's command waits for its deal direction; otherwise it goes on.
Before it has run its tile it stands at none (R21). A spent quantum and 64 idle cycles each bring a switch point to
the eligible context with the lowest pass; once the switch time has passed and no tile runs, the incoming context
runs. R375, R376: outside the window of 4,000,000 cycles after the last trump, the oldest context that waited beyond
its partition's trump time is trumped: it comes in at a switch point, and TRUMP is raised with its age. The switch
time counted from the switch point is read by inference (log 40). -/
def Obligations.TilesAndSwitches : Prop :=
  ((∀ (s : State) (p : Site) (qidx : Word) (f : Flight), s.blk.flightAt p qidx = some f → s.blk.hasTile f = true →
     let n0 := f.tileCycles (f.tiles + 1 - f.tiles0)
     (f.ran s.blk.cycle.toNat < n0 → s.Seen → Runs (.workTileBoundary p qidx) s fun t => t = s) ∧ (n0 ≤ f.ran s.blk.cycle.toNat →
     let n := (s.blk.ctx f.ctx).part
     ((s.blk.slot n).outgoing = some f.ctx → Runs (.workTileBoundary p qidx) s fun t =>
       (∃ g ∈ t.blk.flights, f.same g = true ∧ g.tiles = f.tiles + 1 ∧ g.suspended = some s.blk.cycle.toNat)
         ∧ (t.blk.slot n).switchD = true ∧ (t.blk.slot n).switchFrom = s.blk.cycle.toNat)
     ∧ ((s.blk.slot n).outgoing ≠ some f.ctx → s.blk.dirWaiters n (freedUnits (opcodeOf f.word)) = [] →
       Runs (.workTileBoundary p qidx) s fun t =>
         ∃ g ∈ t.blk.flights, f.same g = true ∧ g.tiles = f.tiles + 1 ∧ g.suspended = none)
     ∧ ((s.blk.slot n).outgoing ≠ some f.ctx → s.blk.dirWaiters n (freedUnits (opcodeOf f.word)) ≠ [] →
       Runs (.workTileBoundary p qidx) s fun t =>
         ∃ g ∈ t.blk.flights, f.same g = true ∧ g.tiles = f.tiles + 1 ∧ g.suspended = some s.blk.cycle.toNat)))
   ∧ (∀ (s : State) (n : PartId) (c next : CtxId), s.blk.maySwitch n = some c → s.blk.nextCtx n = some next →
     let point := fun (t : State) => (t.blk.slot n).running = none ∧ (t.blk.slot n).outgoing = some c
       ∧ (t.blk.slot n).incoming = some next ∧ (t.blk.slot n).switchFrom = s.blk.cycle.toNat
       ∧ (∀ m, m ≠ n → ((s.blk.slot m).running ≠ none ∨ (s.blk.slot m).incoming ≠ none) →
           (t.blk.slot m).running = (s.blk.slot m).running ∧ (t.blk.slot m).incoming = (s.blk.slot m).incoming)
       ∧ t.blk.flights = s.blk.flights ∧ s.blk.memKept t.blk
     (s.blk.quantum n ≤ (s.blk.slot n).charged → (s.blk.ctx next).pass.toNat < (s.blk.ctx c).pass.toNat →
       Runs (.quantumExpiry n) s point)
     ∧ ((s.blk.slot n).idleFrom + 64 ≤ s.blk.cycle.toNat → s.blk.inFlight c = [] →
       (∀ q, ((s.blk.ctx c).que q).issuable = false) → Runs (.idle64Cycles n) s point))
   ∧ ∀ (s : State) (n : PartId) (c : CtxId), (s.blk.slot n).incoming = some c →
     (∀ o, (s.blk.slot n).outgoing = some o → s.blk.tilesRun o = []) →
     (s.blk.slot n).switchFrom + s.blk.switchTime n ≤ s.blk.cycle.toNat →
     Runs (.switchComplete n) s fun t => (t.blk.slot n).running = some c ∧ (t.blk.slot n).incoming = none
       ∧ (t.blk.slot n).outgoing = none ∧ (t.blk.slot n).charged = 0
       ∧ (t.blk.ctx c).counters.get Cnt.switches 0 = (s.blk.ctx c).counters.get Cnt.switches 0 + 1)
  ∧ (∀ (s : State) (n : PartId) (c : CtxId), s.blk.trumpNext n = some c → s.blk.maySwitch n ≠ none →
     (∀ x, (s.blk.slot n).lastTrump = some x → x + 4000000 ≤ s.blk.cycle.toNat) →
     let goes := fun (t : State) => (t.blk.slot n).incoming = some c ∧ (t.blk.slot n).running = none
       ∧ (t.blk.slot n).byTrump = true ∧ (t.blk.slot n).lastTrump = some s.blk.cycle.toNat
       ∧ (t.blk.ctx c).counters.get Cnt.trumps 0 = (s.blk.ctx c).counters.get Cnt.trumps 0 + 1
       ∧ ∃ r ∈ t.blk.evts, r.code = 0x89 ∧ r.event = true ∧ r.ctx = some c ∧ r.a = BitVec.ofNat 32 (s.blk.trumpAge c)
     ((s.blk.ctx c).part = n → Runs (.trump c) s goes)
       ∧ ((s.blk.slot n).lastTrump ≠ none → Runs (.trumpWindowEnd n) s goes))

/-- R16, R308, R309, R362, R287: a doorbell enters the FIFO behind those before it, host software's before the endpoint's of
the same cycle, or is refused before bring-up ends and from
host software in DIRECT; the FIFO's head, once its turn comes, publishes its queue's tail and restarts a halted queue, or
raises DOORBELL where it is not accepted. -/
def Obligations.DoorbellsRing : Prop :=
  (∀ (s : State) (r : Requester) (p : Site) (tail : Word), s.Seen →
    accessHeld r (0x400000 + 16 * p.ctx.toNat + 4 * p.queue.toNat) true (s.aon, s.blk) = false →
    s.blk.pathHeld (reqPath r) = false →
    let early := s.blk.start.stage.toNat < 6 ∨ (s.aon.gov.sleep ≠ .s2 ∧ reqPath r = .host ∧ s.blk.start.regime = false)
    (¬ early → s.aon.gov.sleep ≠ .s2 → s.blk.bells.length < (if reqPath r = .host then 64 else 63) → s.blk.heldBells = [] →
      Runs (.doorbell r p tail) s fun t => t.blk.bells = bellInto ⟨reqPath r, p.ctx, p.queue, tail, s.blk.cycle.toNat⟩ s.blk.bells
        ∧ t.blk.out = s.blk.out ++ [.done (reqPath r)] ∧ t.blk.mem = s.blk.mem ∧ t.blk.regs = s.blk.regs)
    ∧ (early → Runs (.doorbell r p tail) s fun t => t.blk.bells = s.blk.bells
        ∧ ∃ e ∈ t.blk.evts, e.code = 0x81 ∧ e.event = true ∧ e.ctx = some p.ctx ∧ e.queue = p.queue))
  ∧ ∀ (s : State) (e : Bell) (rest : List Bell), s.aon.gov.sleep ≠ .s2 → s.aon.gov.sleep ≠ .s3 →
    s.blk.bellAt ≤ s.blk.cycle.toNat → (e.path = .mgmt → e.at' < s.blk.cycle.toNat) → s.blk.intact 19 = true →
    s.blk.bells = e :: rest → s.blk.heldBells = [] → s.blk.start.accesses = [] →
    (s.blk.cache.contains e.ctx = true ∨ s.blk.cache.length < 4096) →
    (s.blk.bellOk e = true → Runs .doorbellApply s fun t => t.blk.bells = rest
        ∧ ((t.blk.ctx e.ctx).que e.queue).tail = e.tail ∧ ((t.blk.ctx e.ctx).que e.queue).halted = false
        ∧ ((t.blk.ctx e.ctx).que e.queue).pc = ((s.blk.ctx e.ctx).que e.queue).pc
        ∧ (∀ q, q ≠ e.queue → (t.blk.ctx e.ctx).que q = (s.blk.ctx e.ctx).que q))
      ∧ (s.blk.bellOk e = false → Runs .doorbellApply s fun t => t.blk.bells = rest
        ∧ (∀ q, (t.blk.ctx e.ctx).que q = (s.blk.ctx e.ctx).que q)
        ∧ ∃ r ∈ t.blk.evts, r.code = 0x81 ∧ r.event = true ∧ r.ctx = some e.ctx ∧ r.queue = e.queue)

/-- R118, R120, R123, R349, R381: an observation moves the histories of demand of its layer and is over; the end of a
teardown, once the context's commands have reached their tile boundary, leaves a context DEAD that holds no command,
dispatch, hold or run slot, and writes at most its frame and the context store. -/
def Obligations.ObservationsAndTeardowns : Prop :=
  (∀ (s : State) (n : PartId) (l : Layer) (o : Obs) (rest : List Obs), (s.blk.eph n l).observing = o :: rest →
    Runs (.observation n l) s fun t =>
      let x := s.blk.eph n l
      let y := t.blk.eph n l
      let w := o.t * o.k
      y.observing = rest ∧ y.steps = (if x.steps.toNat < 2 then x.steps + 1 else x.steps)
        ∧ y.lastTk = w ∧ y.experts = o.primary.length ∧ y.seq = x.seq
        ∧ ∀ e, e < o.primary.length →
          let q := if w = 0 then 0 else o.demand.get e 0 * 65536 / w
          let dlt : Int := (q : Int) - (x.md.get e 0 : Int)
          let p : Int := ((2 ^ polShift o.policy : Nat) : Int)
          y.md.get e 0 = (if x.steps = 0 then q else ((x.md.get e 0 : Int) + dlt / p).toNat)
            ∧ y.vd.get e 0 = (if x.steps = 0 then 0
                else ((x.vd.get e 0 : Int) + ((dlt.natAbs : Int) - (x.vd.get e 0 : Int)) / p).toNat))
  ∧ ∀ (s : State) (c : CtxId), (s.blk.ctx c).torn = true → (∀ f ∈ s.blk.inFlight c, f.tileEnded s.blk.cycle.toNat = true) →
    s.blk.mem.stack.wf = true →
    Runs (.teardownComplete c) s fun t => (t.blk.ctx c).life = .dead ∧ (∀ f ∈ t.blk.flights, f.ctx ≠ c)
      ∧ (∀ d ∈ t.blk.disps, d.ctx ≠ c) ∧ (∀ l, t.blk.refresh.holder.find l ≠ some c)
      ∧ (t.blk.slot (s.blk.ctx c).part).running ≠ some c ∧ (t.blk.slot (s.blk.ctx c).part).incoming ≠ some c
      ∧ t.blk.mem.scratch = s.blk.mem.scratch ∧ ∀ k,
        (∀ at', s.blk.place (s.blk.ctx c).part (BitVec.ofNat 32 (s.blk.ctx c).frame.toNat) 4096 true = some at' →
          k < at' ∨ at' + 4096 ≤ k) → (k < s.blk.storeAddr 0 ∨ s.blk.storeAddr 0 + 64 * 2 ^ 18 ≤ k) → t.blk.mem.stack.rd k = s.blk.mem.stack.rd k

/-- The context operations with the code that starts each (R365). -/
def Sys2Proof.Machine.ctxOps (r : Requester) (n : PartId) (c : CtxId) : List (Nat × Instr) :=
  [(1, .create r n c), (2, .kill r n c), (3, .exportCtx r n c), (4, .restore r n c), (5, .free r n c), (6, .shares r n c)]

/-- R365, R366, R367, R381, R543: a context operation whose checks pass starts, shows result RUNNING on its own path and is
the one under way; KILL faults its context with KILLED, FREE makes it FREE, SHARES sets its shares at once. One that a
check refuses shows that result and starts nothing. -/
def Obligations.ContextOpsStart : Prop :=
  ∀ (s : State) (r : Requester) (n : PartId) (c : CtxId), ∀ x ∈ ctxOps r n c,
    accessHeld r 0x210 true (s.aon, s.blk) = false → s.blk.ctxBusy = false →
    let i := (reqPath r).ix
    let arg := s.blk.reg 0x214 i
    let b := s.blk.setReg 0x210 i (setFld (setFld (s.blk.reg 0x210 i) 23 21 n.toNat) 17 0 c.toNat)
    (b.opCheck x.1 n c arg = none → Runs x.2 s fun t =>
      (∃ o, t.blk.ctxOp = some o ∧ o.path = reqPath r ∧ o.op = x.1 ∧ o.part = n ∧ o.ctx = c ∧ o.arg = arg
          ∧ (o.noKey = true → x.1 = 1 ∧ s.aon.noise.st = .failed))
        ∧ fld (t.blk.reg 0x210 i) 30 28 = 0 ∧ fld (t.blk.reg 0x210 i) 23 21 = n.toNat ∧ fld (t.blk.reg 0x210 i) 17 0 = c.toNat
        ∧ (x.1 = 2 → t.faulted c 0x19 0) ∧ (x.1 = 5 → (t.blk.ctx c).life = .free)
        ∧ (x.1 = 6 → (t.blk.ctx c).shares.toNat = fld arg 15 0))
    ∧ ∀ why, b.opCheck x.1 n c arg = some why → Runs x.2 s fun t =>
      t.blk.ctxOp = none ∧ fld (t.blk.reg 0x210 i) 30 28 = why % 8 ∧ t.blk.flights = s.blk.flights ∧ t.blk.mem = s.blk.mem

/-- R366 to R368, R365: a context operation completes with DONE: after CREATE the context is live with its image's
shares and key, after EXPORT it is EXPORTED, after RESTORE it is live in the operation's partition; KILL is done
once its teardown has ended. The path that started it sees the result, and the unit is free. What a restored
command's tensors hold is free (log 23). -/
def Obligations.ContextOpsComplete : Prop :=
  ∀ (s : State) (o : CtxOp), s.blk.ctxOp = some o →
    let done := fun (t : State) => t.blk.ctxOp = none ∧ fld (t.blk.reg 0x210 o.path.ix) 30 28 = 1
    (o.op = 2 → (s.blk.ctx o.ctx).torn = false → Runs .contextOpComplete s done)
      ∧ (o.op = 5 ∨ o.op = 6 → Runs .contextOpComplete s done)
      ∧ (∀ bs k, o.op = 1 → s.blk.bytesIn o.part o.arg 64 false = some bs → s.blk.imageOk o.part bs = true →
          o.noKey = false → s.aon.createKey o.ctx bs = some k → Runs .contextOpComplete s fun t => done t
            ∧ (t.blk.ctx o.ctx).life = .live ∧ (t.blk.ctx o.ctx).part = o.part ∧ (t.blk.ctx o.ctx).key = k
            ∧ (t.blk.ctx o.ctx).shares = BitVec.ofNat 16 (le bs 6 2))
      ∧ (o.op = 3 → (s.blk.ctx o.ctx).part = o.part → (s.blk.slot o.part).running ≠ some o.ctx →
          (s.blk.slot o.part).incoming ≠ some o.ctx → s.blk.stilled o.ctx = true →
          Runs .contextOpComplete s fun t => done t ∧ (t.blk.ctx o.ctx).life = .exported)
      ∧ ∀ bs, o.op = 4 → s.blk.bytesIn o.part o.arg 4096 true = some bs → s.blk.frameOk o.part bs = true →
          Runs .contextOpComplete s fun t => done t ∧ (t.blk.ctx o.ctx).life = .live ∧ (t.blk.ctx o.ctx).part = o.part
            ∧ (t.blk.ctx o.ctx).preds = byteAt' bs 0xA0

/-- R123 to R125, R515, R510: SAVE, LOAD and RESET of an ephemeris and SEAL_OUT and SEAL_IN of the vault start where their
unit is free and show RUNNING on their path. -/
def Obligations.UnitOpsStart : Prop :=
  (∀ (s : State) (r : Requester), ∀ x ∈ [(1, Instr.save r), (2, Instr.load r), (3, Instr.reset r)],
    accessHeld r 0x350 true (s.aon, s.blk) = false → s.blk.ephOp = none →
    Runs x.2 s fun t => t.blk.ephOp = some { path := reqPath r, op := x.1, key := s.blk.handIx (reqPath r),
                                             unsigned := bit (s.aon.reg 0x804).toNat 0 }
      ∧ fld (t.blk.reg 0x350 (reqPath r).ix) 10 9 = 0 ∧ t.blk.ephs = s.blk.ephs ∧ t.blk.mem = s.blk.mem)
  ∧ ∀ (s : State) (r : Requester) (n : PartId), ∀ x ∈ [(1, Instr.sealOut r n), (2, Instr.sealIn r n)],
    accessHeld r 0x80C true (s.aon, s.blk) = false → s.aon.vaultOp = none →
    let i := (reqPath r).ix
    Runs x.2 s fun t => t.aon.vaultOp = some { path := reqPath r, role := s.aon.roleOf r, op := x.1, part := n,
                                               arg0 := s.blk.reg 0x810 i, arg1 := s.blk.reg 0x814 i }
      ∧ fld (t.blk.reg 0x80C i) 30 28 = 0 ∧ fld (t.blk.reg 0x80C i) 23 21 = n.toNat ∧ t.blk.mem = s.blk.mem

/-- R123 to R125, R515, R516: an ephemeris operation completes: RESET clears the histories, SAVE leaves the image in the
stack window, LOAD makes the layer WARM; a SEAL operation completes with its result, and is audited with its role
and path where it was not malformed. The places of the transit header's fields are read by inference (log 24); the device
key and signatures are opaque (log 10). -/
def Obligations.UnitOpsComplete : Prop :=
  (∀ (s : State) (o : EphOp), s.blk.ephOp = some o →
    let n : PartId := BitVec.ofNat 3 (o.key / 256)
    let l : Layer := BitVec.ofNat 8 o.key
    let at' := fld (s.blk.reg 0x34C o.key) 27 0 * 4096
    let done := fun (t : State) => t.blk.ephOp = none ∧ fld (t.blk.reg 0x350 o.path.ix) 10 9 = 1
    (o.op = 3 → Runs .ephemerisOpComplete s fun t => done t ∧ (t.blk.eph n l).md = [] ∧ (t.blk.eph n l).vd = []
      ∧ (t.blk.eph n l).steps = 0 ∧ (t.blk.eph n l).warm = false ∧ (t.blk.eph n l).seq = 0)
    ∧ (∀ c, o.op = 1 → s.blk.mem.stack.wf = true → s.blk.wrStack at' (s.blk.ephImage n l) = .ok c →
      (at' + (s.blk.ephImage n l).length ≤ s.blk.storeAddr 0 ∨ s.blk.storeAddr 0 + 64 * 2 ^ 18 ≤ at') →
      Runs .ephemerisOpComplete s fun t => done t
        ∧ t.blk.mem.stack.rdBytes at' (s.blk.ephImage n l).length = s.blk.ephImage n l ∧ t.blk.ephs = s.blk.ephs)
    ∧ (o.op = 2 → (ephLoad o n l at' (s.aon, s.blk)).2 = 1 →
      Runs .ephemerisOpComplete s fun t => done t ∧ (t.blk.eph n l).warm = true ∧ (t.blk.eph n l).steps = 2
        ∧ (t.blk.eph n l).seq = (s.blk.eph n l).seq))
  ∧ ∀ (s : State) (o : VaultOp), s.Seen → s.aon.vaultOp = some o →
    let r := if o.op = 1 then sealOut o (s.aon, s.blk) else sealIn o (s.aon, s.blk)
    Runs .vaultOpComplete s fun t => t.aon.vaultOp = none ∧ fld (t.blk.reg 0x80C o.path.ix) 30 28 = r.2
      ∧ (r.2 ≠ 3 → ∃ e, (t.aon.vault.audit.getLast?).map (·.1) = some e ∧ e.type = 8
          ∧ e.role.toNat = o.role.code ∧ e.path.toNat = o.path.ix ∧ e.result.toNat = b01 (r.2 = 4))
      ∧ (r.2 = 3 → t.aon.vault.audit = s.aon.vault.audit) ∧ t.blk.ctxs = s.blk.ctxs

/-! ### Registers and rings -/

/-- R9, R542 to R544: a write that its role may make and no check refuses stores the fields' new value, in whichever of
the commands that write the register it comes; no other register, no memory, no command in flight and no governor
changes. An access that must wait is kept, in order, and changes nothing else. That a reserved value of a field is
refused is the model's choice (log 18). -/
def Obligations.PlainWrites : Prop :=
  let stores := fun (s : State) (d : RegDef) (i : Nat) (new : Word) (t : State) =>
    t.blk.reg d.off i = new
      ∧ (∀ o j : Nat, j * 0x10000 + o ≠ i * 0x10000 + d.off → t.blk.reg o j = s.blk.reg o j)
      ∧ t.blk.mem = s.blk.mem ∧ t.blk.flights = s.blk.flights ∧ t.aon.gov = s.aon.gov ∧ t.aon.regs = s.aon.regs
      ∧ t.pending = s.pending
  (∀ (s : State) (r : Requester) (v : Word) (n : PartId) (die : BitVec 2) (z k : Bool), ∀ x ∈ writers r v n die z k,
    ∀ (d : RegDef) (i : Nat) (new : Word), s.Writes r x.2 v d i new → d.off ∉ ownEffect → d.aon = false →
    Runs x.1 s (stores s d i new))
  ∧ (∀ (s : State) (r : Requester) (addr : BitVec 23) (v : Word) (d : RegDef) (i : Nat) (new : Word),
    s.Writes r addr.toNat v d i new → d.off ∉ ownEffect → d.aon = false → Runs (.registerWrite r addr v) s (stores s d i new))
  ∧ (∀ (s : State) (k : Option (BitVec 1)) (addr : BitVec 23) (v : Word) (d : RegDef) (i : Nat) (new : Word),
    s.Writes (.mgmt k) addr.toNat v d i new → d.off ∉ ownEffect → d.aon = false → Runs (.regWrite k addr v) s (stores s d i new))
  ∧ ∀ (s : State) (r : Requester) (addr : BitVec 23) (v : Word), s.Seen →
    accessHeld r (addr.toNat / 4 * 4) true (s.aon, s.blk) = true →
    Runs (.registerWrite r addr v) s fun t => t.aon = s.aon ∧ t.pending = s.pending
      ∧ t.blk = { s.blk with start := { s.blk.start with accesses := s.blk.start.accesses ++ [(r, addr, some v)] } }

/-- R287, R357, R510, R534, R549, R203, R552: writes that start something: a regime change waits for the commands in flight;
placing the context store starts its initialisation; naming a counter context clears the snapshot's valid bit; a valid
group entry is checked, and a cleared one has no members; UNSIGNED mode changes are audited and raise their event;
enabling a ring sets its head and tail to 0. -/
def Obligations.WritesThatStart : Prop :=
  (∀ (s : State) (r : Requester) (v : Word) (d : RegDef) (i : Nat) (new : Word), s.Writes r 0x01C v d i new →
    s.shows r d i ≠ new → Runs (.ndMemRegimeWrite r v) s fun t => t.blk.start.regimeNext = some (bit new.toNat 0)
      ∧ t.blk.start.regime = s.blk.start.regime ∧ t.blk.start.stage = s.blk.start.stage ∧ t.blk.regs = s.blk.regs)
  ∧ (∀ (s : State) (r : Requester) (v : Word) (d : RegDef) (i : Nat) (new : Word), s.Writes r 0x1000 v d i new →
    Runs (.ndCntCtxWrite r v) s fun t => fld (t.blk.reg 0x1000 i) 31 31 = 0 ∧ fld (t.blk.reg 0x1000 i) 17 0 = fld v 17 0)
  ∧ (∀ (s : State) (r : Requester) (v : Word) (d : RegDef) (i : Nat) (new : Word), s.Writes r 0x028 v d i new →
    Runs (.ndCtxStoreWrite r v) s fun t => t.blk.reg 0x028 = new
      ∧ (bit (s.shows r d i).toNat 31 = false → bit new.toNat 31 = true →
          t.blk.start.storeInit = some (s.blk.cycle.toNat + 41944)) ∧ t.blk.mem = s.blk.mem)
  ∧ (∀ (s : State) (r : Requester) (v : Word) (d : RegDef) (i : Nat) (new : Word), s.Writes r 0x404 v d i new → i < 16 →
    Runs (.ndFoldGrpWrite r 0 v) s fun t =>
      (bit new.toNat 31 = true → (t.blk.fgroup (BitVec.ofNat 4 i)).checking = some (new, s.blk.cycle.toNat)
        ∧ (bit (s.shows r d i).toNat 31 = false → bit (t.blk.reg 0x404 i).toNat 31 = false))
      ∧ (bit new.toNat 31 = false → t.blk.reg 0x404 i = new ∧ (t.blk.fgroup (BitVec.ofNat 4 i)).members = []
        ∧ ∀ n, (t.blk.seat n).entry ≠ some (BitVec.ofNat 4 i)))
  ∧ (∀ (s : State) (r : Requester) (v : Word) (d : RegDef) (i : Nat) (new : Word), s.Seen → s.Writes r 0x804 v d i new →
    s.shows r d i ≠ new → Runs (.ndVaultCfgWrite r v) s fun t => t.aon.reg 0x804 = new
      ∧ (bit new.toNat 0 = true → t.aon.vault.unsignedSeen = true)
      ∧ (∃ e, (t.aon.vault.audit.getLast?).map (·.1) = some e ∧ e.type = 3 ∧ e.old = s.shows r d i ∧ e.new = new)
      ∧ ∃ e ∈ t.blk.evts, e.code = 0x93 ∧ e.event = true ∧ e.a = BitVec.ofNat 32 (b01 (bit new.toNat 0)))
  ∧ ∀ (s : State) (r : Requester) (tel : Bool) (v : Word) (d : RegDef) (i : Nat) (new : Word),
    let off := if tel then 0x910 else 0x900
    s.Writes r off v d i new → bit (s.shows r d i).toNat 31 = false → bit new.toNat 31 = true →
    Runs (.ndRingWrite r tel v) s fun t => t.blk.reg off = new ∧ t.blk.reg (off + 4) = 0 ∧ t.blk.reg (off + 8) = 0
      ∧ t.blk.evts = s.blk.evts ∧ t.blk.mem = s.blk.mem

/-- R287, R532, R549, R534, R203, R204, R552, R553: what completes a write: the regime changes once nothing is in flight;
the snapshot holds the counters of its context; the store reads as zeros; a group entry whose list passes its checks is
valid with its members and sequence numbers 0, and one that fails raises BAD_FORMAT; the oldest record of an edge goes
into its ring and its tail moves on; a due telemetry sample enters its edge. -/
def Obligations.WritesComplete : Prop :=
  (∀ (s : State) (v : Bool), s.blk.start.regimeNext = some v → s.blk.flights = [] → s.blk.health.chipFailed = false →
    Runs .regimeChange s fun t => t.blk.start.regime = v ∧ t.blk.start.regimeNext = none
      ∧ t.blk.start.stage = (if v then 7 else 6) ∧ t.blk.mem = s.blk.mem)
  ∧ (∀ (s : State) (path : Path) (k : Nat), k < 64 →
    let c : CtxId := BitVec.ofNat 18 (fld (s.blk.reg 0x1000 path.ix) 17 0)
    Runs (.snapshotComplete path) s fun t => bit (t.blk.reg 0x1000 path.ix).toNat 31 = true
      ∧ ((s.blk.ctx c).life ≠ .free →
          t.blk.snaps.get (path.ix * 0x1000 + 2 * k) 0
              = BitVec.ofNat 32 ((s.blk.ctx c).counters.get k 0).toNat
            ∧ t.blk.snaps.get (path.ix * 0x1000 + 2 * k + 1) 0
              = BitVec.ofNat 32 (((s.blk.ctx c).counters.get k 0).toNat / 2 ^ 32)))
  ∧ (∀ (s : State) (x : Nat), s.blk.start.storeInit = some x → x ≤ s.blk.cycle.toNat →
    let base := fld (s.blk.reg 0x028) 27 0 * 4096
    Runs .contextStoreInit s fun t => t.blk.start.storeInit = none
      ∧ ∀ k, t.blk.mem.stack.rd k = (if base ≤ k ∧ k < base + 2 ^ 24 then 0 else s.blk.mem.stack.rd k))
  ∧ (∀ (s : State) (e : BitVec 4) (v : Word) (from' : Nat), (s.blk.fgroup e).checking = some (v, from') →
    let b := s.blk.setFgroup e { s.blk.fgroup e with checking := none }
    let g := GEntry.of v (s.blk.reg 0x408 e.toNat) (s.blk.reg 0x40C e.toNat)
    (∀ l, b.foldShapeOk e g = true → b.memberList g.base g.n = some l → (l.filter (· = s.blk.self)).length = 1 →
        l.eraseDups.length = l.length → (g.tiered = false ∨ runsOk g.m l = true) →
        Runs (.foldEntryCheck e) s fun t => t.blk.reg 0x404 e.toNat = v ∧ (t.blk.fgroup e).members = l
          ∧ (t.blk.fgroup e).nextSeq = 0 ∧ (t.blk.fgroup e).cometSeq = 0 ∧ (t.blk.fgroup e).checking = none)
      ∧ (b.foldShapeOk e g = false → Runs (.foldEntryCheck e) s fun t => (t.blk.fgroup e).checking = none
          ∧ t.blk.regs = s.blk.regs ∧ ∃ r ∈ t.blk.evts, r.code = 0x03 ∧ r.event = true))
  ∧ (∀ (s : State) (tel : Bool) (bs : List Byte) (rest : List (List Byte)),
    let off := if tel then 0x910 else 0x900
    let r := s.blk.reg off
    let tail := s.blk.reg (off + 8)
    let at' := (ringArea r).1 + 32 * (tail.toNat % 2 ^ (7 + fld r 30 28))
    s.Seen → s.blk.mem.stack.wf = true → bit r.toNat 31 = true →
    (tail - s.blk.reg (off + 4)).toNat ≠ 2 ^ (7 + fld r 30 28) →
    (if tel then s.blk.tels else s.blk.evts.map Rec.bytes) = bs :: rest →
    Runs (.ringCopy tel) s fun t => t.blk.reg (off + 8) = tail + 1 ∧ t.blk.mem.stack.rdBytes at' bs.length = bs
      ∧ (if tel then t.blk.tels else t.blk.evts.map Rec.bytes) = rest ∧ t.blk.out = s.blk.out ++ [.copy tel tail bs])
  ∧ ∀ (s : State), fld (s.blk.reg 0x91C) 7 0 ≠ 0 → fld (s.blk.reg 0x91C) 7 0 ≤ s.aon.gov.telCount →
    s.blk.tels.length < 1024 →
    Runs .telemetrySample s fun t => t.blk.tels = s.blk.tels ++ [telSample s.aon s.blk] ∧ t.aon.gov.telCount = 0

/-- R542, R545: a read returns the register's value on its own path; reading the low word of a 64-bit counter latches the
high word, which the next read of that path takes. -/
def Obligations.ReadsReturn : Prop :=
  (∀ (s : State) (k : Option (BitVec 1)) (addr : BitVec 23), s.Seen →
    accessHeld (.mgmt k) (addr.toNat / 4 * 4) false (s.aon, s.blk) = false → s.blk.latch.find Path.mgmt.ix = none →
    Runs (.regRead k addr) s fun t =>
      t.blk.out = s.blk.out ++ [.read .mgmt (s.blk.wordAt s.aon (.mgmt k) (addr.toNat / 4 * 4))]
        ∧ t.blk.regs = s.blk.regs ∧ t.blk.mem = s.blk.mem ∧ t.aon = s.aon)
  ∧ (∀ (s : State) (addr : BitVec 23) (h : Nat × Word), s.Seen →
    accessHeld .host (addr.toNat / 4 * 4) false (s.aon, s.blk) = false → s.blk.latch.find Path.host.ix = none →
    s.blk.highOf s.aon .host (addr.toNat / 4 * 4) = some h →
    Runs (.counterLowRead addr) s fun t =>
      t.blk.out = s.blk.out ++ [.read .host (s.blk.wordAt s.aon .host (addr.toNat / 4 * 4))]
        ∧ t.blk.latch.find Path.host.ix = some h ∧ t.blk.counters = s.blk.counters ∧ t.aon = s.aon)
  ∧ ∀ (s : State) (addr : BitVec 23) (w : Word), s.Seen →
    accessHeld .host (addr.toNat / 4 * 4) false (s.aon, s.blk) = false →
    s.blk.latch.find Path.host.ix = some (addr.toNat / 4 * 4, w) →
    s.blk.highOf s.aon .host (addr.toNat / 4 * 4) = none →
    Runs (.counterLowRead addr) s fun t => t.blk.out = s.blk.out ++ [.read .host w] ∧ t.blk.latch.find Path.host.ix = none

/-! ### Links -/

/-- R421, R422, R424 to R426, R433 to R435, R441, R442: the flit that a port expects is accepted, as the decoder of a far port
and the edge hand it over; one out of turn owes a NAK, which is repeated, and the fourth sends the port to RECOVER. A
CTRL flit brings what its payload says: credit and an acknowledgement; a block whose tag verifies is released, and one
whose tag fails twice brings the port DOWN. A far sender sends CTRL flits in turn and closes its block. Nothing waits
at the port for the credit that comes, its edge is empty, and damaged words of a flit or a block can be corrected. -/
def Obligations.LinkFlits : Prop :=
  (∀ (s : State) (i : BitVec 4) (k : Flit), isPort i = true → (s.blk.link i).st = .up → k.decoded.bad (isFar i) = false →
    hurtLost k.flips = false → (s.blk.edge (linkEdge i false k.slice.toNat)).items = [] →
    let d := k.decoded.read k.decoded.item
    d.kind = 1 → (isFar i = false → d.nak = false) → (s.blk.link i).wait = [] →
    (d.seq = (s.blk.link i).expect → Runs (.flitReceive i k) s fun t =>
      (t.blk.link i).expect = (s.blk.link i).expect + 1 ∧ (t.blk.link i).owed = false ∧ (t.blk.link i).naks = 0
        ∧ (t.blk.link i).replay = ((s.blk.link i).onAck d.ack).replay
        ∧ (isFar i = true → (t.blk.link i).auth = (s.blk.link i).auth ++ [d])
        ∧ (isFar i = false → (t.blk.link i).credits.rd d.creditVc = d.credit ∧ (t.blk.link i).acked = d.seq)
        ∧ (∀ j, j ≠ i → t.blk.link j = s.blk.link j) ∧ t.blk.mem = s.blk.mem)
    ∧ (d.seq ≠ (s.blk.link i).expect → (s.blk.link i).owed = false → (s.blk.link i).withhold = false →
      Runs (.flitReceive i k) s fun t => (t.blk.link i).expect = (s.blk.link i).expect ∧ (t.blk.link i).owed = true
        ∧ (t.blk.link i).naks = (s.blk.link i).naks + 1 ∧ (t.blk.link i).nakSince = s.blk.cycle.toNat))
  ∧ (∀ (s : State) (i : BitVec 4), isPort i = true → (s.blk.link i).st = .up → (s.blk.link i).owed = true →
    (s.blk.link i).withhold = false →
    (s.blk.link i).nakSince + (if isFar i then 1024 else 256) ≤ s.blk.cycle.toNat →
    Runs (.nakRepeat i) s fun t =>
      ((s.blk.link i).naks < 3 → (t.blk.link i).st = .up ∧ (t.blk.link i).naks = (s.blk.link i).naks + 1
        ∧ (t.blk.link i).nakSince = s.blk.cycle.toNat)
      ∧ (3 ≤ (s.blk.link i).naks → (t.blk.link i).st = .recover ∧ (t.blk.link i).since = s.blk.cycle.toNat))
  ∧ (∀ (s : State) (i : BitVec 4) (k : Flit) (y : Ctrl), isFar i = true → (s.blk.link i).st = .up →
    k.decoded.bad true = false → hurtLost k.flips = false → (s.blk.edge (linkEdge i false k.slice.toNat)).items = [] →
    let d := k.decoded.read k.decoded.item
    let x := ctrlOfBytes d.payload
    let l := s.blk.link i
    d.kind = 2 → l.wait = [] → (∀ f ∈ l.auth, hurtLost f.flips = false) →
    (x.flags = 0 → Runs (.ctrlFlitReceive i k y) s fun t =>
      (∀ v : BitVec 3, (t.blk.link i).credits.rd v = x.credits.getD v.toNat 0)
        ∧ (t.blk.link i).replay = (l.onAck d.ack).replay ∧ (t.blk.link i).expect = l.expect)
    ∧ (x.flags = 2 → d.seq = l.expect → x.block = l.session.rxBlock →
      let open' := (gcmOpen (l.session.rxAt x.block).1 (blockIv (l.session.rxAt x.block).2 x.block)
        (bareHdrs (l.authFlits.map Flit.hdr)) (l.authFlits.flatMap (·.payload) ++ x.tag)).isSome
      (open' = true → Runs (.ctrlFlitReceive i k y) s fun t => (t.blk.link i).auth = []
          ∧ (t.blk.link i).expect = l.expect + 1 ∧ (t.blk.link i).session.rxBlock = l.session.rxBlock + 1
          ∧ (t.blk.link i).acked = d.seq ∧ (t.blk.link i).tagFailed = none)
        ∧ (open' = false → l.tagFailed = some x.block → Runs (.ctrlFlitReceive i k y) s fun t =>
          (t.blk.link i).st = .down ∧ (t.blk.link i).reason = 6)
        ∧ (open' = false → l.tagFailed ≠ some x.block → Runs (.ctrlFlitReceive i k y) s fun t =>
          (t.blk.link i).st = .up ∧ (t.blk.link i).auth = [] ∧ (t.blk.link i).tagFailed = some x.block
            ∧ (t.blk.link i).expect = (((l.auth.head?).map (·.seq)).getD d.seq))))
  ∧ ∀ (s : State) (i : BitVec 4), isFar i = true → (s.blk.link i).st = .up →
    (Runs (.ctrlFlitInterval i false) s fun t => (t.blk.link i).lastCtrl = s.blk.cycle.toNat
        ∧ (t.blk.link i).openBlock = (s.blk.link i).openBlock)
      ∧ ((s.blk.link i).openBlock ≠ [] → Runs (.ctrlFlitInterval i true) s fun t => (t.blk.link i).openBlock = []
        ∧ (t.blk.link i).session.txBlock = (s.blk.link i).session.txBlock + 1
        ∧ (t.blk.link i).replay.length = (s.blk.link i).replay.length + (s.blk.link i).openBlock.length + 1)

/-- R438, R439, R443: a failing lane of a port, among those it runs on or will run on, is retired, and a spare or a narrower map
is named for a later group, with LANE_SPARED or CAPACITY_RETIRED; a failing spare is retired; once the named group has
come, and not before, a direction changes lanes. A rekey names the block 64 on, and there the sender takes the next
keys. The group count by elapsed time is the model's choice (log 26). -/
def Obligations.LanesAndKeys : Prop :=
  (∀ (s : State) (i lane : BitVec 4), isFar i = true → (s.blk.link i).st = .up →
    bit (s.blk.link i).rx.coming.toNat lane.toNat = true → 7 ≤ (s.blk.link i).rxGood →
    let spare := bitsOf 10 ((s.blk.link i).rx.spare &&& ~~~(s.blk.link i).rx.coming).toNat
    let left := (s.blk.link i).rx.coming &&& ~~~BitVec.ofNat 10 (2 ^ lane.toNat)
    let after := fun (t : State) => bit (t.blk.link i).rx.retired.toNat lane.toNat = true
      ∧ (t.blk.link i).rx.active = (s.blk.link i).rx.active
      ∧ (t.blk.link i).rx.next = (s.blk.link i).rx.next ++ [((match spare.head? with
            | some m => left ||| BitVec.ofNat 10 (2 ^ m)
            | none => left), (t.blk.link i).rx.retired,
          BitVec.ofNat 32 ((s.blk.link i).rx.groups s.blk.cycle.toNat + 16))]
      ∧ ∃ e ∈ t.blk.evts, e.event = true ∧ e.code.toNat = (if spare = [] then 0x8F else 0x8D)
    (Runs (.laneLost i lane) s fun t => after t ∧ (t.blk.link i).withhold = true)
      ∧ Runs (.weakLane i lane) s fun t => after t ∧ (t.blk.link i).withhold = (s.blk.link i).withhold)
  ∧ (∀ (s : State) (i lane : BitVec 4), isFar i = true → bit (s.blk.link i).rx.spare.toNat lane.toNat = true →
    Runs (.spareLaneRetire i lane) s fun t => bit (t.blk.link i).rx.retired.toNat lane.toNat = true
      ∧ (t.blk.link i).rx.active = (s.blk.link i).rx.active)
  ∧ (∀ (s : State) (i : BitVec 4) (tx : Bool) (act out : BitVec 10) (g : Word) (rest : List (BitVec 10 × BitVec 10 × Word)),
    isFar i = true → (s.blk.link i).st = .up →
    let side := fun (b : Blk) => if tx then (b.link i).tx else (b.link i).rx
    (side s.blk).next = (act, out, g) :: rest →
    ((side s.blk).come s.blk.cycle.toNat g = true → Runs (.mapGroupSwitch i tx) s fun t =>
      (side t.blk).active = act ∧ (side t.blk).next = rest ∧ (side t.blk).retired = (side s.blk).retired ||| out
        ∧ (tx = false → (t.blk.link i).withhold = ((s.blk.link i).withhold && !rest.isEmpty)))
    ∧ ((side s.blk).come s.blk.cycle.toNat g = false → Runs (.mapGroupSwitch i tx) s fun t => side t.blk = side s.blk))
  ∧ (∀ (s : State) (r : Requester), accessHeld r 0x504 true (s.aon, s.blk) = false →
    let n := fld (s.blk.reg 0x500 (reqPath r).ix) 3 0
    let i := BitVec.ofNat 4 n
    n < 6 → (s.blk.link i).st = .up → (s.blk.link i).session.newLocal = [] → (s.blk.link i).session.rekeyAt = none →
    Runs (.rekey r) s fun t => (t.blk.link i).session.rekeyAt = some ((s.blk.link i).session.txBlock + 64)
      ∧ t.aon.noise.drawn = s.aon.noise.drawn + 1)
  ∧ (∀ (s : State) (i : BitVec 4), isFar i = true → (s.blk.link i).st = .up → (s.blk.link i).session.newLocal = [] →
    (s.blk.link i).session.rekeyAt = none →
    2 ^ 32 ≤ (s.blk.link i).session.txBlock.toNat ∨ 2 ^ 32 ≤ (s.blk.link i).session.rxBlock.toNat →
    Runs (.blockCounterWrap i) s fun t =>
      (t.blk.link i).session.rekeyAt = some ((s.blk.link i).session.txBlock + 64)
        ∧ t.aon.noise.drawn = s.aon.noise.drawn + 1)
  ∧ ∀ (s : State) (i : BitVec 4) (x : Quad), isFar i = true →
    let k := (s.blk.link i).session
    k.rekeyAt = some x → x.toNat ≤ k.txBlock.toNat → k.nextTx ≠ [] →
    Runs (.rekeyAt i) s fun t => (t.blk.link i).session.txKey = k.nextTx ∧ (t.blk.link i).session.txSalt = k.nextSalt
      ∧ (t.blk.link i).session.rekeyAt = none ∧ (t.blk.link i).session.rxKey = k.rxKey

/-- R428, R436 to R438, R440, R449, R158: the states a port goes through: enabled it starts towards UP, each stage that ends
well leads to the next, a stage that ends badly, takes too long or loses its signal leads DOWN with its reason; a
peer of the own package leaves the port in MAP, a missing link key in SECURE; a port in UP told to retrain recovers,
and what waited undamaged goes on after RECOVER. Reasons that the spec does not name are
the model's (log 29); what each stage measured is an operand (log 4). -/
def Obligations.LinkStates : Prop :=
  (∀ (s : State) (r : Requester) (v : Bool) (d : RegDef) (n : Nat) (new : Word),
    s.Writes r 0x504 (BitVec.ofNat 32 (b01 v)) d n new → n < 11 →
    let i := BitVec.ofNat 4 n
    Runs (.enable r v) s fun t => (t.blk.link i).enable = v
      ∧ ((s.blk.link i).enable = false → v = true → (s.blk.link i).st = .down →
          (t.blk.link i).st = (if isFar i then .detect else .train))
      ∧ ((s.blk.link i).enable = true → v = false → (t.blk.link i).st = .down ∧ (t.blk.link i).reason = 1))
  ∧ (∀ (s : State) (r : Requester), accessHeld r 0x504 true (s.aon, s.blk) = false →
    let n := fld (s.blk.reg 0x500 (reqPath r).ix) 3 0
    n < 11 → (s.blk.link (BitVec.ofNat 4 n)).st = .up →
    Runs (.retrain r) s fun t => (t.blk.link (BitVec.ofNat 4 n)).st = .recover)
  ∧ (∀ (s : State) (i : BitVec 4) (lanes : BitVec 10), isFar i = true → (s.blk.link i).st = .detect →
    6 ≤ popCount 10 lanes.toNat → Runs (.detectLock i lanes) s fun t => (t.blk.link i).st = .train)
  ∧ (∀ (s : State) (i : BitVec 4) (good : BitVec 10), isFar i = true → (s.blk.link i).st = .train →
    let out := popCount 10 ((s.blk.link i).rx.retired ||| ~~~good).toNat
    (out ≤ 4 → Runs (.trainDone i good) s fun t => (t.blk.link i).st = .map
        ∧ (t.blk.link i).rx.retired = (s.blk.link i).rx.retired ||| ~~~good)
      ∧ (4 < out → Runs (.trainDone i good) s fun t => (t.blk.link i).st = .down ∧ (t.blk.link i).reason = 2
        ∧ t.blk.health.chipFailed = true))
  ∧ (∀ (s : State) (i : BitVec 4) (peer : InstId) (pp : BitVec 3), isFar i = true → (s.blk.link i).st = .map →
    (posOf peer = posOf s.blk.self → pkgOf peer = pkgOf s.blk.self → Runs (.mapDone i peer pp) s fun t =>
        (t.blk.link i).st = .map ∧ (t.blk.link i).peer = (s.blk.link i).peer)
      ∧ (posOf peer = posOf s.blk.self → pkgOf peer ≠ pkgOf s.blk.self → Runs (.mapDone i peer pp) s fun t =>
        (t.blk.link i).st = .align ∧ (t.blk.link i).peer = some (peer, pp)
        ∧ ∀ n, n < 10 → bit (t.blk.link i).rx.active.toNat n = true → bit (s.blk.link i).rx.retired.toNat n = false)
      ∧ (posOf peer ≠ posOf s.blk.self → Runs (.mapDone i peer pp) s fun t =>
        (t.blk.link i).st = .down ∧ (t.blk.link i).reason = 3))
  ∧ (∀ (s : State) (i : BitVec 4), isFar i = true →
    ((s.blk.link i).st = .align → Runs (.alignDone i) s fun t => (t.blk.link i).st = .secure)
      ∧ ((s.blk.link i).st = .secure → (s.blk.link i).session.confirmed = true →
          s.aon.vault.linkKeys.rd (BitVec.ofNat 3 i.toNat) = none → Runs (.secureDone i) s fun t => (t.blk.link i).st = .secure)
      ∧ ((s.blk.link i).st = .secure → (s.blk.link i).session.confirmed = true →
          s.aon.vault.linkKeys.rd (BitVec.ofNat 3 i.toNat) ≠ none → Runs (.secureDone i) s fun t =>
        (s.aon.vault.fuses.lifecycle = .owned → s.aon.vaultFail = false → (t.blk.link i).st = .up)
          ∧ (s.aon.vault.fuses.lifecycle ≠ .owned → (t.blk.link i).st = .down ∧ (t.blk.link i).reason = 5))
      ∧ ((s.blk.link i).st = .recover → (∀ p ∈ (s.blk.link i).wait, p.hurt = []) →
          (∀ f ∈ (s.blk.link i).replay, f.hurt = []) → Runs (.recoverDone i) s fun t => (t.blk.link i).st = .up
        ∧ ∀ p ∈ (s.blk.link i).wait, t.blk.handed (Port.of' i) p.out)
      ∧ ((s.blk.link i).st = .up → Runs (.signalLoss i) s fun t =>
        (t.blk.link i).st = .down ∧ (t.blk.link i).reason = 8))
  ∧ (∀ (s : State) (i : BitVec 4) (x : Nat × Nat), isPort i = true → stateLimit (isFar i) (s.blk.link i).st = some x →
    ((s.blk.link i).st = .secure → (s.aon.vault.linkKeys.rd (BitVec.ofNat 3 i.toNat)) ≠ none) →
    (s.blk.link i).since + x.1 < s.blk.cycle.toNat →
    Runs (.linkStateTimeout i) s fun t => (t.blk.link i).st = .down ∧ (t.blk.link i).reason.toNat = x.2)
  ∧ (∀ (s : State) (i : BitVec 4), isPort i = true → (s.blk.link i).st = .down → (s.blk.link i).enable = true →
    (s.blk.link i).since + 100000000 ≤ s.blk.cycle.toNat →
    Runs (.downRetry i) s fun t => (t.blk.link i).st = (if isFar i then .detect else .train))
  ∧ ∀ (s : State) (i : BitVec 4), isPort i = true → isFar i = false → (s.blk.link i).st = .train →
    (Runs (.portTrainDone i true) s fun t => (t.blk.link i).st = .up)
      ∧ Runs (.portTrainDone i false) s fun t => (t.blk.link i).st = .down ∧ (t.blk.link i).reason = 2

/-! ### Wear -/

/-- R148, R477 to R480, R482, R484, R486, R489: what the wear units do: a failed deal stage is swapped out over 64
cycles; a due part is retested over 4,096 cycles, and passes or is lost; a scrub window of 2^30 cycles, in which every
row is read, ends with its rate; a row's, a bank's and a quad's replacement take effect; the scrub repairs a row's
readable words where its array serves no command; and a failed instance writes out what it held. Details that the spec does not name are the model's (log 46); what a retest finds is an
operand (log 4). -/
def Obligations.WearEvents : Prop :=
  (∀ (s : State) (inb : Bool) (st : Nat),
    let x := s.blk.health.stages inb
    let out := x.retired ||| BitVec.ofNat 19 (2 ^ st)
    x.waiting = some st → x.swapEnd = none → s.blk.unitIdle (if inb then 29 else 28) = true →
    s.blk.health.chipFailed = false → popCount 19 out.toNat ≤ 2 → 6 ≤ s.blk.start.stage.toNat →
    Runs (.dealStageSwap inb) s fun t => t.blk.health.stages inb
      = { x with retired := out, waiting := none, swapEnd := some (s.blk.cycle.toNat + 64) })
  ∧ (∀ (s : State) (inb : Bool) (x : Nat), (s.blk.health.stages inb).swapEnd = some x → x ≤ s.blk.cycle.toNat →
    Runs (.dealStageSwapDone inb) s fun t =>
      t.blk.health.stages inb = { s.blk.health.stages inb with swapEnd := none })
  ∧ (∀ (s : State) (u : BitVec 6) (x : Nat) (rest : List Nat), (s.blk.wear u.toNat).due = x :: rest →
    (s.blk.wear u.toNat).retest = none → s.blk.unitIdle u.toNat = true →
    Runs (.retest u) s fun t => (t.blk.wear u.toNat).retest = some (x, s.blk.cycle.toNat + 4096)
      ∧ ∀ v, v ≠ u.toNat → t.blk.wear v = s.blk.wear v)
  ∧ (∀ (s : State) (u : BitVec 6) (n : BitVec 24) (pass : Bool) (x : Nat), (s.blk.wear u.toNat).retest = some (n.toNat, x) →
    x ≤ s.blk.cycle.toNat →
    Runs (.retestDone u n pass) s fun t => (t.blk.wear u.toNat).retest = none ∧ n.toNat ∉ (t.blk.wear u.toNat).failing
      ∧ n.toNat ∉ (t.blk.wear u.toNat).due
      ∧ (pass = true → (t.blk.wear u.toNat).window = (s.blk.wear u.toNat).window + 1))
  ∧ (∀ (s : State) (margin : BitVec 8), s.blk.cycle.toNat < s.blk.health.windowAt + 2 ^ 30 →
    Runs (.scrubWindowEnd margin) s fun t => ∀ u, t.blk.wear u = s.blk.wear u)
  ∧ (∀ (s : State) (margin : BitVec 8), s.blk.health.windowAt + 2 ^ 30 ≤ s.blk.cycle.toNat →
    let b := s.blk.scrubRest
    Runs (.scrubWindowEnd margin) s fun t =>
      (∀ u, u < 40 → (t.blk.wear u).window = 0 ∧ (t.blk.wear u).errRows = []
        ∧ (t.blk.wear u).prevRows = (b.wear u).errRows
        ∧ (t.blk.wear u).rate = BitVec.ofNat 32 (Nat.min (2 ^ 32 - 1) (b.wear u).window))
      ∧ t.blk.health.windowAt = s.blk.cycle.toNat
      ∧ t.aon.reg 0x710 s.aon.gov.op.toNat
          = BitVec.ofNat 32 (Nat.min margin.toNat (s.aon.reg 0x710 s.aon.gov.op.toNat).toNat))
  ∧ (∀ (s : State) (u : BitVec 6) (row : BitVec 24) (x : Nat),
    (s.blk.wear u.toNat).copies.find? (fun c => c.1 = row.toNat) = some (row.toNat, x) → x ≤ s.blk.cycle.toNat →
    Runs (.rowCopyDone u row) s fun t => (∀ c ∈ (t.blk.wear u.toNat).copies, c.1 ≠ row.toNat)
      ∧ (s.blk.health.chipFailed = false → u.toNat ≠ 17 →
          (s.blk.wear u.toNat).rowsOut.length < spareTotal u.toNat →
          (t.blk.wear u.toNat).rowsOut = (s.blk.wear u.toNat).rowsOut ++ [row.toNat]))
  ∧ (∀ (s : State) (u : BitVec 6) (row : BitVec 24) (k w : Nat), s.blk.bankIn u.toNat = some k →
    (∀ f ∈ s.blk.flights, bit (f.bankRd ||| f.bankWr).toNat k = false) →
    (u.toNat, row.toNat) ∉ s.blk.health.scrubbed → w ∈ s.blk.damaged u.toNat row.toNat →
    (s.blk.mem.word w).isSome = true →
    Runs (.scrubRow u row) s fun t => t.blk.mem.flips.find w = none ∧ (u.toNat, row.toNat) ∈ t.blk.health.scrubbed)
  ∧ (∀ (s : State) (k : BitVec 4) (x : Nat), s.blk.health.bankCopy = some (k.toNat, x) → x ≤ s.blk.cycle.toNat →
    Runs (.bankCopyDone k) s fun t => t.blk.health.bankCopy = none ∧ t.blk.health.bank16 = some k.toNat)
  ∧ (∀ (s : State) (x : Nat) (rest : List Nat), s.blk.health.quadDue = x :: rest → s.blk.unitIdle 23 = true →
    Runs .quadRetire s fun t => t.blk.health.quadDue = rest ∧ t.blk.health.lanesActive = s.blk.health.lanesActive - 4
      ∧ x ∈ t.blk.health.lanesOut)
  ∧ ∀ (s : State), s.blk.health.chipFailed = true → s.blk.health.writeout = true →
    Runs .chipFailedWriteoutDone s fun t => t.blk.health.writeout = false
      ∧ (∀ c, (s.blk.ctx c).alive = true ∨ (s.blk.ctx c).life = .exported → (t.blk.ctx c).life = .exported)
      ∧ ∀ f ∈ t.blk.flights, f.suspends = true → f.suspended ≠ none

/-! ### Noise and the DRBG -/

/-- R408 to R413, R526: a sample that the health tests pass joins the conditioned block; 41 equal samples fail the
Repetition Count Test; a start-up test that saw both values ends in OK; full blocks are conditioned and instantiate
the DRBG; it reseeds when due, and serves FRESH requests in order; a restart leaves FAILED; the first result of the
known-answer tests stays. SHA-384 and the AES-256 CTR_DRBG are written out from their standards (log 72); what ends a
start-up test early is read by inference (log 45). -/
def Obligations.NoiseSource : Prop :=
  (∀ (s : State) (v : Bool), s.aon.noise.st = .ok → (s.aon.noise.test v).2 = none → s.aon.noise.block.length < 1024 →
    Runs (.rawSample v) s fun t => t.aon.noise.block = v :: s.aon.noise.block ∧ t.aon.noise.st = .ok
      ∧ t.aon.noise.last = v
      ∧ t.aon.noise.runLen = (if s.aon.noise.runLen ≠ 0 ∧ s.aon.noise.last = v then s.aon.noise.runLen + 1 else 1)
      ∧ t.aon.gov = s.aon.gov ∧ t.blk.mem = s.blk.mem)
  ∧ (∀ (s : State) (v : Bool), s.aon.noise.st ≠ .failed → s.aon.noise.last = v → 40 ≤ s.aon.noise.runLen →
    Runs (.rawSample v) s fun t => t.aon.noise.retries = s.aon.noise.retries + 1
      ∧ t.aon.noise.st = (if s.aon.noise.retries = 2 then .failed else .retry)
      ∧ t.aon.noise.rctFails = satAdd s.aon.noise.rctFails 1 ∧ t.aon.noise.runLen = 0
      ∧ (s.aon.noise.retries ≠ 2 → ∃ r ∈ t.blk.evts, r.code = 0x91 ∧ r.event = true ∧ r.a = 1))
  ∧ (∀ (s : State), s.aon.noise.st = .startup ∨ s.aon.noise.st = .retry → 1024 ≤ s.aon.noise.testPos →
    Runs .startupTestEnd s fun t =>
      (s.aon.noise.seen0 = true → s.aon.noise.seen1 = true → t.aon.noise.st = .ok ∧ t.aon.noise.retries = 0)
        ∧ (s.aon.noise.seen0 = false ∨ s.aon.noise.seen1 = false →
            t.aon.noise.st = (if s.aon.noise.retries = 2 then .failed else .retry)
              ∧ t.aon.noise.retries = s.aon.noise.retries + 1))
  ∧ (∀ (s : State), s.aon.noise.st = .ok → 1024 ≤ s.aon.noise.block.length →
    let x := sha384 (packBits s.aon.noise.block.reverse)
    Runs .conditionedBlock s fun t => t.aon.noise.block = [] ∧ t.blk = s.blk
      ∧ (s.aon.noise.instantiated = true → s.aon.noise.ready.length < 2 → t.aon.noise.ready = s.aon.noise.ready ++ [x])
      ∧ (∀ e, s.aon.noise.instantiated = false → s.aon.noise.ready = [e] →
          t.aon.noise.instantiated = true ∧ t.aon.noise.ready = [] ∧ t.aon.noise.requests = 0
            ∧ t.aon.noise.drbg = Drbg.instantiate e (x.take 16) (toLe 2 s.blk.self.toNat)))
  ∧ (∀ (s : State) (x : List Byte) (rest : List (List Byte)), s.aon.noise.instantiated = true → s.aon.noise.ready = x :: rest →
    s.aon.noise.reseedDue = true ∨ 2 ^ 20 - 2 ^ 10 ≤ s.aon.noise.requests →
    Runs .drbgReseed s fun t => t.aon.noise.ready = rest ∧ t.aon.noise.reseedDue = false
      ∧ t.aon.noise.drbg = s.aon.noise.drbg.reseed x
      ∧ t.aon.noise.requests = 0 ∧ t.blk = s.blk)
  ∧ (∀ (s : State) (p : Site) (w : Quad) (rest : List (Option (Site × Quad))), s.aon.noise.waiting = some (p, w) :: rest →
    s.aon.noise.st = .ok → s.aon.noise.instantiated = true → s.aon.noise.reseedDue = false →
    s.aon.noise.blockDue = false →
    Runs .drbgGenerate s fun t => t.aon.noise.waiting = rest
      ∧ t.aon.noise.served = s.aon.noise.served ++ [(p.ctx, (s.aon.noise.drbg.generate 16).1)]
      ∧ t.aon.noise.drbg = (s.aon.noise.drbg.generate 16).2
      ∧ t.aon.noise.drawn = s.aon.noise.drawn + 1 ∧ t.aon.noise.requests = s.aon.noise.requests + 1)
  ∧ (∀ (s : State) (r : Requester) (d : RegDef) (i : Nat) (new : Word), s.Writes r 0x744 1 d i new → bit new.toNat 0 = true →
    s.aon.noise.st = .failed →
    Runs (.restart r) s fun t => t.aon.noise.st = .startup ∧ t.aon.noise.retries = 0 ∧ t.aon.noise.testPos = 0)
  ∧ ∀ (s : State) (pass : Bool), s.aon.vault.kat = none →
    Runs (.knownAnswerTests pass) s fun t => t.aon.vault.kat = some pass ∧ t.blk = s.blk ∧ t.aon.gov = s.aon.gov

/-! ### The governor -/

/-- R242, R455, R461 to R465, R467, R473, R555: a control period takes the dispatcher's power from the calibrated energy model
(its rounding, log 70), counts itself, and moves the bubbles by the shares; a die's GOV report is kept, and so is READ_POUT, for which a regulator that no one bus acknowledged counts
its domain's floor (R541); a calibration window and a cooling block end; a pacing
round starts when its time is up, or with the leader's message of the next round, and a peer's message of the round
is kept; where the lowest live position sends a round that is neither this one nor next to it, the governor takes that round
(log 70); a message that its port FIFO keeps waits there. The order within a period and a round is read by inference (log 41, 42); measurements are operands (log 4).
-/
def Obligations.GovernorPeriods : Prop :=
  (∀ (s : State) (m : Measure), s.aon.vault.boot ≠ .restart →
    Runs (.controlPeriod m) s fun t => t.aon.gov.period = s.aon.gov.period + 1
      ∧ t.aon.gov.telCount = s.aon.gov.telCount + 1 ∧ t.aon.gov.blockCount = s.aon.gov.blockCount + 1
      ∧ t.aon.gov.power.compute = (s.aon.gov.gain * s.aon.gov.recent + s.aon.gov.offset * 100000 * 4096) / (25000000 * 4096)
          + (Machine.dies.map fun d => (s.aon.gov.dies.rd d).power).foldl (· + ·) 0
      ∧ t.aon.gov.power.memory = s.aon.gov.power.memory ∧ t.aon.gov.temps.rd 0 = m.hottest
      ∧ (t.aon.gov.alerted = true → t.aon.gov.bubbles = fullBubbles)
      ∧ (t.aon.gov.alerted = false → t.aon.gov.bubbles.memory
          = bubblesNext s.aon.gov.bubbles.memory s.aon.gov.power.memory t.aon.gov.shares.memory))
  ∧ (∀ (s : State) (die : BitVec 2) (w0 w1 w2 : Word), die ≠ 3 → (s.blk.link (Port.k die).ix).st = .up →
    Runs (.gov die w0 w1 w2) s fun t => (t.aon.gov.dies.rd die).power = fld w0 15 0
      ∧ (t.aon.gov.dies.rd die).temp.toNat = fld w0 23 16 ∧ (t.aon.gov.dies.rd die).op.toNat = fld w0 26 24
      ∧ (t.aon.gov.dies.rd die).droop.toNat = fld w2 15 0)
  ∧ (∀ (s : State) (memory links core : List (BitVec 16)),
    let p := s.aon.domainPower
    Runs (.poutRead memory links core) s fun t => t.aon.gov.power.memory = p memory 1
      ∧ t.aon.gov.power.links = p links 2 ∧ t.aon.gov.power.compute = s.aon.gov.power.compute
      ∧ t.aon.gov.measured = s.aon.gov.measured + 25 * (p core 0 + p links 2) ∧ t.blk = s.blk)
  ∧ (∀ (a : Aon) (pout : List (BitVec 16)) (c : Config') (e : BitVec 16) (w : BitVec 16), a.vault.config = some c →
    c.regulators = [e] → e ≠ 0 → pout = [w] →
    ∀ d, d < 3 → a.domainPower pout d = (if fld e.toNat 9 8 ≠ d then 0
      else if (a.regBus[0]?).getD none ≠ none then w.toNat else 4 * fld (a.reg 0x610) (10 * d + 9) (10 * d)))
  ∧ (∀ (s : State), Runs .calibration s fun t => t.aon.gov.measured = 0 ∧ t.aon.gov.modelled = 0
      ∧ t.aon.gov.energyBase = 0
      ∧ t.blk.counters.get 0x2050 0
          = s.blk.counters.get 0x2050 0 + BitVec.ofNat 64 (s.aon.windowEnergy - s.aon.gov.energyBase)
      ∧ (s.aon.gov.modelled < 93750000000 → t.aon.gov.gain = s.aon.gov.gain)
      ∧ (93750000000 ≤ s.aon.gov.modelled → t.aon.gov.offset = s.aon.gov.offset ∧ 0x800 ≤ t.aon.gov.gain
          ∧ t.aon.gov.gain ≤ 0x2000))
  ∧ (∀ (s : State), Runs .coolingBlock s fun t => t.aon.gov.blockSum = 0 ∧ t.aon.gov.blockCount = 0 ∧ t.blk = s.blk
      ∧ t.aon.gov.blocks.length ≤ 39
      ∧ (fld (s.aon.reg 0x60C) 31 16 ≠ 0 → t.aon.gov.blocks.getLast? = some (s.aon.gov.blockSum / s.aon.gov.blockCount)))
  ∧ (∀ (s : State), s.aon.vault.boot ≠ .restart →
    s.aon.gov.roundFrom.toNat + (if s.aon.gov.leader (posOf s.blk.self) = posOf s.blk.self then 2500 else 2560)
      ≤ s.aon.count.toNat →
    Runs .pacingRound s fun t => t.aon.gov.round = s.aon.gov.round + 1 ∧ t.aon.gov.roundFrom = s.aon.count)
  ∧ ∀ (s : State) (k : CometMsg), badPace s.blk k = false →
    let p := Pace.ofBytes k.payload
    let j := posOf k.src
    let newer := ∀ l, s.aon.gov.heard.find j = some l → notAfter l p.round = true
    (s.blk.cometWaits k = true → s.Seen → (s.blk.comets.held.filter fun y => s.blk.cometPort y = s.blk.cometPort k).length < 32 →
      Runs (.cpaceReceive k) s fun t =>
        t = { s with blk := { s.blk with comets := { s.blk.comets with held := s.blk.comets.held ++ [k] } } })
      ∧ (s.blk.cometWaits k = false → k.dst = s.blk.self → s.aon.vault.boot ≠ .restart →
        (newer → p.round = s.aon.gov.round → Runs (.cpaceReceive k) s fun t => t.aon.gov.paces.find j = some p
          ∧ t.aon.gov.heard.find j = some p.round ∧ t.aon.gov.round = s.aon.gov.round)
        ∧ (newer → p.round = s.aon.gov.round + 1 → (s.aon.gov.keepPace j p).leader (posOf s.blk.self) = j →
          Runs (.cpaceReceive k) s fun t => t.aon.gov.round = s.aon.gov.round + 1 ∧ t.aon.gov.roundFrom = s.aon.count)
        ∧ (p.round ≠ s.aon.gov.round → p.round ≠ s.aon.gov.round + 1 → p.round + 1 ≠ s.aon.gov.round →
          ((s.aon.gov.renumber (p.round - 1)).keepPace j p).leader (posOf s.blk.self) = j →
          Runs (.cpaceReceive k) s fun t => t.aon.gov.round = p.round ∧ t.aon.gov.roundFrom = s.aon.count))

/-- R451, R452, R454, R468 to R471, R522: warnings, alerts and temperatures: a warning of VDD_CORE or VDD_SRAM forces
OP0 and holds it, and its 50 µs count while both rails are 20 mV above warning; one of another rail raises its event; an alert forces OP0 with full bubbles and its end starts the
50 µs hold; a droop stretches the cycle; temperatures are kept, and 115 °C trips to S3; the hold's end and the steps
up; an upward step is done when its PLL has locked, 20 µs after VOUT_COMMAND at the earliest; a rail that fails resets what it feeds. Which event an alert or
a hold raises is read by inference (log 43); measurements are operands (log 4). -/
def Obligations.SuppliesAndAlerts : Prop :=
  (∀ (s : State) (rail : BitVec 3), rail = 1 ∨ rail = 2 →
    Runs (.railWarning rail .below) s fun t => t.aon.gov.op = 0 ∧ (∀ d, t.aon.gov.dieOp.rd d = 0)
      ∧ bit t.aon.gov.warnSeen.toNat rail.toNat = true ∧ bit t.aon.gov.throttle.toNat 4 = true
      ∧ ∃ r f, t.aon.gov.hold = .hold r f none)
  ∧ (∀ (s : State) (rail : BitVec 3), rail = 0 ∨ rail = 3 ∨ rail = 4 ∨ rail = 5 →
    Runs (.railWarning rail .below) s fun t => bit t.aon.gov.warnSeen.toNat rail.toNat = true
      ∧ t.aon.gov.op = s.aon.gov.op ∧ ∃ r ∈ t.blk.evts, r.code = 0x8A ∧ r.event = true ∧ r.a.toNat = rail.toNat)
  ∧ (∀ (s : State) (rail : BitVec 3) (level : RailLevel), rail.toNat < 6 → level ≠ .below →
    Runs (.railWarning rail level) s fun t => bit t.aon.gov.warnNow.toNat rail.toNat = false
      ∧ bit t.aon.gov.nearNow.toNat rail.toNat = decide (level = .near) ∧ t.aon.gov.warnSeen = s.aon.gov.warnSeen)
  ∧ (∀ (s : State) (rail other : BitVec 3) (r : Nat) (f : Quad) (x : Option Quad), (rail, other) = (1, 2) ∨ (rail, other) = (2, 1) →
    s.aon.gov.hold = .hold r f x →
    Runs (.railWarning rail .near) s (fun t => t.aon.gov.hold = .hold r f none)
      ∧ Runs (.railWarning rail .good) s fun t =>
        t.aon.gov.hold = .hold r f (if bit s.aon.gov.nearNow.toNat other.toNat then none else x.or (some s.aon.count)))
  ∧ (∀ (s : State) (g : BitVec 2), s.aon.gov.alerts = 0 → s.aon.gov.critNow = 0 →
    Runs (.ralertAssert g) s fun t => bit t.aon.gov.alerts.toNat g.toNat = true ∧ t.aon.gov.op = 0
      ∧ t.aon.gov.bubbles = fullBubbles ∧ bit t.aon.gov.throttle.toNat 5 = true)
  ∧ (∀ (s : State) (g : BitVec 2), s.aon.gov.alerts = BitVec.ofNat 4 (2 ^ g.toNat) → s.aon.gov.critNow = 0 →
    Runs (.ralertDeassert g) s fun t => t.aon.gov.alerts = 0
      ∧ t.aon.gov.release = .hold 0 s.aon.count (some s.aon.count) ∧ t.aon.gov.op = s.aon.gov.op)
  ∧ (∀ (s : State), s.Seen → Runs .droopDetect s fun t => t.aon.gov.droopNow = true
      ∧ t.blk.counters.get Cnt.pwrStretch 0 = s.blk.counters.get Cnt.pwrStretch 0 + 1
      ∧ t.blk.out = s.blk.out ++ [.stretch 0, .stretch 1, .stretch 2]
      ∧ t.blk.flights = s.blk.flights.map fun f => if f.suspended.isNone then { f with stretch := f.stretch + 1 } else f)
  ∧ (∀ (s : State) (die : BitVec 2), die ≠ 3 → Runs (.kDroop die) s fun t =>
    t.blk.counters.get (Cnt.dieDroop die.toNat) 0 = s.blk.counters.get (Cnt.dieDroop die.toNat) 0 + 1)
  ∧ (∀ (s : State) (sensor : BitVec 2) (c : BitVec 8), Runs (.thermalCrossing sensor c) s fun t =>
      t.aon.gov.temps.rd sensor = c
        ∧ ((fld (s.aon.reg 0x614) 7 0 : Int) ≤ c.toInt → bit t.aon.gov.hotNow.toNat sensor.toNat = true)
        ∧ (115 ≤ c.toInt → t.aon.gov.sleep = .s3 ∧ t.aon.gov.trip = true
            ∧ ∀ i, isPort i = true → (t.blk.link i).st = .down))
  ∧ (∀ (s : State) (r : Nat) (f x : Quad), s.aon.gov.hold = .hold r f (some x) → x.toNat + 1250 ≤ s.aon.count.toNat →
    Runs .supplyHoldEnd s fun t => t.aon.gov.hold = .ramp r s.aon.count
      ∧ ∃ e ∈ t.blk.evts, e.code = 0x8A ∧ e.event = true ∧ e.a = BitVec.ofNat 32 r)
  ∧ (∀ (s : State) (r : Nat) (x : Quad) (u : Nat), s.aon.gov.hold = .ramp r x → x.toNat + 1250 ≤ s.aon.count.toNat →
    s.aon.gov.release = .none → s.aon.gov.alerted = false → u ∈ [1, 2, 3] →
    s.aon.gov.opOf u < goalOp s.aon s.blk u → s.aon.gov.opOf u < 7 →
    Runs .supplyStepUp s fun t => t.aon.gov.opOf u = s.aon.gov.opOf u + 1)
  ∧ (∀ (s : State) (op : BitVec 3), s.aon.gov.opNext = some op →
    (s.aon.gov.opSince.toNat + 500 ≤ s.aon.count.toNat →
      Runs .opStepDone s fun t => t.aon.gov.op = op ∧ t.aon.gov.opNext = none)
    ∧ (s.aon.count.toNat < s.aon.gov.opSince.toNat + 500 → s.Seen → Runs .opStepDone s fun t => t = s))
  ∧ (∀ (s : State) (rail : BitVec 3),
    (rail = 0 → Runs (.railReset rail) s fun t => t.aon.held = true ∧ t.blk.start.stage = 0 ∧ t.blk.flights = [])
      ∧ (rail = 1 ∨ rail = 2 → Runs (.railReset rail) s fun t => t.blk.start.stage = 0 ∧ t.blk.start.held = true
        ∧ t.blk.flights = [] ∧ bit (t.aon.reg 0x10).toNat 2 = true)
      ∧ (rail = 3 → Runs (.railReset rail) s fun t => ∀ i : BitVec 4, 6 ≤ i.toNat → i.toNat ≤ 10 →
        (t.blk.link i).st = .down ∧ (t.blk.link i).reason = 8)
      ∧ (rail = 4 ∨ rail = 5 → Runs (.railReset rail) s fun t => ∀ i, isFar i = true →
        (t.blk.link i).st = .down ∧ (t.blk.link i).reason = 8))
  ∧ ∀ (s : State), (Runs (.railOrderError false) s fun t => t.aon.gov.orderErr = true ∧ t.aon.gov.orderHold = true
      ∧ t.blk.start.stage = 0 ∧ t.blk.start.held = true)
    ∧ Runs (.railOrderError true) s fun t => t.aon.gov.orderHold = false ∧ t.blk.mem = s.blk.mem
      ∧ t.blk.start = s.blk.start

/-- R458 to R460, R452: S1 is entered after its idle time and left 40 cycles after the event that lets an instruction issue; a
request for S2 or S3 with nothing under way
takes every port DOWN and enters it, and is refused while something is; a request for S0 starts the wake, and at its
end the block goes on: from S2 with its enabled ports training, from S3 with bring-up, unless an order error holds block
reset. In S3 a request for S2 or S3 changes nothing (log 70). From when the wake times
count is read by inference (log 43). -/
def Obligations.SleepAndWake : Prop :=
  (∀ (s : State), s1Ready s.aon s.blk = true → fld (s.aon.reg 0x604) 15 8 * 64 ≤ s.aon.gov.idle →
    Runs .s1Entry s fun t => t.aon.gov.sleep = .s1 ∧ t.blk.mem = s.blk.mem)
  ∧ (∀ (s : State) (x : Nat), s.aon.gov.sleep = .s1 → s.aon.gov.s1Event = some x →
    (x + 40 ≤ s.blk.cycle.toNat → Runs .s1Wake s fun t => t.aon.gov.sleep = .s0 ∧ t.aon.gov.idle = 0)
    ∧ (s.blk.cycle.toNat < x + 40 → Runs .s1Wake s fun t => t.aon.gov.sleep = .s1))
  ∧ (∀ (s : State) (r : Requester) (d : RegDef) (i : Nat) (new : Word), s.aon.roleOf r ≠ .operator →
    ∀ x ∈ [(2, Sleep.s2, Instr.requestS2 r), (3, Sleep.s3, Instr.requestS3 r)],
    s.Writes r 0x604 (setFld (s.aon.reg 0x604) 1 0 x.1) d i new →
    (s.aon.gov.sleep ≠ .s3 → s.blk.mayRest = true → Runs x.2.2 s fun t => t.aon.gov.sleep = x.2.1
        ∧ t.aon.gov.sleepResult = 0 ∧ t.aon.gov.op = 0 ∧ ∀ i, isPort i = true → (t.blk.link i).st = .down)
      ∧ (s.aon.gov.sleep = .s3 → Runs x.2.2 s fun t => t.aon.gov.sleep = .s3 ∧ t.blk.links = s.blk.links)
      ∧ (s.aon.gov.sleep ≠ .s3 → s.blk.mayRest = false → Runs x.2.2 s fun t => t.aon.gov.sleep = s.aon.gov.sleep ∧ t.aon.gov.sleepResult = 1
        ∧ t.blk.links = s.blk.links))
  ∧ (∀ (s : State) (r : Requester) (d : RegDef) (i : Nat) (new : Word), s.aon.roleOf r ≠ .operator →
    s.Writes r 0x604 (setFld (s.aon.reg 0x604) 1 0 0) d i new → s.aon.gov.wakeFrom = none →
    s.aon.gov.sleep = .s2 ∨ s.aon.gov.sleep = .s3 →
    Runs (.requestS0 r) s fun t => t.aon.gov.wakeFrom = some s.aon.count.toNat ∧ t.aon.gov.sleep = s.aon.gov.sleep
      ∧ t.aon.gov.sleepResult = 0)
  ∧ (∀ (s : State) (x : Nat), s.aon.gov.sleep = .s2 → s.aon.gov.wakeFrom = some x → x + 300 ≤ s.aon.count.toNat →
    s.blk.start.accesses = [] →
    Runs .s2WakeDone s fun t => t.aon.gov.sleep = .s0 ∧ t.aon.gov.wakeFrom = none
      ∧ ∀ i, isPort i = true → (s.blk.link i).enable = true → (s.blk.link i).st = .down →
        (t.blk.link i).st = (if isFar i then .detect else .train))
  ∧ ∀ (s : State) (x : Nat), s.aon.gov.sleep = .s3 → s.aon.gov.wakeFrom = some x → x + 50000 ≤ s.aon.count.toNat →
    s.aon.gov.orderHold = false →
    Runs .s3WakeDone s fun t => t.aon.gov.sleep = .s0 ∧ t.aon.gov.wakeFrom = none ∧ t.blk.start.stage = 1
      ∧ t.blk.cycle = 0 ∧ bit (t.aon.reg 0x10).toNat 5 = true ∧ t.blk.mem.stack = s.blk.mem.stack

/-! ### Resets and bring-up -/

/-- R18, R516, R522 to R524, R526 to R531: an AON reset leaves only fuses of the management plane; its release draws the
boot nonce and starts the audit chain; a block reset ends every command, keeps the stack window and the governor,
and shows its cause; the stages of bring-up follow one another, up to DIRECT or FAILED. The order of the boot nonce
and the audit log is read by inference (log 44). -/
def Obligations.ResetsAndBringup : Prop :=
  (∀ (s : State), s.Seen → s.blk.health.recordDue = [] →
    Runs .aonRstN s fun t => t.aon.held = true ∧ t.aon.vault.fuses = s.aon.vault.fuses ∧ t.aon.vault.audit = []
      ∧ t.aon.vault.fleet = none ∧ t.aon.vault.boot = .receive ∧ (∀ k, t.aon.vault.sessions.rd k = none)
      ∧ bit (t.aon.reg 0x10).toNat 1 = true ∧ t.blk.start.stage = 0 ∧ t.blk.flights = [] ∧ t.blk.ctxs = []
      ∧ t.blk.mem.stack = s.blk.mem.stack)
  ∧ (∀ (s : State), s.aon.held = true ∨ s.aon.vault.bootNonce = [] →
    Runs .aonResetRelease s fun t => t.aon.held = false ∧ t.aon.vault.boot = .receive
      ∧ t.aon.vault.bootNonce = (s.aon.drawBytes 32).1 ∧ t.aon.vault.audit = [] ∧ t.aon.vault.auditNext = 1
      ∧ t.aon.vault.chain = sha384 (auditLabel ++ toLe 2 s.aon.vault.fuses.straps.toNat ++ t.aon.vault.bootNonce)
      ∧ t.blk = s.blk)
  ∧ (let reset := fun (s t : State) (cause : Nat) => bit (t.aon.reg 0x10).toNat cause = true ∧ t.blk.start.stage = 0
        ∧ t.blk.start.held = true ∧ t.blk.start.heldSince = s.aon.count ∧ t.blk.flights = [] ∧ t.blk.ctxs = []
        ∧ t.blk.disps = [] ∧ (∀ o i, t.blk.reg o i = resetOf o) ∧ t.blk.mem.stack = s.blk.mem.stack ∧ t.blk.bells = []
        ∧ t.aon.vaultOp = none ∧ t.aon.gov.op = 0 ∧ t.aon.gov.period = s.aon.gov.period
        ∧ t.aon.gov.share = s.aon.gov.share
     (∀ (s : State), Runs .blkRstN s fun t => reset s t 3)
      ∧ ∀ (s : State) (r : Requester) (d : RegDef) (i : Nat) (new : Word), s.Writes r 0x014 1 d i new →
        bit new.toNat 0 = true → Runs (.block r) s fun t => reset s t 4)
  ∧ (∀ (s : State), s.blk.start.stage = 0 → s.aon.held = false → s.aon.gov.orderHold = false → s.aon.gov.sleep ≠ .s3 →
    s.blk.start.heldSince.toNat + 64 ≤ s.aon.count.toNat →
    Runs .blockResetRelease s fun t => t.blk.start.stage = 1 ∧ t.blk.start.held = false ∧ t.blk.cycle = 0)
  ∧ (∀ (s : State) (straps : BitVec 3), s.blk.start.stage = 1 →
    Runs (.bringupClockDone straps) s fun t => t.blk.start.stage = 2 ∧ fld (t.blk.reg 0x004) 2 0 = straps.toNat
      ∧ t.aon.vault.fuses.straps = straps)
  ∧ (∀ (s : State) (bad : List BadPart), s.blk.start.stage = 2 →
    Runs (.selftestDone bad) s fun t => t.blk.start.stage = 3 ∧ t.blk.health.bad = bad)
  ∧ (∀ (s : State), s.blk.start.stage = 3 → s.blk.start.accesses = [] →
    Runs .repairDone s fun t => t.blk.start.stage = (if t.blk.health.chipFailed then 8 else 4) ∧ t.blk.health.bad = [])
  ∧ (∀ (s : State), s.blk.start.stage = 4 →
    Runs .clearDone s fun t => t.blk.start.stage = 5 ∧ (∀ k, t.blk.mem.scratch.rd k = 0)
      ∧ ∀ i ∈ startPorts, (t.blk.link i).enable = true ∧ (t.blk.link i).st = .train)
  ∧ ∀ (s : State), s.blk.start.stage = 5 → s.blk.start.accesses = [] → s.blk.health.chipFailed = false →
    ((∀ i ∈ [(8 : BitVec 4), 9, 10], (s.blk.link i).st = .up) → Runs .bringupTrainDone s fun t =>
        t.blk.start.stage = 6 ∧ t.blk.health.chipFailed = false)
      ∧ ((∃ i ∈ [(8 : BitVec 4), 9, 10], (s.blk.link i).st ≠ .up) → Runs .bringupTrainDone s fun t =>
        t.blk.start.stage = 8 ∧ t.blk.health.chipFailed = true)

/-! ### The management endpoint -/

/-- R504 to R506, R519: firmware update: a request is taken in RECEIVE or from the installer and refused otherwise;
components are announced, fetched, verified with an audit record, applied; activation restarts the management
firmware alone, while block and governor go on, and a new CONFIG is probed: a regulator stands on the one bus that
acknowledged it (R541); the restart ends with the new image running. Completion codes and
the fetch unit are from outside the spec (log 50); signature and SVN of an image are opaque (log 10). -/
def Obligations.FirmwareUpdate : Prop :=
  ∀ (s : State), s.serves →
  (∀ (k : Option (BitVec 1)) (n : BitVec 16), (s.aon.mayUpdate k = true → s.aon.vault.update = none → n ≠ 0 →
      Runs (.requestUpdate k n) s fun t => t.blk = s.blk.reply []
        ∧ ∃ u, t.aon = s.aon.setUpdate (some u) ∧ u.count = n.toNat ∧ u.passed = [] ∧ u.step = 1 ∧ u.firm = none ∧ u.config = none)
    ∧ (s.aon.mayUpdate k = false → Runs (.requestUpdate k n) s fun t => t.blk = s.blk.refuse ∧ t.aon = s.aon))
  ∧ (∀ (u : Update) (c : CompId), s.aon.vault.update = some u → u.step = 1 →
    Runs (.passComponentTable c) s fun t => t.aon = s.aon.setUpdate (some { u with
        passed := u.passed ++ [c], step := if u.count ≤ u.passed.length + 1 then 2 else 1 })
      ∧ t.blk = s.blk.reply [if c = 1 ∨ c = 2 then 0 else 1])
  ∧ (∀ (u : Update) (c : CompId) (size : Word), s.aon.vault.update = some u → u.step = 2 → c = 1 ∨ c = 2 → c ∈ u.passed →
    size ≠ 0 → (c = 1 → size.toNat ≤ 2 ^ 20) →
    Runs (.updateComponent c size) s fun t => t.aon = s.aon.setUpdate (some { u with
        current := some c, size := size.toNat, data := [], transferred := false, verified := false, step := 3 })
      ∧ t.blk.out = s.blk.out ++ [.mgmt 0 [0], .fetchMore 0 (BitVec.ofNat 32 (Nat.min 32 size.toNat))])
  ∧ (∀ (u : Update) (off : Word) (l : List Byte), s.aon.vault.update = some u → u.step = 3 → off.toNat = u.data.length →
    u.data.length < u.size → l.length = Nat.min 32 (u.size - u.data.length) →
    Runs (.requestFirmwareData off l) s fun t => t.aon = s.aon.setUpdate (some { u with data := u.data ++ l }))
  ∧ (∀ (u : Update), s.aon.vault.update = some u → u.step = 3 → u.data.length = u.size →
    Runs (.transferComplete 0) s fun t => t.aon = s.aon.setUpdate (some { u with transferred := true, step := 4 })
      ∧ t.blk = s.blk)
  ∧ (∀ (u : Update) (c : CompId), s.aon.vault.update = some u → u.step = 4 → u.current = some c → c = 1 ∨ c = 2 →
    let ok := if c = 1 then (s.aon.firmOk u.data).isSome else (s.aon.configOk u.data).isSome
    Runs .verifyComplete s fun t =>
      (∃ v, t.aon.vault.update = some v ∧ (ok = true → v = { u with verified := true, step := 5 })
        ∧ (ok = false → v.step = 2 ∧ v.current = none ∧ v.firm = u.firm ∧ v.config = u.config))
      ∧ (∃ e, (t.aon.vault.audit.getLast?).map (·.1) = some e ∧ e.type = 5 ∧ e.role = 3 ∧ e.object.toNat = c.toNat
        ∧ e.result.toNat = b01 (!ok) ∧ e.detail = (sha384 u.data).take 32)
      ∧ t.blk = s.blk.send (.mgmt (if ok then 0 else 1) []))
  ∧ (∀ (u : Update) (c : CompId), s.aon.vault.update = some u → u.step = 5 → u.current = some c →
    Runs .applyComplete s fun t => t.blk = s.blk.reply [] ∧ ∃ v, t.aon = s.aon.setUpdate (some v) ∧ v.step = 2
      ∧ (c = 1 → v.firm = s.aon.firmOk u.data ∧ v.config = u.config)
      ∧ (c = 2 → v.config = s.aon.configOk u.data ∧ v.firm = u.firm))
  ∧ (∀ (k : Activation) (u : Update), s.aon.vault.update = some u → u.step = 2 →
    s.aon.mayUpdate k.session = true → u.firm ≠ none ∨ u.config ≠ none →
    Runs (.activateFirmware k) s fun t => t.aon.vault.boot = .restart ∧ t.aon.gov = s.aon.gov ∧ t.aon.noise = s.aon.noise
      ∧ t.aon.regs = s.aon.regs ∧ t.blk = s.blk.reply []
      ∧ t.aon.vault.config = (if u.config.isSome then u.config else s.aon.vault.config)
      ∧ (u.config = none → t.aon.regBus = s.aon.regBus)
      ∧ ∀ c, u.config = some c → t.aon.regBus.length = c.regulators.length ∧ ∀ i, i < c.regulators.length →
        ∀ g : BitVec 2, t.aon.regBus[i]? = some (some g) ↔ (k.acks[i]?).getD 0 = BitVec.ofNat 4 (2 ^ g.toNat))
  ∧ (s.aon.vault.boot = .restart → ∀ f, (((s.aon.vault.update.bind (·.firm)).or s.aon.vault.firm) = some f →
    Runs .firmwareRestartDone s fun t => t.aon.vault.boot = .running ∧ t.aon.vault.firm = some f
      ∧ t.aon.vault.update = none ∧ t.blk = s.blk))
  ∧ (∀ (u : Update), s.aon.vault.update = some u →
    Runs .getStatus s (fun t => t.aon = s.aon ∧ t.blk = s.blk.reply [BitVec.ofNat 8 u.step.toNat])
      ∧ (3 ≤ u.step.toNat → Runs .cancelUpdateComponent s fun t => t.blk = s.blk.reply []
        ∧ t.aon = s.aon.setUpdate (some { u with current := none, data := [], step := 2 }))
      ∧ (s.aon.vault.boot ≠ .restart → Runs .cancelUpdate s fun t => t.blk = s.blk.reply [] ∧ t.aon = s.aon.setUpdate none))
  ∧ Runs .queryDeviceIdentifiers s (fun t => t.aon = s.aon ∧ t.blk = s.blk.reply Config.endpointUuid)
  ∧ ∀ (f : Firm) (c : Config'), s.aon.vault.firm = some f → s.aon.vault.config = some c →
    Runs .getFirmwareParameters s fun t => t.aon = s.aon
      ∧ t.blk = s.blk.reply ([1, 0] ++ ([f.svn] ++ f.digest) ++ [2, 0] ++ (toLe 4 c.seq.toNat ++ c.digest))

/-- R498 to R500, R506, R511, R512, R516, R517: keys, ownership and the audit log: the installer's link and fleet keys
are kept, anyone else's are refused with a record; the first owner key, a transfer and the RMA unlock; CommitSVN;
ReadAudit and SignAudit. Object codes of the records are the model's (log 30, 48); signatures are opaque
(log 10). -/
def Obligations.KeysAndAudit : Prop :=
  ∀ (s : State), s.serves →
  let lastIs := fun (t : State) (type result object : Nat) =>
    ∃ e, (t.aon.vault.audit.getLast?).map (·.1) = some e ∧ e.type.toNat = type ∧ e.result.toNat = result
      ∧ e.object.toNat = object ∧ e.seq = s.aon.vault.auditNext
  (∀ (k : Option (BitVec 1)) (data : List Byte), s.aon.roleOf (.mgmt k) = .installer → s.aon.vaultFail = false →
    data.length = 32 →
    (∀ (p : BitVec 3), p.toNat < 6 → Runs (.setKey k (.link p) data) s fun t =>
      t.aon.vault.linkKeys = s.aon.vault.linkKeys.wr p (some data) ∧ t.aon.vault.fleet = s.aon.vault.fleet ∧ lastIs t 4 0 0
        ∧ t.blk = s.blk.reply [])
    ∧ Runs (.setKey k .fleet data) s fun t => t.aon.vault.fleet = some data
      ∧ t.aon.vault.linkKeys = s.aon.vault.linkKeys ∧ lastIs t 4 0 1 ∧ t.blk = s.blk.reply [])
  ∧ (∀ (k : Option (BitVec 1)) (data : List Byte) (p : BitVec 3), s.aon.roleOf (.mgmt k) ≠ .installer →
    ∀ x ∈ [(KeyKind.link p, 0), (KeyKind.fleet, 1)], Runs (.setKey k x.1 data) s fun t =>
      t.aon.vault.linkKeys = s.aon.vault.linkKeys ∧ t.aon.vault.fleet = s.aon.vault.fleet ∧ lastIs t 4 1 x.2
        ∧ t.blk = s.blk.refuse)
  ∧ (∀ (n : BitVec 1) (x : Secured) (data : List Byte), s.aon.vault.fuses.lifecycle = .provisioned →
    s.aon.vaultFail = false → s.aon.session (some n) = some x →
    Runs (.setKey (some n) .owner data) s fun t =>
      (∀ h, x.rootHash = some h → t.aon.vault.fuses.owners = [h] ∧ t.aon.vault.fuses.lifecycle = .owned
        ∧ t.aon.vault.sessions.rd n = some { x with role := .installer } ∧ t.blk = s.blk.reply [])
      ∧ (x.rootHash = none → t.aon.vault.fuses = s.aon.vault.fuses ∧ t.blk = s.blk.refuse))
  ∧ (∀ (k : Option (BitVec 1)) (data : List Byte), s.aon.vault.fuses.lifecycle = .owned → s.aon.vaultFail = false →
    s.aon.roleOf (.mgmt k) = .installer →
    Runs (.setKey k .owner data) s fun t => t.aon.vault.fuses.owners = (if s.aon.statementOk 1 data then
        s.aon.vault.fuses.owners ++ [(data.drop 0x38).take 48] else s.aon.vault.fuses.owners)
      ∧ lastIs t 4 (b01 (!s.aon.statementOk 1 data)) 2)
  ∧ (∀ (k : Option (BitVec 1)) (data : List Byte), s.aon.roleOf (.mgmt k) = .maker → s.aon.vault.fuses.lifecycle = .owned →
    Runs (.rmaUnlock k data) s fun t =>
      (s.aon.statementOk 2 data = true → t.aon.vault.fuses.lifecycle = .rma
        ∧ (∀ p, t.aon.vault.linkKeys.rd p = none) ∧ t.aon.vault.fleet = none ∧ (∀ n, t.aon.vault.sessions.rd n = none)
        ∧ (∀ l ∈ s.blk.sealedLines, l ∈ t.blk.mem.badMac)
        ∧ ∀ i, isFar i = true → (t.blk.link i).session.txKey = [] ∧ (t.blk.link i).session.rxKey = [])
      ∧ (s.aon.statementOk 2 data = false →
        t.aon.vault.fuses = s.aon.vault.fuses ∧ t.aon.vault.linkKeys = s.aon.vault.linkKeys ∧ lastIs t 4 1 2))
  ∧ (∀ (k : Option (BitVec 1)) (f : Firm), s.aon.vault.firm = some f → f.svn.toNat ≤ 64 →
    s.aon.roleOf (.mgmt k) = .installer →
    Runs (.commitSvn k) s fun t => t.aon.vault.fuses.svn.toNat = Nat.max s.aon.vault.fuses.svn.toNat f.svn.toNat
      ∧ lastIs t 5 0 1 ∧ t.blk = s.blk.reply [])
  ∧ (∀ (seq : Quad), Runs (.readAudit seq) s fun t => t.aon = s.aon ∧ t.blk = s.blk.reply (s.aon.vault.auditFrom seq))
  ∧ ∀ (nonce : List Byte), nonce.length = 32 → s.aon.vault.firm ≠ none → s.aon.vault.fuses.lifecycle ≠ .rma →
    let head := toLe 8 (s.aon.vault.auditNext - 1).toNat ++ s.aon.vault.chain
    Runs (.signAudit nonce) s fun t => t.blk = s.blk.reply (head ++ Config.aliasSign s.aon.vault.alias'
      ((s.aon.drawBytes 48).1 ++ sha384 (auditHeadLabel ++ head ++ nonce)))
      ∧ t.aon.vault = s.aon.vault

/-- R518 to R520: platform monitoring, discovery and addressing: what each request answers, the receiver of events, the
oldest waiting record, and the endpoint's IDs; every other answer leaves the state as it is. Completion codes are
from outside the spec (log 50), the endpoint's IDs at reset are too (log 13), and versions are free (log 9). -/
def Obligations.PlatformReplies : Prop :=
  ∀ (s : State), s.serves →
  let answers := fun (c : Instr) (body : List Byte) => Runs c s fun t => t.aon = s.aon ∧ t.blk = s.blk.reply body
  (∀ (e : Byte) (on : Bool), Runs (.setEventReceiver e on) s fun t => t.blk = s.blk.reply []
    ∧ t.aon = s.aon.modVault fun v => { v with receiver := if on then some e else none })
  ∧ (∀ (n : BitVec 16) (v : List Byte), s.blk.sensor s.aon n.toNat = some v → Runs (.getSensorReading n) s fun t =>
    t.aon = s.aon ∧ t.blk.out = s.blk.out ++ [.mgmt 0 v])
  ∧ answers (.getStateSensorReadings 15) ((List.range 8).map fun c => BitVec.ofNat 8 (b01 (bit s.aon.gov.throttle.toNat c)))
  ∧ answers (.getStateSensorReadings 16) [BitVec.ofNat 8 s.blk.health.state]
  ∧ (∀ (h : Word), 1 ≤ h.toNat → h.toNat ≤ 16 →
    answers (.getPdr h) (toLe 2 h.toNat ++ [if 15 ≤ h.toNat then 1 else 0]))
  ∧ answers .getPdrRepositoryInfo [16, 0, 0, 0]
  ∧ (∀ (r : Rec) (rest : List Rec), s.aon.vault.events = r :: rest → Runs .pollForPlatformEventMessage s fun t =>
    t.aon = (s.aon.modVault fun v => { v with events := rest }) ∧ t.blk = s.blk.reply r.bytes)
  ∧ answers .getTid [s.aon.vault.tid]
  ∧ (∀ (n : Byte), n ≠ 0 → n ≠ 0xFF → Runs (.setTid n) s fun t => t.blk = s.blk.reply []
    ∧ t.aon = s.aon.modVault fun v => { v with tid := n })
  ∧ answers .getPldmTypes [0x25, 0, 0, 0, 0, 0, 0, 0x80]
  ∧ (∀ (n : BitVec 6), n.toNat ∈ [0, 2, 5, 0x3F] → ∀ x ∈ [(Instr.getPldmVersion n, 4), (Instr.getPldmCommands n, 32)],
    Runs x.1 s fun t => t.aon = s.aon ∧ ∃ body : List Byte, body.length = x.2 ∧ t.blk.out = s.blk.out ++ [.mgmt 0 body])
  ∧ (∀ (m : Bool) (e : Byte), e ≠ 0 → e ≠ 0xFF → Runs (.setEndpointId m e) s fun t => t.blk = s.blk.reply [e]
    ∧ t.aon = s.aon.modVault fun v => { v with eids := v.eids.wr (BitVec.ofBool m) e })
  ∧ (∀ (m : Bool), answers (.getEndpointId m) [s.aon.vault.eids.rd (BitVec.ofBool m)])
  ∧ answers .getEndpointUuid Config.endpointUuid
  ∧ answers .getMctpVersionSupport [1, 3]
  ∧ answers .getMessageTypeSupport [0x00, 0x01, 0x05, 0x06]

/-- R494, R497, R501 to R503: SPDM: version and capabilities; slot 0's chain and digest; a challenge and measurements
signed under the Alias key; at most two sessions; the role that FINISH fixes by the requester's root; heartbeats,
key updates and the end of a session, which undoes nothing else. The places of the capability bits are from outside
the spec (log 50); chains and signatures are opaque (log 10). -/
def Obligations.SpdmSessions : Prop :=
  ∀ (s : State), s.serves →
  let v := s.aon.vault
  let ready := v.negotiated = true ∧ v.fuses.lifecycle ≠ .rma
  let sign := fun (a : Aon) (msg : List Byte) => Config.aliasSign v.alias' ((a.drawBytes 48).1 ++ sha384 msg)
  let hash := sha384 v.chain0
  let own := s.aon.drawBytes 32
  (Runs .getVersion s fun t => t.aon.vault.negotiated = false ∧ t.blk = s.blk.reply [0x12])
  ∧ (Runs .getCapabilities s fun t => t.aon = s.aon ∧ t.blk = s.blk.reply (toLe 4 spdmCaps))
  ∧ (∀ (ok : Bool), Runs (.negotiateAlgorithms ok) s fun t => t.aon.vault.negotiated = ok)
  ∧ (ready → Runs .getDigests s (fun t => t.aon = s.aon ∧ t.blk = s.blk.reply ([1] ++ hash))
    ∧ (∀ (off len : BitVec 16), off.toNat < v.chain0.length → Runs (.getCertificate 0 off len) s fun t =>
        t.aon = s.aon ∧ t.blk = s.blk.reply ((v.chain0.drop off.toNat).take len.toNat))
    ∧ (∀ (slot : BitVec 8) (off len : BitVec 16), slot ≠ 0 →
        Runs (.getCertificate slot off len) s fun t => t.aon = s.aon ∧ t.blk = s.blk.refuse)
    ∧ (∀ (nonce : List Byte), Runs (.challenge nonce) s fun t => t.aon.vault = v ∧ t.blk = s.blk.reply
        (hash ++ own.1 ++ sign own.2 (hash ++ own.1 ++ nonce)))
    ∧ (∀ (ix : BitVec 8) (nonce body : List Byte), ix ≠ 0xFF → measurement s.aon s.blk ix.toNat = some body →
        Runs (.getMeasurements ix nonce) s fun t => t.aon.vault = v ∧ t.blk = s.blk.reply (body ++ sign s.aon (body ++ nonce)))
    ∧ (∀ (ex : List Byte) (both : Bool) (k : BitVec 1), v.sessions.rd k = none → (k = 0 ∨ v.sessions.rd 0 ≠ none) →
        Runs (.keyExchange ex both) s fun t => t.aon.vault.sessions = v.sessions.wr k (some
          { finished := false, bothAuth := both, chain := [], role := .operator, lastBeat := s.aon.count, keyNo := 0 }))
    ∧ (∀ (ex : List Byte) (both : Bool), v.sessions.rd 0 ≠ none → v.sessions.rd 1 ≠ none →
        Runs (.keyExchange ex both) s fun t => t.aon = s.aon ∧ t.blk = s.blk.send (.mgmt 0x0A [])))
  ∧ (∀ (k : BitVec 1) (x : Secured), v.sessions.rd k = some x → x.finished = false →
    (x.bothAuth = true → ∀ (chain : List Byte), Runs (.encapsulatedResponse k chain false) s fun t =>
        t.aon.vault.sessions = v.sessions.wr k (some { x with chain := chain }) ∧ t.blk = s.blk.reply [])
    ∧ (Runs (.finish k true) s fun t => t.blk = s.blk.reply [] ∧ ∃ y, t.aon.vault.sessions = v.sessions.wr k (some y)
        ∧ y.finished = true ∧ y.lastBeat = s.aon.count
        ∧ (x.rootHash = none → y.role = .operator)
        ∧ (∀ h, x.rootHash = some h → y.role = (if s.aon.ownerHash = some h then .installer
            else if h = v.fuses.makerRoot then .maker else .operator))
        ∧ (y.role ≠ .operator → ∃ e, (t.aon.vault.audit.getLast?).map (·.1) = some e ∧ e.type = 9 ∧ e.new = 1))
    ∧ Runs (.finish k false) s fun t => t.aon.vault.sessions = v.sessions.wr k none ∧ t.blk = s.blk.refuse)
  ∧ ∀ (k : BitVec 1) (x : Secured), s.aon.session (some k) = some x →
    (Runs (.heartbeat k) s fun t => t.aon.vault.sessions = v.sessions.wr k (some { x with lastBeat := s.aon.count })
        ∧ t.blk = s.blk.reply [])
    ∧ (Runs (.keyUpdate k) s fun t => t.aon.vault.sessions = v.sessions.wr k (some { x with keyNo := x.keyNo + 1 })
        ∧ t.blk = s.blk.reply [])
    ∧ (Runs (.endSession k) s fun t => t.aon.vault.sessions = v.sessions.wr k none ∧ t.aon.regs = s.aon.regs
        ∧ t.aon.gov = s.aon.gov ∧ t.blk = s.blk.reply [])
    ∧ (x.lastBeat.toNat + 750000000 ≤ s.aon.count.toNat → Runs (.heartbeatMissed k) s fun t =>
        t.aon.vault.sessions = v.sessions.wr k none ∧ t.blk = s.blk)
    ∧ (s.aon.count.toNat < x.lastBeat.toNat + 750000000 → Runs (.heartbeatMissed k) s fun t => t.aon = s.aon ∧ t.blk = s.blk)

/-! ### The whole machine -/

/-- The block's step: the command at the front of the queue runs on the state with the queue's rest; on an empty queue the
clock goes on by one period (the model's choice, log 3). -/
def Obligations.StepRunsFront : Prop :=
  (∀ (c : Instr) (s : State) (rest : List Instr), Machine.step { s with pending := c :: rest } = exec c { s with pending := rest })
  ∧ ∀ (s : State), s.pending = [] → Machine.step s = .next (tick s) ∧ (tick s).pending = []

/-- Every command answers a next state, in every state, and takes nothing from the queue of the commands that wait. -/
def Obligations.EveryCommandAnswers : Prop :=
  ∀ (c : Instr) (s : State), Runs c s fun t => t.pending = s.pending

/-- R15: a Brodip instruction leaves the management plane's registers, its governor's operating points and bubbles, the state
of its noise source, its fuses and its keys alone, whatever the instruction does. -/
def Obligations.PlanesStayApart : Prop :=
  ∀ (s : State) (p : Site) (w next : Quad), Runs (decodeBrodip p w next) s fun t =>
    t.aon.regs = s.aon.regs ∧ t.aon.vault.fuses = s.aon.vault.fuses ∧ t.aon.vault.linkKeys = s.aon.vault.linkKeys
      ∧ t.aon.vault.boot = s.aon.vault.boot ∧ t.aon.gov.op = s.aon.gov.op ∧ t.aon.gov.bubbles = s.aon.gov.bubbles
      ∧ t.aon.noise.st = s.aon.noise.st

/-- R366, R409, R436, R449, R464, R516, R522 to R524, R528, R535, R544: the machine right after an AON reset: stage
RESET in DIRECT, cause aon, every register at its reset value, memory empty and canonical, no context, no command,
every port DOWN, the noise source in STARTUP, the ROM in RECEIVE, an empty audit log that starts at 1, OP0 in S0;
and the audit log's chain holds. That memory lists nothing, so reads 0, is the model's choice (log 5), and so is the
stage named RESET before the release (log 44). -/
def Obligations.ResetState : Prop :=
  let r := State.reset
  r.pending = [] ∧ r.blk.start.stage = 0 ∧ r.blk.start.regime = false ∧ r.aon.reg 0x010 = 1
    ∧ (∀ o i, r.blk.reg o i = resetOf o) ∧ (∀ o i, r.aon.reg o i = resetOf o)
    ∧ resetOf 0x108 = 0x10028040 ∧ resetOf 0x344 = 0x16804010 ∧ resetOf 0x370 = 0x00400064 ∧ resetOf 0x374 = 0x00140888
    ∧ resetOf 0x60C = 0x00000465 ∧ resetOf 0x614 = 0x0000695F ∧ resetOf 0x618 = 0x00002805 ∧ resetOf 0x62C = 0x100061A8
    ∧ r.blk.mem.scratch.wf = true ∧ r.blk.mem.stack.wf = true ∧ (∀ k, r.blk.mem.scratch.rd k = 0)
    ∧ (∀ c, (r.blk.ctx c).life = .free) ∧ r.blk.flights = [] ∧ r.blk.bells = [] ∧ r.blk.evts = [] ∧ r.blk.disps = []
    ∧ (∀ i, (r.blk.link i).st = .down) ∧ (∀ n, (r.blk.seat n).st = .free) ∧ (∀ e, (r.blk.grp e).valid = false)
    ∧ r.aon.noise.st = .startup ∧ r.aon.vault.boot = .receive ∧ r.aon.vault.auditNext = 1 ∧ r.aon.vault.Chained
    ∧ r.aon.gov.op = 0 ∧ r.aon.gov.sleep = .s0 ∧ r.aon.gov.gain = 0x1000

/-- R323, R327, R330: every 64-bit queue entry decodes to a command whose entry it is, so no bit of any of the three formats
is dropped; and the entry of every Brodip instruction decodes to that instruction, with every field at every value. -/
def Obligations.BrodipRoundTrip : Prop :=
  (∀ (p : Site) (w next : Quad), encodeBrodip (decodeBrodip p w next) = some w)
  ∧ ∀ (c : Instr) (w : Quad), encodeBrodip c = some w → (∀ p x, c ≠ .reservedOpcode p x) →
    ∃ p next, decodeBrodip p w next = c

/-- The canonical form of memory is kept by every step, from every state that has it: addresses strictly rising, no byte
listed that reads as an unlisted one. The form is the model's own, and so is what an unlisted byte reads as (log 5).
-/
def Obligations.MemoryStaysCanonical : Prop :=
  ∀ (s t : State), s.blk.mem.stack.wf = true → s.blk.mem.scratch.wf = true → Machine.step s = .next t →
    t.blk.mem.stack.wf = true ∧ t.blk.mem.scratch.wf = true

/-- R516, R517: from every state whose audit log is chained, every step leaves it chained: at most 4,096 records, numbered in
a row up to the last one, each chain value the hash of the one before it and its record. Whatever does not reset the
always-on domain keeps every record but the oldest as it was written, and adds only at the end. -/
def Obligations.AuditLogStaysChained : Prop :=
  (∀ (s t : State), s.aon.vault.Chained → Machine.step s = .next t → t.aon.vault.Chained)
  ∧ ∀ (c : Instr) (s t : State), c ≠ .aonRstN → c ≠ .aonResetRelease → c ≠ .railReset 0 → exec c s = .next t →
    ∃ k l, t.aon.vault.audit = s.aon.vault.audit.drop k ++ l ∧ (k ≠ 0 → 4096 ≤ t.aon.vault.audit.length)

/-- R498, R499, R506: no step takes the lifecycle backward, changes an owner key slot that is written, changes the maker's
root, or lowers the firmware's SVN counter. -/
def Obligations.FusesOnlyBlow : Prop :=
  ∀ (s t : State), Machine.step s = .next t →
    s.aon.vault.fuses.lifecycle.code ≤ t.aon.vault.fuses.lifecycle.code
      ∧ (s.aon.vault.fuses.lifecycle ≠ .provisioned → s.aon.vault.fuses.owners <+: t.aon.vault.fuses.owners)
      ∧ t.aon.vault.fuses.makerRoot = s.aon.vault.fuses.makerRoot
      ∧ s.aon.vault.fuses.svn.toNat ≤ t.aon.vault.fuses.svn.toNat

/-- R152, R174, R177, R196, R197, R559: five steps of the exchange each answer a next state. A `send` that goes is in flight
and its queue stands at the next entry; its next packet enters its owner's ring queue where there is room; the head of a
ring queue leaves it where the far queue has room and the units are held; a FETCH for this owner is handed to its die's
port, or is in service at every die of its split; and a partial of a split FETCH is taken. -/
def Obligations.ExchangeStepsComplete : Prop :=
  (∀ (s : State) (p : Site) (f : RFields), s.blk.reqGoes s.aon p (s.blk.sendReq p f) = true →
    ∃ t, exec (.send p f) s = .next t ∧ (t.blk.que p).pc = (s.blk.que p).pc + 1
      ∧ ∃ fl ∈ t.blk.flights, fl.ctx = p.ctx ∧ fl.queue = p.queue ∧ fl.qidx = (s.blk.que p).pc ∧ fl.word = encR 0x38 f
        ∧ fl.units = [.outbound] ∧ fl.issued = s.blk.cycle.toNat)
  ∧ (∀ (s : State) (p : Site) (fl : Flight) (x : Sending) (d : Dispatch) (i : Nat) (rest : List Nat) (k : Packet),
    s.blk.sendOf p = some (fl, x) → s.blk.dispOf p.ctx x.layer x.seq = some d → fl.suspended = none →
    s.blk.failingUnit fl = none → (s.blk.ctx p.ctx).alive = true → x.opens = [] → x.todo = i :: rest →
    s.blk.nextDeal d x i = .ok k → s.blk.ringRoom (ringOfInst k.hdr.dst) k.size = true →
    d.staging k.hdr.slot.toNat = false →
    ∃ t, exec (.sendPacketEmit p) s = .next t ∧ ∃ place, t.blk.exch.rings.rd (ringOfInst k.hdr.dst)
      = s.blk.exch.rings.rd (ringOfInst k.hdr.dst) ++ [⟨some p.ctx, k, place⟩])
  ∧ (∀ (s : State) (q : BitVec 3) (e : Egress) (rest : List Egress) (d : Dispatch), s.blk.exch.rings.rd q = e :: rest →
    s.blk.heldFar e.k = false → s.blk.dispOfEgress e = some d → (s.blk.readArray 20 (e.holds q)).2 = false →
    (d.creditNeed e.k).1 ≤ d.credits.get (odKey e.k.hdr.dst e.k.hdr.die) 0 →
    ∃ t, exec (.ringQueueDepart q) s = .next t ∧ t.blk.exch.rings.rd q = rest)
  ∧ (∀ (s : State) (k : Packet), k.hdr.dst = s.blk.self → k.malformed 2 = false → k.hdr.slot ≠ 0xFFF →
    s.blk.inDisp k.hdr = none → s.blk.exch.held = [] → s.blk.usable (.k k.hdr.die) = true →
    ∃ t, exec (.fetchReceive k) s = .next t
      ∧ (s.blk.splits k.hdr = false → ∃ m, t.blk.handed (.k k.hdr.die) (.die m) ∧ m.body = k.hdr.bytesOf ++ k.payload)
      ∧ (s.blk.splits k.hdr = true → ∃ j, t.blk.exch.splits = s.blk.exch.splits ++ [j] ∧ j.req = k))
  ∧ ∀ (s : State) (die : BitVec 2) (k : Packet) (j : SplitJob),
    s.blk.exch.splits.find? (fun j => j.takes die k.hdr) = some j →
    ∃ t, exec (.splitPartialReceive die k) s = .next t
      ∧ (j.got.length + 1 = j.dies.length → t.blk.exch.splits.length + 1 = s.blk.exch.splits.length)
      ∧ (j.got.length + 1 ≠ j.dies.length → { j with got := j.got ++ [(die, k)] } ∈ t.blk.exch.splits)
end

