-- ==== Sys2Proof/Laws/State.lean ====
section
/-! SUPPORT. Laws/State: the small lemmas of State: what each named update leaves, what a read gives after a write
to the same place and to another. -/

namespace Sys2Proof
open Machine

/-! ### Tables, banks -/

@[simp] theorem Tab.find_put_same {α : Type} (t : Tab α) (n : Nat) (v : α) : (t.put n v).find n = some v := by
  induction t with
  | nil => simp [Tab.put, Tab.find]
  | cons e rest ih =>
    obtain ⟨k, w⟩ := e
    by_cases h1 : k < n
    · have : k ≠ n := by omega
      simp [Tab.put, Tab.find, h1, this, ih]
    · by_cases h2 : k = n <;> simp [Tab.put, Tab.find, h1, h2]

theorem Tab.find_put_other {α : Type} (t : Tab α) {n m : Nat} (v : α) (h : m ≠ n) : (t.put n v).find m = t.find m := by
  induction t with
  | nil => simp [Tab.put, Tab.find, Ne.symm h]
  | cons e rest ih =>
    obtain ⟨k, w⟩ := e
    by_cases h1 : k < n
    · simp [Tab.put, Tab.find, h1, ih]
    · by_cases h2 : k = n
      · subst h2; simp [Tab.put, Tab.find, Ne.symm h]
      · simp [Tab.put, Tab.find, h1, h2, Ne.symm h]

@[simp] theorem Tab.get_put_same {α : Type} (t : Tab α) (n : Nat) (v d : α) : (t.put n v).get n d = v := by
  simp [Tab.get]

theorem Tab.get_put_other {α : Type} (t : Tab α) {n m : Nat} (v d : α) (h : m ≠ n) : (t.put n v).get m d = t.get m d := by
  simp [Tab.get, Tab.find_put_other t v h]

@[simp] theorem Bank.rd_wr_same {w : Nat} {α : Type} (b : Bank w α) (i : BitVec w) (v : α) : (b.wr i v).rd i = v := by
  simp [Bank.rd, Bank.wr]

theorem Bank.rd_wr_other {w : Nat} {α : Type} (b : Bank w α) {i j : BitVec w} (v : α) (h : j ≠ i) :
    (b.wr i v).rd j = b.rd j := by
  have h' : i.toNat ≠ j.toNat := fun e => h (BitVec.eq_of_toNat_eq e.symm)
  simp [Bank.rd, Bank.wr, h']

theorem Bank.rd_wr {w : Nat} {α : Type} (b : Bank w α) (i j : BitVec w) (v : α) :
    (b.wr i v).rd j = if j = i then v else b.rd j := by
  split
  · next h => subst h; simp
  · next h => exact Bank.rd_wr_other b v h

namespace Machine

/-! ### Contexts, queues, ports, registers -/

@[simp] theorem Blk.ctx_setCtx_same (b : Blk) (c : CtxId) (x : Ctx) : (b.setCtx c x).ctx c = x := by
  simp [Blk.ctx, Blk.setCtx]

theorem Blk.ctx_setCtx_other (b : Blk) {c d : CtxId} (x : Ctx) (h : d ≠ c) : (b.setCtx c x).ctx d = b.ctx d := by
  have h' : d.toNat ≠ c.toNat := fun e => h (BitVec.eq_of_toNat_eq e)
  simp [Blk.ctx, Blk.setCtx, Tab.get_put_other _ _ _ h']

@[simp] theorem Blk.ctx_modCtx_same (b : Blk) (c : CtxId) (f : Ctx → Ctx) : (b.modCtx c f).ctx c = f (b.ctx c) := by
  simp [Blk.modCtx]

theorem Blk.ctx_modCtx_other (b : Blk) {c d : CtxId} (f : Ctx → Ctx) (h : d ≠ c) : (b.modCtx c f).ctx d = b.ctx d := by
  simp [Blk.modCtx, Blk.ctx_setCtx_other _ _ h]

@[simp] theorem Ctx.que_setQue_same (x : Ctx) (q : BitVec 2) (u : Queue) : (x.setQue q u).que q = u := by
  simp [Ctx.que, Ctx.setQue]

theorem Ctx.que_setQue_other (x : Ctx) {q r : BitVec 2} (u : Queue) (h : r ≠ q) : (x.setQue q u).que r = x.que r := by
  simp [Ctx.que, Ctx.setQue, Bank.rd_wr_other _ _ h]

@[simp] theorem Blk.que_modQue_same (b : Blk) (p : Site) (f : Queue → Queue) : (b.modQue p f).que p = f (b.que p) := by
  simp [Blk.que, Blk.modQue]

theorem Blk.ctx_modQue_other (b : Blk) {p : Site} {d : CtxId} (f : Queue → Queue) (h : d ≠ p.ctx) :
    (b.modQue p f).ctx d = b.ctx d := by
  simp [Blk.modQue, Blk.ctx_modCtx_other _ _ h]

@[simp] theorem Blk.slot_setSlot_same (b : Blk) (n : PartId) (x : Slot) : (b.setSlot n x).slot n = x := by
  simp [Blk.slot, Blk.setSlot]

theorem Blk.slot_setSlot_other (b : Blk) {n m : PartId} (x : Slot) (h : m ≠ n) : (b.setSlot n x).slot m = b.slot m := by
  simp [Blk.slot, Blk.setSlot, Bank.rd_wr_other _ _ h]

@[simp] theorem Blk.link_setLink_same (b : Blk) (i : BitVec 4) (l : Link) : (b.setLink i l).link i = l := by
  simp [Blk.link, Blk.setLink]

theorem Blk.link_setLink_other (b : Blk) {i j : BitVec 4} (l : Link) (h : j ≠ i) : (b.setLink i l).link j = b.link j := by
  simp [Blk.link, Blk.setLink, Bank.rd_wr_other _ _ h]

@[simp] theorem Blk.reg_setReg_same (b : Blk) (o i : Nat) (v : Word) : (b.setReg o i v).reg o i = v := by
  simp [Blk.reg, Blk.setReg]

theorem Blk.reg_setReg_other (b : Blk) {o i o' i' : Nat} (v : Word) (h : i' * 0x10000 + o' ≠ i * 0x10000 + o) :
    (b.setReg o i v).reg o' i' = b.reg o' i' := by
  simp [Blk.reg, Blk.setReg, Tab.get_put_other _ _ _ h]

@[simp] theorem Blk.table_setTable_same (b : Blk) (l : Layer) (k : BitVec 2) (x : Table) :
    (b.setTable l k x).table l k = x := by
  simp [Blk.table, Blk.setTable]

@[simp] theorem Aon.reg_setReg_same (a : Aon) (o i : Nat) (v : Word) : (a.setReg o i v).reg o i = v := by
  simp [Aon.reg, Aon.setReg]

/-! ### What each update leaves -/

@[simp] theorem Blk.setCtx_cycle (b : Blk) (c : CtxId) (x : Ctx) : (b.setCtx c x).cycle = b.cycle := rfl
@[simp] theorem Blk.setCtx_bubble (b : Blk) (c : CtxId) (x : Ctx) : (b.setCtx c x).bubble = b.bubble := rfl
@[simp] theorem Blk.setCtx_stretchAt (b : Blk) (c : CtxId) (x : Ctx) : (b.setCtx c x).stretchAt = b.stretchAt := rfl
@[simp] theorem Blk.setCtx_shorts (b : Blk) (c : CtxId) (x : Ctx) : (b.setCtx c x).shorts = b.shorts := rfl
@[simp] theorem Blk.setCtx_start (b : Blk) (c : CtxId) (x : Ctx) : (b.setCtx c x).start = b.start := rfl
@[simp] theorem Blk.setCtx_regs (b : Blk) (c : CtxId) (x : Ctx) : (b.setCtx c x).regs = b.regs := rfl
@[simp] theorem Blk.setCtx_latch (b : Blk) (c : CtxId) (x : Ctx) : (b.setCtx c x).latch = b.latch := rfl
@[simp] theorem Blk.setCtx_slots (b : Blk) (c : CtxId) (x : Ctx) : (b.setCtx c x).slots = b.slots := rfl
@[simp] theorem Blk.setCtx_flights (b : Blk) (c : CtxId) (x : Ctx) : (b.setCtx c x).flights = b.flights := rfl
@[simp] theorem Blk.setCtx_cache (b : Blk) (c : CtxId) (x : Ctx) : (b.setCtx c x).cache = b.cache := rfl
@[simp] theorem Blk.setCtx_issueCycle (b : Blk) (c : CtxId) (x : Ctx) : (b.setCtx c x).issueCycle = b.issueCycle := rfl
@[simp] theorem Blk.setCtx_issueCount (b : Blk) (c : CtxId) (x : Ctx) : (b.setCtx c x).issueCount = b.issueCount := rfl
@[simp] theorem Blk.setCtx_bells (b : Blk) (c : CtxId) (x : Ctx) : (b.setCtx c x).bells = b.bells := rfl
@[simp] theorem Blk.setCtx_bellAt (b : Blk) (c : CtxId) (x : Ctx) : (b.setCtx c x).bellAt = b.bellAt := rfl
@[simp] theorem Blk.setCtx_heldBells (b : Blk) (c : CtxId) (x : Ctx) : (b.setCtx c x).heldBells = b.heldBells := rfl
@[simp] theorem Blk.setCtx_ctxOp (b : Blk) (c : CtxId) (x : Ctx) : (b.setCtx c x).ctxOp = b.ctxOp := rfl
@[simp] theorem Blk.setCtx_ephOp (b : Blk) (c : CtxId) (x : Ctx) : (b.setCtx c x).ephOp = b.ephOp := rfl
@[simp] theorem Blk.setCtx_mem (b : Blk) (c : CtxId) (x : Ctx) : (b.setCtx c x).mem = b.mem := rfl
@[simp] theorem Blk.setCtx_refresh (b : Blk) (c : CtxId) (x : Ctx) : (b.setCtx c x).refresh = b.refresh := rfl
@[simp] theorem Blk.setCtx_gateStore (b : Blk) (c : CtxId) (x : Ctx) : (b.setCtx c x).gateStore = b.gateStore := rfl
@[simp] theorem Blk.setCtx_disps (b : Blk) (c : CtxId) (x : Ctx) : (b.setCtx c x).disps = b.disps := rfl
@[simp] theorem Blk.setCtx_ephs (b : Blk) (c : CtxId) (x : Ctx) : (b.setCtx c x).ephs = b.ephs := rfl
@[simp] theorem Blk.setCtx_exch (b : Blk) (c : CtxId) (x : Ctx) : (b.setCtx c x).exch = b.exch := rfl
@[simp] theorem Blk.setCtx_folds (b : Blk) (c : CtxId) (x : Ctx) : (b.setCtx c x).folds = b.folds := rfl
@[simp] theorem Blk.setCtx_comets (b : Blk) (c : CtxId) (x : Ctx) : (b.setCtx c x).comets = b.comets := rfl
@[simp] theorem Blk.setCtx_links (b : Blk) (c : CtxId) (x : Ctx) : (b.setCtx c x).links = b.links := rfl
@[simp] theorem Blk.setCtx_edges (b : Blk) (c : CtxId) (x : Ctx) : (b.setCtx c x).edges = b.edges := rfl
@[simp] theorem Blk.setCtx_health (b : Blk) (c : CtxId) (x : Ctx) : (b.setCtx c x).health = b.health := rfl
@[simp] theorem Blk.setCtx_counters (b : Blk) (c : CtxId) (x : Ctx) : (b.setCtx c x).counters = b.counters := rfl
@[simp] theorem Blk.setCtx_burnt (b : Blk) (c : CtxId) (x : Ctx) : (b.setCtx c x).burnt = b.burnt := rfl
@[simp] theorem Blk.setCtx_burns (b : Blk) (c : CtxId) (x : Ctx) : (b.setCtx c x).burns = b.burns := rfl
@[simp] theorem Blk.setCtx_snaps (b : Blk) (c : CtxId) (x : Ctx) : (b.setCtx c x).snaps = b.snaps := rfl
@[simp] theorem Blk.setCtx_evts (b : Blk) (c : CtxId) (x : Ctx) : (b.setCtx c x).evts = b.evts := rfl
@[simp] theorem Blk.setCtx_posted (b : Blk) (c : CtxId) (x : Ctx) : (b.setCtx c x).posted = b.posted := rfl
@[simp] theorem Blk.setCtx_tels (b : Blk) (c : CtxId) (x : Ctx) : (b.setCtx c x).tels = b.tels := rfl
@[simp] theorem Blk.setCtx_out (b : Blk) (c : CtxId) (x : Ctx) : (b.setCtx c x).out = b.out := rfl
@[simp] theorem Blk.setCtx_free (b : Blk) (c : CtxId) (x : Ctx) : (b.setCtx c x).free = b.free := rfl
@[simp] theorem Blk.modCtx_cycle (b : Blk) (c : CtxId) (f : Ctx → Ctx) : (b.modCtx c f).cycle = b.cycle := rfl
@[simp] theorem Blk.modCtx_bubble (b : Blk) (c : CtxId) (f : Ctx → Ctx) : (b.modCtx c f).bubble = b.bubble := rfl
@[simp] theorem Blk.modCtx_stretchAt (b : Blk) (c : CtxId) (f : Ctx → Ctx) : (b.modCtx c f).stretchAt = b.stretchAt := rfl
@[simp] theorem Blk.modCtx_shorts (b : Blk) (c : CtxId) (f : Ctx → Ctx) : (b.modCtx c f).shorts = b.shorts := rfl
@[simp] theorem Blk.modCtx_start (b : Blk) (c : CtxId) (f : Ctx → Ctx) : (b.modCtx c f).start = b.start := rfl
@[simp] theorem Blk.modCtx_regs (b : Blk) (c : CtxId) (f : Ctx → Ctx) : (b.modCtx c f).regs = b.regs := rfl
@[simp] theorem Blk.modCtx_latch (b : Blk) (c : CtxId) (f : Ctx → Ctx) : (b.modCtx c f).latch = b.latch := rfl
@[simp] theorem Blk.modCtx_slots (b : Blk) (c : CtxId) (f : Ctx → Ctx) : (b.modCtx c f).slots = b.slots := rfl
@[simp] theorem Blk.modCtx_flights (b : Blk) (c : CtxId) (f : Ctx → Ctx) : (b.modCtx c f).flights = b.flights := rfl
@[simp] theorem Blk.modCtx_cache (b : Blk) (c : CtxId) (f : Ctx → Ctx) : (b.modCtx c f).cache = b.cache := rfl
@[simp] theorem Blk.modCtx_issueCycle (b : Blk) (c : CtxId) (f : Ctx → Ctx) : (b.modCtx c f).issueCycle = b.issueCycle := rfl
@[simp] theorem Blk.modCtx_issueCount (b : Blk) (c : CtxId) (f : Ctx → Ctx) : (b.modCtx c f).issueCount = b.issueCount := rfl
@[simp] theorem Blk.modCtx_bells (b : Blk) (c : CtxId) (f : Ctx → Ctx) : (b.modCtx c f).bells = b.bells := rfl
@[simp] theorem Blk.modCtx_bellAt (b : Blk) (c : CtxId) (f : Ctx → Ctx) : (b.modCtx c f).bellAt = b.bellAt := rfl
@[simp] theorem Blk.modCtx_heldBells (b : Blk) (c : CtxId) (f : Ctx → Ctx) : (b.modCtx c f).heldBells = b.heldBells := rfl
@[simp] theorem Blk.modCtx_ctxOp (b : Blk) (c : CtxId) (f : Ctx → Ctx) : (b.modCtx c f).ctxOp = b.ctxOp := rfl
@[simp] theorem Blk.modCtx_ephOp (b : Blk) (c : CtxId) (f : Ctx → Ctx) : (b.modCtx c f).ephOp = b.ephOp := rfl
@[simp] theorem Blk.modCtx_mem (b : Blk) (c : CtxId) (f : Ctx → Ctx) : (b.modCtx c f).mem = b.mem := rfl
@[simp] theorem Blk.modCtx_refresh (b : Blk) (c : CtxId) (f : Ctx → Ctx) : (b.modCtx c f).refresh = b.refresh := rfl
@[simp] theorem Blk.modCtx_gateStore (b : Blk) (c : CtxId) (f : Ctx → Ctx) : (b.modCtx c f).gateStore = b.gateStore := rfl
@[simp] theorem Blk.modCtx_disps (b : Blk) (c : CtxId) (f : Ctx → Ctx) : (b.modCtx c f).disps = b.disps := rfl
@[simp] theorem Blk.modCtx_ephs (b : Blk) (c : CtxId) (f : Ctx → Ctx) : (b.modCtx c f).ephs = b.ephs := rfl
@[simp] theorem Blk.modCtx_exch (b : Blk) (c : CtxId) (f : Ctx → Ctx) : (b.modCtx c f).exch = b.exch := rfl
@[simp] theorem Blk.modCtx_folds (b : Blk) (c : CtxId) (f : Ctx → Ctx) : (b.modCtx c f).folds = b.folds := rfl
@[simp] theorem Blk.modCtx_comets (b : Blk) (c : CtxId) (f : Ctx → Ctx) : (b.modCtx c f).comets = b.comets := rfl
@[simp] theorem Blk.modCtx_links (b : Blk) (c : CtxId) (f : Ctx → Ctx) : (b.modCtx c f).links = b.links := rfl
@[simp] theorem Blk.modCtx_edges (b : Blk) (c : CtxId) (f : Ctx → Ctx) : (b.modCtx c f).edges = b.edges := rfl
@[simp] theorem Blk.modCtx_health (b : Blk) (c : CtxId) (f : Ctx → Ctx) : (b.modCtx c f).health = b.health := rfl
@[simp] theorem Blk.modCtx_counters (b : Blk) (c : CtxId) (f : Ctx → Ctx) : (b.modCtx c f).counters = b.counters := rfl
@[simp] theorem Blk.modCtx_burnt (b : Blk) (c : CtxId) (f : Ctx → Ctx) : (b.modCtx c f).burnt = b.burnt := rfl
@[simp] theorem Blk.modCtx_burns (b : Blk) (c : CtxId) (f : Ctx → Ctx) : (b.modCtx c f).burns = b.burns := rfl
@[simp] theorem Blk.modCtx_snaps (b : Blk) (c : CtxId) (f : Ctx → Ctx) : (b.modCtx c f).snaps = b.snaps := rfl
@[simp] theorem Blk.modCtx_evts (b : Blk) (c : CtxId) (f : Ctx → Ctx) : (b.modCtx c f).evts = b.evts := rfl
@[simp] theorem Blk.modCtx_posted (b : Blk) (c : CtxId) (f : Ctx → Ctx) : (b.modCtx c f).posted = b.posted := rfl
@[simp] theorem Blk.modCtx_tels (b : Blk) (c : CtxId) (f : Ctx → Ctx) : (b.modCtx c f).tels = b.tels := rfl
@[simp] theorem Blk.modCtx_out (b : Blk) (c : CtxId) (f : Ctx → Ctx) : (b.modCtx c f).out = b.out := rfl
@[simp] theorem Blk.modCtx_free (b : Blk) (c : CtxId) (f : Ctx → Ctx) : (b.modCtx c f).free = b.free := rfl
@[simp] theorem Blk.modQue_cycle (b : Blk) (p : Site) (f : Queue → Queue) : (b.modQue p f).cycle = b.cycle := rfl
@[simp] theorem Blk.modQue_bubble (b : Blk) (p : Site) (f : Queue → Queue) : (b.modQue p f).bubble = b.bubble := rfl
@[simp] theorem Blk.modQue_stretchAt (b : Blk) (p : Site) (f : Queue → Queue) : (b.modQue p f).stretchAt = b.stretchAt := rfl
@[simp] theorem Blk.modQue_shorts (b : Blk) (p : Site) (f : Queue → Queue) : (b.modQue p f).shorts = b.shorts := rfl
@[simp] theorem Blk.modQue_start (b : Blk) (p : Site) (f : Queue → Queue) : (b.modQue p f).start = b.start := rfl
@[simp] theorem Blk.modQue_regs (b : Blk) (p : Site) (f : Queue → Queue) : (b.modQue p f).regs = b.regs := rfl
@[simp] theorem Blk.modQue_latch (b : Blk) (p : Site) (f : Queue → Queue) : (b.modQue p f).latch = b.latch := rfl
@[simp] theorem Blk.modQue_slots (b : Blk) (p : Site) (f : Queue → Queue) : (b.modQue p f).slots = b.slots := rfl
@[simp] theorem Blk.modQue_flights (b : Blk) (p : Site) (f : Queue → Queue) : (b.modQue p f).flights = b.flights := rfl
@[simp] theorem Blk.modQue_cache (b : Blk) (p : Site) (f : Queue → Queue) : (b.modQue p f).cache = b.cache := rfl
@[simp] theorem Blk.modQue_issueCycle (b : Blk) (p : Site) (f : Queue → Queue) : (b.modQue p f).issueCycle = b.issueCycle := rfl
@[simp] theorem Blk.modQue_issueCount (b : Blk) (p : Site) (f : Queue → Queue) : (b.modQue p f).issueCount = b.issueCount := rfl
@[simp] theorem Blk.modQue_bells (b : Blk) (p : Site) (f : Queue → Queue) : (b.modQue p f).bells = b.bells := rfl
@[simp] theorem Blk.modQue_bellAt (b : Blk) (p : Site) (f : Queue → Queue) : (b.modQue p f).bellAt = b.bellAt := rfl
@[simp] theorem Blk.modQue_heldBells (b : Blk) (p : Site) (f : Queue → Queue) : (b.modQue p f).heldBells = b.heldBells := rfl
@[simp] theorem Blk.modQue_ctxOp (b : Blk) (p : Site) (f : Queue → Queue) : (b.modQue p f).ctxOp = b.ctxOp := rfl
@[simp] theorem Blk.modQue_ephOp (b : Blk) (p : Site) (f : Queue → Queue) : (b.modQue p f).ephOp = b.ephOp := rfl
@[simp] theorem Blk.modQue_mem (b : Blk) (p : Site) (f : Queue → Queue) : (b.modQue p f).mem = b.mem := rfl
@[simp] theorem Blk.modQue_refresh (b : Blk) (p : Site) (f : Queue → Queue) : (b.modQue p f).refresh = b.refresh := rfl
@[simp] theorem Blk.modQue_gateStore (b : Blk) (p : Site) (f : Queue → Queue) : (b.modQue p f).gateStore = b.gateStore := rfl
@[simp] theorem Blk.modQue_disps (b : Blk) (p : Site) (f : Queue → Queue) : (b.modQue p f).disps = b.disps := rfl
@[simp] theorem Blk.modQue_ephs (b : Blk) (p : Site) (f : Queue → Queue) : (b.modQue p f).ephs = b.ephs := rfl
@[simp] theorem Blk.modQue_exch (b : Blk) (p : Site) (f : Queue → Queue) : (b.modQue p f).exch = b.exch := rfl
@[simp] theorem Blk.modQue_folds (b : Blk) (p : Site) (f : Queue → Queue) : (b.modQue p f).folds = b.folds := rfl
@[simp] theorem Blk.modQue_comets (b : Blk) (p : Site) (f : Queue → Queue) : (b.modQue p f).comets = b.comets := rfl
@[simp] theorem Blk.modQue_links (b : Blk) (p : Site) (f : Queue → Queue) : (b.modQue p f).links = b.links := rfl
@[simp] theorem Blk.modQue_edges (b : Blk) (p : Site) (f : Queue → Queue) : (b.modQue p f).edges = b.edges := rfl
@[simp] theorem Blk.modQue_health (b : Blk) (p : Site) (f : Queue → Queue) : (b.modQue p f).health = b.health := rfl
@[simp] theorem Blk.modQue_counters (b : Blk) (p : Site) (f : Queue → Queue) : (b.modQue p f).counters = b.counters := rfl
@[simp] theorem Blk.modQue_burnt (b : Blk) (p : Site) (f : Queue → Queue) : (b.modQue p f).burnt = b.burnt := rfl
@[simp] theorem Blk.modQue_burns (b : Blk) (p : Site) (f : Queue → Queue) : (b.modQue p f).burns = b.burns := rfl
@[simp] theorem Blk.modQue_snaps (b : Blk) (p : Site) (f : Queue → Queue) : (b.modQue p f).snaps = b.snaps := rfl
@[simp] theorem Blk.modQue_evts (b : Blk) (p : Site) (f : Queue → Queue) : (b.modQue p f).evts = b.evts := rfl
@[simp] theorem Blk.modQue_posted (b : Blk) (p : Site) (f : Queue → Queue) : (b.modQue p f).posted = b.posted := rfl
@[simp] theorem Blk.modQue_tels (b : Blk) (p : Site) (f : Queue → Queue) : (b.modQue p f).tels = b.tels := rfl
@[simp] theorem Blk.modQue_out (b : Blk) (p : Site) (f : Queue → Queue) : (b.modQue p f).out = b.out := rfl
@[simp] theorem Blk.modQue_free (b : Blk) (p : Site) (f : Queue → Queue) : (b.modQue p f).free = b.free := rfl
@[simp] theorem Blk.setSlot_cycle (b : Blk) (n : PartId) (x : Slot) : (b.setSlot n x).cycle = b.cycle := rfl
@[simp] theorem Blk.setSlot_bubble (b : Blk) (n : PartId) (x : Slot) : (b.setSlot n x).bubble = b.bubble := rfl
@[simp] theorem Blk.setSlot_stretchAt (b : Blk) (n : PartId) (x : Slot) : (b.setSlot n x).stretchAt = b.stretchAt := rfl
@[simp] theorem Blk.setSlot_shorts (b : Blk) (n : PartId) (x : Slot) : (b.setSlot n x).shorts = b.shorts := rfl
@[simp] theorem Blk.setSlot_start (b : Blk) (n : PartId) (x : Slot) : (b.setSlot n x).start = b.start := rfl
@[simp] theorem Blk.setSlot_regs (b : Blk) (n : PartId) (x : Slot) : (b.setSlot n x).regs = b.regs := rfl
@[simp] theorem Blk.setSlot_latch (b : Blk) (n : PartId) (x : Slot) : (b.setSlot n x).latch = b.latch := rfl
@[simp] theorem Blk.setSlot_ctxs (b : Blk) (n : PartId) (x : Slot) : (b.setSlot n x).ctxs = b.ctxs := rfl
@[simp] theorem Blk.setSlot_flights (b : Blk) (n : PartId) (x : Slot) : (b.setSlot n x).flights = b.flights := rfl
@[simp] theorem Blk.setSlot_cache (b : Blk) (n : PartId) (x : Slot) : (b.setSlot n x).cache = b.cache := rfl
@[simp] theorem Blk.setSlot_issueCycle (b : Blk) (n : PartId) (x : Slot) : (b.setSlot n x).issueCycle = b.issueCycle := rfl
@[simp] theorem Blk.setSlot_issueCount (b : Blk) (n : PartId) (x : Slot) : (b.setSlot n x).issueCount = b.issueCount := rfl
@[simp] theorem Blk.setSlot_bells (b : Blk) (n : PartId) (x : Slot) : (b.setSlot n x).bells = b.bells := rfl
@[simp] theorem Blk.setSlot_bellAt (b : Blk) (n : PartId) (x : Slot) : (b.setSlot n x).bellAt = b.bellAt := rfl
@[simp] theorem Blk.setSlot_heldBells (b : Blk) (n : PartId) (x : Slot) : (b.setSlot n x).heldBells = b.heldBells := rfl
@[simp] theorem Blk.setSlot_ctxOp (b : Blk) (n : PartId) (x : Slot) : (b.setSlot n x).ctxOp = b.ctxOp := rfl
@[simp] theorem Blk.setSlot_ephOp (b : Blk) (n : PartId) (x : Slot) : (b.setSlot n x).ephOp = b.ephOp := rfl
@[simp] theorem Blk.setSlot_mem (b : Blk) (n : PartId) (x : Slot) : (b.setSlot n x).mem = b.mem := rfl
@[simp] theorem Blk.setSlot_refresh (b : Blk) (n : PartId) (x : Slot) : (b.setSlot n x).refresh = b.refresh := rfl
@[simp] theorem Blk.setSlot_gateStore (b : Blk) (n : PartId) (x : Slot) : (b.setSlot n x).gateStore = b.gateStore := rfl
@[simp] theorem Blk.setSlot_disps (b : Blk) (n : PartId) (x : Slot) : (b.setSlot n x).disps = b.disps := rfl
@[simp] theorem Blk.setSlot_ephs (b : Blk) (n : PartId) (x : Slot) : (b.setSlot n x).ephs = b.ephs := rfl
@[simp] theorem Blk.setSlot_exch (b : Blk) (n : PartId) (x : Slot) : (b.setSlot n x).exch = b.exch := rfl
@[simp] theorem Blk.setSlot_folds (b : Blk) (n : PartId) (x : Slot) : (b.setSlot n x).folds = b.folds := rfl
@[simp] theorem Blk.setSlot_comets (b : Blk) (n : PartId) (x : Slot) : (b.setSlot n x).comets = b.comets := rfl
@[simp] theorem Blk.setSlot_links (b : Blk) (n : PartId) (x : Slot) : (b.setSlot n x).links = b.links := rfl
@[simp] theorem Blk.setSlot_edges (b : Blk) (n : PartId) (x : Slot) : (b.setSlot n x).edges = b.edges := rfl
@[simp] theorem Blk.setSlot_health (b : Blk) (n : PartId) (x : Slot) : (b.setSlot n x).health = b.health := rfl
@[simp] theorem Blk.setSlot_counters (b : Blk) (n : PartId) (x : Slot) : (b.setSlot n x).counters = b.counters := rfl
@[simp] theorem Blk.setSlot_burnt (b : Blk) (n : PartId) (x : Slot) : (b.setSlot n x).burnt = b.burnt := rfl
@[simp] theorem Blk.setSlot_burns (b : Blk) (n : PartId) (x : Slot) : (b.setSlot n x).burns = b.burns := rfl
@[simp] theorem Blk.setSlot_snaps (b : Blk) (n : PartId) (x : Slot) : (b.setSlot n x).snaps = b.snaps := rfl
@[simp] theorem Blk.setSlot_evts (b : Blk) (n : PartId) (x : Slot) : (b.setSlot n x).evts = b.evts := rfl
@[simp] theorem Blk.setSlot_posted (b : Blk) (n : PartId) (x : Slot) : (b.setSlot n x).posted = b.posted := rfl
@[simp] theorem Blk.setSlot_tels (b : Blk) (n : PartId) (x : Slot) : (b.setSlot n x).tels = b.tels := rfl
@[simp] theorem Blk.setSlot_out (b : Blk) (n : PartId) (x : Slot) : (b.setSlot n x).out = b.out := rfl
@[simp] theorem Blk.setSlot_free (b : Blk) (n : PartId) (x : Slot) : (b.setSlot n x).free = b.free := rfl
@[simp] theorem Blk.setLink_cycle (b : Blk) (i : BitVec 4) (l : Link) : (b.setLink i l).cycle = b.cycle := rfl
@[simp] theorem Blk.setLink_bubble (b : Blk) (i : BitVec 4) (l : Link) : (b.setLink i l).bubble = b.bubble := rfl
@[simp] theorem Blk.setLink_stretchAt (b : Blk) (i : BitVec 4) (l : Link) : (b.setLink i l).stretchAt = b.stretchAt := rfl
@[simp] theorem Blk.setLink_shorts (b : Blk) (i : BitVec 4) (l : Link) : (b.setLink i l).shorts = b.shorts := rfl
@[simp] theorem Blk.setLink_start (b : Blk) (i : BitVec 4) (l : Link) : (b.setLink i l).start = b.start := rfl
@[simp] theorem Blk.setLink_regs (b : Blk) (i : BitVec 4) (l : Link) : (b.setLink i l).regs = b.regs := rfl
@[simp] theorem Blk.setLink_latch (b : Blk) (i : BitVec 4) (l : Link) : (b.setLink i l).latch = b.latch := rfl
@[simp] theorem Blk.setLink_ctxs (b : Blk) (i : BitVec 4) (l : Link) : (b.setLink i l).ctxs = b.ctxs := rfl
@[simp] theorem Blk.setLink_slots (b : Blk) (i : BitVec 4) (l : Link) : (b.setLink i l).slots = b.slots := rfl
@[simp] theorem Blk.setLink_flights (b : Blk) (i : BitVec 4) (l : Link) : (b.setLink i l).flights = b.flights := rfl
@[simp] theorem Blk.setLink_cache (b : Blk) (i : BitVec 4) (l : Link) : (b.setLink i l).cache = b.cache := rfl
@[simp] theorem Blk.setLink_issueCycle (b : Blk) (i : BitVec 4) (l : Link) : (b.setLink i l).issueCycle = b.issueCycle := rfl
@[simp] theorem Blk.setLink_issueCount (b : Blk) (i : BitVec 4) (l : Link) : (b.setLink i l).issueCount = b.issueCount := rfl
@[simp] theorem Blk.setLink_bells (b : Blk) (i : BitVec 4) (l : Link) : (b.setLink i l).bells = b.bells := rfl
@[simp] theorem Blk.setLink_bellAt (b : Blk) (i : BitVec 4) (l : Link) : (b.setLink i l).bellAt = b.bellAt := rfl
@[simp] theorem Blk.setLink_heldBells (b : Blk) (i : BitVec 4) (l : Link) : (b.setLink i l).heldBells = b.heldBells := rfl
@[simp] theorem Blk.setLink_ctxOp (b : Blk) (i : BitVec 4) (l : Link) : (b.setLink i l).ctxOp = b.ctxOp := rfl
@[simp] theorem Blk.setLink_ephOp (b : Blk) (i : BitVec 4) (l : Link) : (b.setLink i l).ephOp = b.ephOp := rfl
@[simp] theorem Blk.setLink_mem (b : Blk) (i : BitVec 4) (l : Link) : (b.setLink i l).mem = b.mem := rfl
@[simp] theorem Blk.setLink_refresh (b : Blk) (i : BitVec 4) (l : Link) : (b.setLink i l).refresh = b.refresh := rfl
@[simp] theorem Blk.setLink_gateStore (b : Blk) (i : BitVec 4) (l : Link) : (b.setLink i l).gateStore = b.gateStore := rfl
@[simp] theorem Blk.setLink_disps (b : Blk) (i : BitVec 4) (l : Link) : (b.setLink i l).disps = b.disps := rfl
@[simp] theorem Blk.setLink_ephs (b : Blk) (i : BitVec 4) (l : Link) : (b.setLink i l).ephs = b.ephs := rfl
@[simp] theorem Blk.setLink_exch (b : Blk) (i : BitVec 4) (l : Link) : (b.setLink i l).exch = b.exch := rfl
@[simp] theorem Blk.setLink_folds (b : Blk) (i : BitVec 4) (l : Link) : (b.setLink i l).folds = b.folds := rfl
@[simp] theorem Blk.setLink_comets (b : Blk) (i : BitVec 4) (l : Link) : (b.setLink i l).comets = b.comets := rfl
@[simp] theorem Blk.setLink_edges (b : Blk) (i : BitVec 4) (l : Link) : (b.setLink i l).edges = b.edges := rfl
@[simp] theorem Blk.setLink_health (b : Blk) (i : BitVec 4) (l : Link) : (b.setLink i l).health = b.health := rfl
@[simp] theorem Blk.setLink_counters (b : Blk) (i : BitVec 4) (l : Link) : (b.setLink i l).counters = b.counters := rfl
@[simp] theorem Blk.setLink_burnt (b : Blk) (i : BitVec 4) (l : Link) : (b.setLink i l).burnt = b.burnt := rfl
@[simp] theorem Blk.setLink_burns (b : Blk) (i : BitVec 4) (l : Link) : (b.setLink i l).burns = b.burns := rfl
@[simp] theorem Blk.setLink_snaps (b : Blk) (i : BitVec 4) (l : Link) : (b.setLink i l).snaps = b.snaps := rfl
@[simp] theorem Blk.setLink_evts (b : Blk) (i : BitVec 4) (l : Link) : (b.setLink i l).evts = b.evts := rfl
@[simp] theorem Blk.setLink_posted (b : Blk) (i : BitVec 4) (l : Link) : (b.setLink i l).posted = b.posted := rfl
@[simp] theorem Blk.setLink_tels (b : Blk) (i : BitVec 4) (l : Link) : (b.setLink i l).tels = b.tels := rfl
@[simp] theorem Blk.setLink_out (b : Blk) (i : BitVec 4) (l : Link) : (b.setLink i l).out = b.out := rfl
@[simp] theorem Blk.setLink_free (b : Blk) (i : BitVec 4) (l : Link) : (b.setLink i l).free = b.free := rfl
@[simp] theorem Blk.setTable_cycle (b : Blk) (l : Layer) (k : BitVec 2) (x : Table) : (b.setTable l k x).cycle = b.cycle := rfl
@[simp] theorem Blk.setTable_bubble (b : Blk) (l : Layer) (k : BitVec 2) (x : Table) : (b.setTable l k x).bubble = b.bubble := rfl
@[simp] theorem Blk.setTable_stretchAt (b : Blk) (l : Layer) (k : BitVec 2) (x : Table) : (b.setTable l k x).stretchAt = b.stretchAt := rfl
@[simp] theorem Blk.setTable_shorts (b : Blk) (l : Layer) (k : BitVec 2) (x : Table) : (b.setTable l k x).shorts = b.shorts := rfl
@[simp] theorem Blk.setTable_start (b : Blk) (l : Layer) (k : BitVec 2) (x : Table) : (b.setTable l k x).start = b.start := rfl
@[simp] theorem Blk.setTable_regs (b : Blk) (l : Layer) (k : BitVec 2) (x : Table) : (b.setTable l k x).regs = b.regs := rfl
@[simp] theorem Blk.setTable_latch (b : Blk) (l : Layer) (k : BitVec 2) (x : Table) : (b.setTable l k x).latch = b.latch := rfl
@[simp] theorem Blk.setTable_ctxs (b : Blk) (l : Layer) (k : BitVec 2) (x : Table) : (b.setTable l k x).ctxs = b.ctxs := rfl
@[simp] theorem Blk.setTable_slots (b : Blk) (l : Layer) (k : BitVec 2) (x : Table) : (b.setTable l k x).slots = b.slots := rfl
@[simp] theorem Blk.setTable_flights (b : Blk) (l : Layer) (k : BitVec 2) (x : Table) : (b.setTable l k x).flights = b.flights := rfl
@[simp] theorem Blk.setTable_cache (b : Blk) (l : Layer) (k : BitVec 2) (x : Table) : (b.setTable l k x).cache = b.cache := rfl
@[simp] theorem Blk.setTable_issueCycle (b : Blk) (l : Layer) (k : BitVec 2) (x : Table) : (b.setTable l k x).issueCycle = b.issueCycle := rfl
@[simp] theorem Blk.setTable_issueCount (b : Blk) (l : Layer) (k : BitVec 2) (x : Table) : (b.setTable l k x).issueCount = b.issueCount := rfl
@[simp] theorem Blk.setTable_bells (b : Blk) (l : Layer) (k : BitVec 2) (x : Table) : (b.setTable l k x).bells = b.bells := rfl
@[simp] theorem Blk.setTable_bellAt (b : Blk) (l : Layer) (k : BitVec 2) (x : Table) : (b.setTable l k x).bellAt = b.bellAt := rfl
@[simp] theorem Blk.setTable_heldBells (b : Blk) (l : Layer) (k : BitVec 2) (x : Table) : (b.setTable l k x).heldBells = b.heldBells := rfl
@[simp] theorem Blk.setTable_ctxOp (b : Blk) (l : Layer) (k : BitVec 2) (x : Table) : (b.setTable l k x).ctxOp = b.ctxOp := rfl
@[simp] theorem Blk.setTable_ephOp (b : Blk) (l : Layer) (k : BitVec 2) (x : Table) : (b.setTable l k x).ephOp = b.ephOp := rfl
@[simp] theorem Blk.setTable_mem (b : Blk) (l : Layer) (k : BitVec 2) (x : Table) : (b.setTable l k x).mem = b.mem := rfl
@[simp] theorem Blk.setTable_gateStore (b : Blk) (l : Layer) (k : BitVec 2) (x : Table) : (b.setTable l k x).gateStore = b.gateStore := rfl
@[simp] theorem Blk.setTable_disps (b : Blk) (l : Layer) (k : BitVec 2) (x : Table) : (b.setTable l k x).disps = b.disps := rfl
@[simp] theorem Blk.setTable_ephs (b : Blk) (l : Layer) (k : BitVec 2) (x : Table) : (b.setTable l k x).ephs = b.ephs := rfl
@[simp] theorem Blk.setTable_exch (b : Blk) (l : Layer) (k : BitVec 2) (x : Table) : (b.setTable l k x).exch = b.exch := rfl
@[simp] theorem Blk.setTable_folds (b : Blk) (l : Layer) (k : BitVec 2) (x : Table) : (b.setTable l k x).folds = b.folds := rfl
@[simp] theorem Blk.setTable_comets (b : Blk) (l : Layer) (k : BitVec 2) (x : Table) : (b.setTable l k x).comets = b.comets := rfl
@[simp] theorem Blk.setTable_links (b : Blk) (l : Layer) (k : BitVec 2) (x : Table) : (b.setTable l k x).links = b.links := rfl
@[simp] theorem Blk.setTable_edges (b : Blk) (l : Layer) (k : BitVec 2) (x : Table) : (b.setTable l k x).edges = b.edges := rfl
@[simp] theorem Blk.setTable_health (b : Blk) (l : Layer) (k : BitVec 2) (x : Table) : (b.setTable l k x).health = b.health := rfl
@[simp] theorem Blk.setTable_counters (b : Blk) (l : Layer) (k : BitVec 2) (x : Table) : (b.setTable l k x).counters = b.counters := rfl
@[simp] theorem Blk.setTable_burnt (b : Blk) (l : Layer) (k : BitVec 2) (x : Table) : (b.setTable l k x).burnt = b.burnt := rfl
@[simp] theorem Blk.setTable_burns (b : Blk) (l : Layer) (k : BitVec 2) (x : Table) : (b.setTable l k x).burns = b.burns := rfl
@[simp] theorem Blk.setTable_snaps (b : Blk) (l : Layer) (k : BitVec 2) (x : Table) : (b.setTable l k x).snaps = b.snaps := rfl
@[simp] theorem Blk.setTable_evts (b : Blk) (l : Layer) (k : BitVec 2) (x : Table) : (b.setTable l k x).evts = b.evts := rfl
@[simp] theorem Blk.setTable_posted (b : Blk) (l : Layer) (k : BitVec 2) (x : Table) : (b.setTable l k x).posted = b.posted := rfl
@[simp] theorem Blk.setTable_tels (b : Blk) (l : Layer) (k : BitVec 2) (x : Table) : (b.setTable l k x).tels = b.tels := rfl
@[simp] theorem Blk.setTable_out (b : Blk) (l : Layer) (k : BitVec 2) (x : Table) : (b.setTable l k x).out = b.out := rfl
@[simp] theorem Blk.setTable_free (b : Blk) (l : Layer) (k : BitVec 2) (x : Table) : (b.setTable l k x).free = b.free := rfl
@[simp] theorem Blk.setReg_cycle (b : Blk) (o i : Nat) (v : Word) : (b.setReg o i v).cycle = b.cycle := rfl
@[simp] theorem Blk.setReg_bubble (b : Blk) (o i : Nat) (v : Word) : (b.setReg o i v).bubble = b.bubble := rfl
@[simp] theorem Blk.setReg_stretchAt (b : Blk) (o i : Nat) (v : Word) : (b.setReg o i v).stretchAt = b.stretchAt := rfl
@[simp] theorem Blk.setReg_shorts (b : Blk) (o i : Nat) (v : Word) : (b.setReg o i v).shorts = b.shorts := rfl
@[simp] theorem Blk.setReg_start (b : Blk) (o i : Nat) (v : Word) : (b.setReg o i v).start = b.start := rfl
@[simp] theorem Blk.setReg_latch (b : Blk) (o i : Nat) (v : Word) : (b.setReg o i v).latch = b.latch := rfl
@[simp] theorem Blk.setReg_ctxs (b : Blk) (o i : Nat) (v : Word) : (b.setReg o i v).ctxs = b.ctxs := rfl
@[simp] theorem Blk.setReg_slots (b : Blk) (o i : Nat) (v : Word) : (b.setReg o i v).slots = b.slots := rfl
@[simp] theorem Blk.setReg_flights (b : Blk) (o i : Nat) (v : Word) : (b.setReg o i v).flights = b.flights := rfl
@[simp] theorem Blk.setReg_cache (b : Blk) (o i : Nat) (v : Word) : (b.setReg o i v).cache = b.cache := rfl
@[simp] theorem Blk.setReg_issueCycle (b : Blk) (o i : Nat) (v : Word) : (b.setReg o i v).issueCycle = b.issueCycle := rfl
@[simp] theorem Blk.setReg_issueCount (b : Blk) (o i : Nat) (v : Word) : (b.setReg o i v).issueCount = b.issueCount := rfl
@[simp] theorem Blk.setReg_bells (b : Blk) (o i : Nat) (v : Word) : (b.setReg o i v).bells = b.bells := rfl
@[simp] theorem Blk.setReg_bellAt (b : Blk) (o i : Nat) (v : Word) : (b.setReg o i v).bellAt = b.bellAt := rfl
@[simp] theorem Blk.setReg_heldBells (b : Blk) (o i : Nat) (v : Word) : (b.setReg o i v).heldBells = b.heldBells := rfl
@[simp] theorem Blk.setReg_ctxOp (b : Blk) (o i : Nat) (v : Word) : (b.setReg o i v).ctxOp = b.ctxOp := rfl
@[simp] theorem Blk.setReg_ephOp (b : Blk) (o i : Nat) (v : Word) : (b.setReg o i v).ephOp = b.ephOp := rfl
@[simp] theorem Blk.setReg_mem (b : Blk) (o i : Nat) (v : Word) : (b.setReg o i v).mem = b.mem := rfl
@[simp] theorem Blk.setReg_refresh (b : Blk) (o i : Nat) (v : Word) : (b.setReg o i v).refresh = b.refresh := rfl
@[simp] theorem Blk.setReg_gateStore (b : Blk) (o i : Nat) (v : Word) : (b.setReg o i v).gateStore = b.gateStore := rfl
@[simp] theorem Blk.setReg_disps (b : Blk) (o i : Nat) (v : Word) : (b.setReg o i v).disps = b.disps := rfl
@[simp] theorem Blk.setReg_ephs (b : Blk) (o i : Nat) (v : Word) : (b.setReg o i v).ephs = b.ephs := rfl
@[simp] theorem Blk.setReg_exch (b : Blk) (o i : Nat) (v : Word) : (b.setReg o i v).exch = b.exch := rfl
@[simp] theorem Blk.setReg_folds (b : Blk) (o i : Nat) (v : Word) : (b.setReg o i v).folds = b.folds := rfl
@[simp] theorem Blk.setReg_comets (b : Blk) (o i : Nat) (v : Word) : (b.setReg o i v).comets = b.comets := rfl
@[simp] theorem Blk.setReg_links (b : Blk) (o i : Nat) (v : Word) : (b.setReg o i v).links = b.links := rfl
@[simp] theorem Blk.setReg_edges (b : Blk) (o i : Nat) (v : Word) : (b.setReg o i v).edges = b.edges := rfl
@[simp] theorem Blk.setReg_health (b : Blk) (o i : Nat) (v : Word) : (b.setReg o i v).health = b.health := rfl
@[simp] theorem Blk.setReg_counters (b : Blk) (o i : Nat) (v : Word) : (b.setReg o i v).counters = b.counters := rfl
@[simp] theorem Blk.setReg_burnt (b : Blk) (o i : Nat) (v : Word) : (b.setReg o i v).burnt = b.burnt := rfl
@[simp] theorem Blk.setReg_burns (b : Blk) (o i : Nat) (v : Word) : (b.setReg o i v).burns = b.burns := rfl
@[simp] theorem Blk.setReg_snaps (b : Blk) (o i : Nat) (v : Word) : (b.setReg o i v).snaps = b.snaps := rfl
@[simp] theorem Blk.setReg_evts (b : Blk) (o i : Nat) (v : Word) : (b.setReg o i v).evts = b.evts := rfl
@[simp] theorem Blk.setReg_posted (b : Blk) (o i : Nat) (v : Word) : (b.setReg o i v).posted = b.posted := rfl
@[simp] theorem Blk.setReg_tels (b : Blk) (o i : Nat) (v : Word) : (b.setReg o i v).tels = b.tels := rfl
@[simp] theorem Blk.setReg_out (b : Blk) (o i : Nat) (v : Word) : (b.setReg o i v).out = b.out := rfl
@[simp] theorem Blk.setReg_free (b : Blk) (o i : Nat) (v : Word) : (b.setReg o i v).free = b.free := rfl
@[simp] theorem Blk.setEdge_cycle (b : Blk) (n : Nat) (e : EdgeSt) : (b.setEdge n e).cycle = b.cycle := rfl
@[simp] theorem Blk.setEdge_bubble (b : Blk) (n : Nat) (e : EdgeSt) : (b.setEdge n e).bubble = b.bubble := rfl
@[simp] theorem Blk.setEdge_stretchAt (b : Blk) (n : Nat) (e : EdgeSt) : (b.setEdge n e).stretchAt = b.stretchAt := rfl
@[simp] theorem Blk.setEdge_shorts (b : Blk) (n : Nat) (e : EdgeSt) : (b.setEdge n e).shorts = b.shorts := rfl
@[simp] theorem Blk.setEdge_start (b : Blk) (n : Nat) (e : EdgeSt) : (b.setEdge n e).start = b.start := rfl
@[simp] theorem Blk.setEdge_regs (b : Blk) (n : Nat) (e : EdgeSt) : (b.setEdge n e).regs = b.regs := rfl
@[simp] theorem Blk.setEdge_latch (b : Blk) (n : Nat) (e : EdgeSt) : (b.setEdge n e).latch = b.latch := rfl
@[simp] theorem Blk.setEdge_ctxs (b : Blk) (n : Nat) (e : EdgeSt) : (b.setEdge n e).ctxs = b.ctxs := rfl
@[simp] theorem Blk.setEdge_slots (b : Blk) (n : Nat) (e : EdgeSt) : (b.setEdge n e).slots = b.slots := rfl
@[simp] theorem Blk.setEdge_flights (b : Blk) (n : Nat) (e : EdgeSt) : (b.setEdge n e).flights = b.flights := rfl
@[simp] theorem Blk.setEdge_cache (b : Blk) (n : Nat) (e : EdgeSt) : (b.setEdge n e).cache = b.cache := rfl
@[simp] theorem Blk.setEdge_issueCycle (b : Blk) (n : Nat) (e : EdgeSt) : (b.setEdge n e).issueCycle = b.issueCycle := rfl
@[simp] theorem Blk.setEdge_issueCount (b : Blk) (n : Nat) (e : EdgeSt) : (b.setEdge n e).issueCount = b.issueCount := rfl
@[simp] theorem Blk.setEdge_bells (b : Blk) (n : Nat) (e : EdgeSt) : (b.setEdge n e).bells = b.bells := rfl
@[simp] theorem Blk.setEdge_bellAt (b : Blk) (n : Nat) (e : EdgeSt) : (b.setEdge n e).bellAt = b.bellAt := rfl
@[simp] theorem Blk.setEdge_heldBells (b : Blk) (n : Nat) (e : EdgeSt) : (b.setEdge n e).heldBells = b.heldBells := rfl
@[simp] theorem Blk.setEdge_ctxOp (b : Blk) (n : Nat) (e : EdgeSt) : (b.setEdge n e).ctxOp = b.ctxOp := rfl
@[simp] theorem Blk.setEdge_ephOp (b : Blk) (n : Nat) (e : EdgeSt) : (b.setEdge n e).ephOp = b.ephOp := rfl
@[simp] theorem Blk.setEdge_mem (b : Blk) (n : Nat) (e : EdgeSt) : (b.setEdge n e).mem = b.mem := rfl
@[simp] theorem Blk.setEdge_refresh (b : Blk) (n : Nat) (e : EdgeSt) : (b.setEdge n e).refresh = b.refresh := rfl
@[simp] theorem Blk.setEdge_gateStore (b : Blk) (n : Nat) (e : EdgeSt) : (b.setEdge n e).gateStore = b.gateStore := rfl
@[simp] theorem Blk.setEdge_disps (b : Blk) (n : Nat) (e : EdgeSt) : (b.setEdge n e).disps = b.disps := rfl
@[simp] theorem Blk.setEdge_ephs (b : Blk) (n : Nat) (e : EdgeSt) : (b.setEdge n e).ephs = b.ephs := rfl
@[simp] theorem Blk.setEdge_exch (b : Blk) (n : Nat) (e : EdgeSt) : (b.setEdge n e).exch = b.exch := rfl
@[simp] theorem Blk.setEdge_folds (b : Blk) (n : Nat) (e : EdgeSt) : (b.setEdge n e).folds = b.folds := rfl
@[simp] theorem Blk.setEdge_comets (b : Blk) (n : Nat) (e : EdgeSt) : (b.setEdge n e).comets = b.comets := rfl
@[simp] theorem Blk.setEdge_links (b : Blk) (n : Nat) (e : EdgeSt) : (b.setEdge n e).links = b.links := rfl
@[simp] theorem Blk.setEdge_health (b : Blk) (n : Nat) (e : EdgeSt) : (b.setEdge n e).health = b.health := rfl
@[simp] theorem Blk.setEdge_counters (b : Blk) (n : Nat) (e : EdgeSt) : (b.setEdge n e).counters = b.counters := rfl
@[simp] theorem Blk.setEdge_burnt (b : Blk) (n : Nat) (e : EdgeSt) : (b.setEdge n e).burnt = b.burnt := rfl
@[simp] theorem Blk.setEdge_burns (b : Blk) (n : Nat) (e : EdgeSt) : (b.setEdge n e).burns = b.burns := rfl
@[simp] theorem Blk.setEdge_snaps (b : Blk) (n : Nat) (e : EdgeSt) : (b.setEdge n e).snaps = b.snaps := rfl
@[simp] theorem Blk.setEdge_evts (b : Blk) (n : Nat) (e : EdgeSt) : (b.setEdge n e).evts = b.evts := rfl
@[simp] theorem Blk.setEdge_posted (b : Blk) (n : Nat) (e : EdgeSt) : (b.setEdge n e).posted = b.posted := rfl
@[simp] theorem Blk.setEdge_tels (b : Blk) (n : Nat) (e : EdgeSt) : (b.setEdge n e).tels = b.tels := rfl
@[simp] theorem Blk.setEdge_out (b : Blk) (n : Nat) (e : EdgeSt) : (b.setEdge n e).out = b.out := rfl
@[simp] theorem Blk.setEdge_free (b : Blk) (n : Nat) (e : EdgeSt) : (b.setEdge n e).free = b.free := rfl
@[simp] theorem Blk.send_cycle (b : Blk) (o : Out) : (b.send o).cycle = b.cycle := rfl
@[simp] theorem Blk.send_bubble (b : Blk) (o : Out) : (b.send o).bubble = b.bubble := rfl
@[simp] theorem Blk.send_stretchAt (b : Blk) (o : Out) : (b.send o).stretchAt = b.stretchAt := rfl
@[simp] theorem Blk.send_shorts (b : Blk) (o : Out) : (b.send o).shorts = b.shorts := rfl
@[simp] theorem Blk.send_start (b : Blk) (o : Out) : (b.send o).start = b.start := rfl
@[simp] theorem Blk.send_regs (b : Blk) (o : Out) : (b.send o).regs = b.regs := rfl
@[simp] theorem Blk.send_latch (b : Blk) (o : Out) : (b.send o).latch = b.latch := rfl
@[simp] theorem Blk.send_ctxs (b : Blk) (o : Out) : (b.send o).ctxs = b.ctxs := rfl
@[simp] theorem Blk.send_slots (b : Blk) (o : Out) : (b.send o).slots = b.slots := rfl
@[simp] theorem Blk.send_flights (b : Blk) (o : Out) : (b.send o).flights = b.flights := rfl
@[simp] theorem Blk.send_cache (b : Blk) (o : Out) : (b.send o).cache = b.cache := rfl
@[simp] theorem Blk.send_issueCycle (b : Blk) (o : Out) : (b.send o).issueCycle = b.issueCycle := rfl
@[simp] theorem Blk.send_issueCount (b : Blk) (o : Out) : (b.send o).issueCount = b.issueCount := rfl
@[simp] theorem Blk.send_bells (b : Blk) (o : Out) : (b.send o).bells = b.bells := rfl
@[simp] theorem Blk.send_bellAt (b : Blk) (o : Out) : (b.send o).bellAt = b.bellAt := rfl
@[simp] theorem Blk.send_heldBells (b : Blk) (o : Out) : (b.send o).heldBells = b.heldBells := rfl
@[simp] theorem Blk.send_ctxOp (b : Blk) (o : Out) : (b.send o).ctxOp = b.ctxOp := rfl
@[simp] theorem Blk.send_ephOp (b : Blk) (o : Out) : (b.send o).ephOp = b.ephOp := rfl
@[simp] theorem Blk.send_mem (b : Blk) (o : Out) : (b.send o).mem = b.mem := rfl
@[simp] theorem Blk.send_refresh (b : Blk) (o : Out) : (b.send o).refresh = b.refresh := rfl
@[simp] theorem Blk.send_gateStore (b : Blk) (o : Out) : (b.send o).gateStore = b.gateStore := rfl
@[simp] theorem Blk.send_disps (b : Blk) (o : Out) : (b.send o).disps = b.disps := rfl
@[simp] theorem Blk.send_ephs (b : Blk) (o : Out) : (b.send o).ephs = b.ephs := rfl
@[simp] theorem Blk.send_exch (b : Blk) (o : Out) : (b.send o).exch = b.exch := rfl
@[simp] theorem Blk.send_folds (b : Blk) (o : Out) : (b.send o).folds = b.folds := rfl
@[simp] theorem Blk.send_comets (b : Blk) (o : Out) : (b.send o).comets = b.comets := rfl
@[simp] theorem Blk.send_links (b : Blk) (o : Out) : (b.send o).links = b.links := rfl
@[simp] theorem Blk.send_edges (b : Blk) (o : Out) : (b.send o).edges = b.edges := rfl
@[simp] theorem Blk.send_health (b : Blk) (o : Out) : (b.send o).health = b.health := rfl
@[simp] theorem Blk.send_counters (b : Blk) (o : Out) : (b.send o).counters = b.counters := rfl
@[simp] theorem Blk.send_burnt (b : Blk) (o : Out) : (b.send o).burnt = b.burnt := rfl
@[simp] theorem Blk.send_burns (b : Blk) (o : Out) : (b.send o).burns = b.burns := rfl
@[simp] theorem Blk.send_snaps (b : Blk) (o : Out) : (b.send o).snaps = b.snaps := rfl
@[simp] theorem Blk.send_evts (b : Blk) (o : Out) : (b.send o).evts = b.evts := rfl
@[simp] theorem Blk.send_posted (b : Blk) (o : Out) : (b.send o).posted = b.posted := rfl
@[simp] theorem Blk.send_tels (b : Blk) (o : Out) : (b.send o).tels = b.tels := rfl
@[simp] theorem Blk.send_free (b : Blk) (o : Out) : (b.send o).free = b.free := rfl
@[simp] theorem Blk.draw_cycle (b : Blk) : (b.draw).cycle = b.cycle := rfl
@[simp] theorem Blk.draw_bubble (b : Blk) : (b.draw).bubble = b.bubble := rfl
@[simp] theorem Blk.draw_stretchAt (b : Blk) : (b.draw).stretchAt = b.stretchAt := rfl
@[simp] theorem Blk.draw_shorts (b : Blk) : (b.draw).shorts = b.shorts := rfl
@[simp] theorem Blk.draw_start (b : Blk) : (b.draw).start = b.start := rfl
@[simp] theorem Blk.draw_regs (b : Blk) : (b.draw).regs = b.regs := rfl
@[simp] theorem Blk.draw_latch (b : Blk) : (b.draw).latch = b.latch := rfl
@[simp] theorem Blk.draw_ctxs (b : Blk) : (b.draw).ctxs = b.ctxs := rfl
@[simp] theorem Blk.draw_slots (b : Blk) : (b.draw).slots = b.slots := rfl
@[simp] theorem Blk.draw_flights (b : Blk) : (b.draw).flights = b.flights := rfl
@[simp] theorem Blk.draw_cache (b : Blk) : (b.draw).cache = b.cache := rfl
@[simp] theorem Blk.draw_issueCycle (b : Blk) : (b.draw).issueCycle = b.issueCycle := rfl
@[simp] theorem Blk.draw_issueCount (b : Blk) : (b.draw).issueCount = b.issueCount := rfl
@[simp] theorem Blk.draw_bells (b : Blk) : (b.draw).bells = b.bells := rfl
@[simp] theorem Blk.draw_bellAt (b : Blk) : (b.draw).bellAt = b.bellAt := rfl
@[simp] theorem Blk.draw_heldBells (b : Blk) : (b.draw).heldBells = b.heldBells := rfl
@[simp] theorem Blk.draw_ctxOp (b : Blk) : (b.draw).ctxOp = b.ctxOp := rfl
@[simp] theorem Blk.draw_ephOp (b : Blk) : (b.draw).ephOp = b.ephOp := rfl
@[simp] theorem Blk.draw_mem (b : Blk) : (b.draw).mem = b.mem := rfl
@[simp] theorem Blk.draw_refresh (b : Blk) : (b.draw).refresh = b.refresh := rfl
@[simp] theorem Blk.draw_gateStore (b : Blk) : (b.draw).gateStore = b.gateStore := rfl
@[simp] theorem Blk.draw_disps (b : Blk) : (b.draw).disps = b.disps := rfl
@[simp] theorem Blk.draw_ephs (b : Blk) : (b.draw).ephs = b.ephs := rfl
@[simp] theorem Blk.draw_exch (b : Blk) : (b.draw).exch = b.exch := rfl
@[simp] theorem Blk.draw_folds (b : Blk) : (b.draw).folds = b.folds := rfl
@[simp] theorem Blk.draw_comets (b : Blk) : (b.draw).comets = b.comets := rfl
@[simp] theorem Blk.draw_links (b : Blk) : (b.draw).links = b.links := rfl
@[simp] theorem Blk.draw_edges (b : Blk) : (b.draw).edges = b.edges := rfl
@[simp] theorem Blk.draw_health (b : Blk) : (b.draw).health = b.health := rfl
@[simp] theorem Blk.draw_counters (b : Blk) : (b.draw).counters = b.counters := rfl
@[simp] theorem Blk.draw_burnt (b : Blk) : (b.draw).burnt = b.burnt := rfl
@[simp] theorem Blk.draw_burns (b : Blk) : (b.draw).burns = b.burns := rfl
@[simp] theorem Blk.draw_snaps (b : Blk) : (b.draw).snaps = b.snaps := rfl
@[simp] theorem Blk.draw_evts (b : Blk) : (b.draw).evts = b.evts := rfl
@[simp] theorem Blk.draw_posted (b : Blk) : (b.draw).posted = b.posted := rfl
@[simp] theorem Blk.draw_tels (b : Blk) : (b.draw).tels = b.tels := rfl
@[simp] theorem Blk.draw_out (b : Blk) : (b.draw).out = b.out := rfl
@[simp] theorem Blk.addInst_cycle (b : Blk) (o n : Nat) : (b.addInst o n).cycle = b.cycle := rfl
@[simp] theorem Blk.addInst_bubble (b : Blk) (o n : Nat) : (b.addInst o n).bubble = b.bubble := rfl
@[simp] theorem Blk.addInst_stretchAt (b : Blk) (o n : Nat) : (b.addInst o n).stretchAt = b.stretchAt := rfl
@[simp] theorem Blk.addInst_shorts (b : Blk) (o n : Nat) : (b.addInst o n).shorts = b.shorts := rfl
@[simp] theorem Blk.addInst_start (b : Blk) (o n : Nat) : (b.addInst o n).start = b.start := rfl
@[simp] theorem Blk.addInst_regs (b : Blk) (o n : Nat) : (b.addInst o n).regs = b.regs := rfl
@[simp] theorem Blk.addInst_latch (b : Blk) (o n : Nat) : (b.addInst o n).latch = b.latch := rfl
@[simp] theorem Blk.addInst_ctxs (b : Blk) (o n : Nat) : (b.addInst o n).ctxs = b.ctxs := rfl
@[simp] theorem Blk.addInst_slots (b : Blk) (o n : Nat) : (b.addInst o n).slots = b.slots := rfl
@[simp] theorem Blk.addInst_flights (b : Blk) (o n : Nat) : (b.addInst o n).flights = b.flights := rfl
@[simp] theorem Blk.addInst_cache (b : Blk) (o n : Nat) : (b.addInst o n).cache = b.cache := rfl
@[simp] theorem Blk.addInst_issueCycle (b : Blk) (o n : Nat) : (b.addInst o n).issueCycle = b.issueCycle := rfl
@[simp] theorem Blk.addInst_issueCount (b : Blk) (o n : Nat) : (b.addInst o n).issueCount = b.issueCount := rfl
@[simp] theorem Blk.addInst_bells (b : Blk) (o n : Nat) : (b.addInst o n).bells = b.bells := rfl
@[simp] theorem Blk.addInst_bellAt (b : Blk) (o n : Nat) : (b.addInst o n).bellAt = b.bellAt := rfl
@[simp] theorem Blk.addInst_heldBells (b : Blk) (o n : Nat) : (b.addInst o n).heldBells = b.heldBells := rfl
@[simp] theorem Blk.addInst_ctxOp (b : Blk) (o n : Nat) : (b.addInst o n).ctxOp = b.ctxOp := rfl
@[simp] theorem Blk.addInst_ephOp (b : Blk) (o n : Nat) : (b.addInst o n).ephOp = b.ephOp := rfl
@[simp] theorem Blk.addInst_mem (b : Blk) (o n : Nat) : (b.addInst o n).mem = b.mem := rfl
@[simp] theorem Blk.addInst_refresh (b : Blk) (o n : Nat) : (b.addInst o n).refresh = b.refresh := rfl
@[simp] theorem Blk.addInst_gateStore (b : Blk) (o n : Nat) : (b.addInst o n).gateStore = b.gateStore := rfl
@[simp] theorem Blk.addInst_disps (b : Blk) (o n : Nat) : (b.addInst o n).disps = b.disps := rfl
@[simp] theorem Blk.addInst_ephs (b : Blk) (o n : Nat) : (b.addInst o n).ephs = b.ephs := rfl
@[simp] theorem Blk.addInst_exch (b : Blk) (o n : Nat) : (b.addInst o n).exch = b.exch := rfl
@[simp] theorem Blk.addInst_folds (b : Blk) (o n : Nat) : (b.addInst o n).folds = b.folds := rfl
@[simp] theorem Blk.addInst_comets (b : Blk) (o n : Nat) : (b.addInst o n).comets = b.comets := rfl
@[simp] theorem Blk.addInst_links (b : Blk) (o n : Nat) : (b.addInst o n).links = b.links := rfl
@[simp] theorem Blk.addInst_edges (b : Blk) (o n : Nat) : (b.addInst o n).edges = b.edges := rfl
@[simp] theorem Blk.addInst_health (b : Blk) (o n : Nat) : (b.addInst o n).health = b.health := rfl
@[simp] theorem Blk.addInst_burnt (b : Blk) (o n : Nat) : (b.addInst o n).burnt = b.burnt := rfl
@[simp] theorem Blk.addInst_burns (b : Blk) (o n : Nat) : (b.addInst o n).burns = b.burns := rfl
@[simp] theorem Blk.addInst_snaps (b : Blk) (o n : Nat) : (b.addInst o n).snaps = b.snaps := rfl
@[simp] theorem Blk.addInst_evts (b : Blk) (o n : Nat) : (b.addInst o n).evts = b.evts := rfl
@[simp] theorem Blk.addInst_posted (b : Blk) (o n : Nat) : (b.addInst o n).posted = b.posted := rfl
@[simp] theorem Blk.addInst_tels (b : Blk) (o n : Nat) : (b.addInst o n).tels = b.tels := rfl
@[simp] theorem Blk.addInst_out (b : Blk) (o n : Nat) : (b.addInst o n).out = b.out := rfl
@[simp] theorem Blk.addInst_free (b : Blk) (o n : Nat) : (b.addInst o n).free = b.free := rfl
@[simp] theorem Blk.addCtx_cycle (b : Blk) (c : CtxId) (i n : Nat) : (b.addCtx c i n).cycle = b.cycle := rfl
@[simp] theorem Blk.addCtx_bubble (b : Blk) (c : CtxId) (i n : Nat) : (b.addCtx c i n).bubble = b.bubble := rfl
@[simp] theorem Blk.addCtx_stretchAt (b : Blk) (c : CtxId) (i n : Nat) : (b.addCtx c i n).stretchAt = b.stretchAt := rfl
@[simp] theorem Blk.addCtx_shorts (b : Blk) (c : CtxId) (i n : Nat) : (b.addCtx c i n).shorts = b.shorts := rfl
@[simp] theorem Blk.addCtx_start (b : Blk) (c : CtxId) (i n : Nat) : (b.addCtx c i n).start = b.start := rfl
@[simp] theorem Blk.addCtx_regs (b : Blk) (c : CtxId) (i n : Nat) : (b.addCtx c i n).regs = b.regs := rfl
@[simp] theorem Blk.addCtx_latch (b : Blk) (c : CtxId) (i n : Nat) : (b.addCtx c i n).latch = b.latch := rfl
@[simp] theorem Blk.addCtx_slots (b : Blk) (c : CtxId) (i n : Nat) : (b.addCtx c i n).slots = b.slots := rfl
@[simp] theorem Blk.addCtx_flights (b : Blk) (c : CtxId) (i n : Nat) : (b.addCtx c i n).flights = b.flights := rfl
@[simp] theorem Blk.addCtx_cache (b : Blk) (c : CtxId) (i n : Nat) : (b.addCtx c i n).cache = b.cache := rfl
@[simp] theorem Blk.addCtx_issueCycle (b : Blk) (c : CtxId) (i n : Nat) : (b.addCtx c i n).issueCycle = b.issueCycle := rfl
@[simp] theorem Blk.addCtx_issueCount (b : Blk) (c : CtxId) (i n : Nat) : (b.addCtx c i n).issueCount = b.issueCount := rfl
@[simp] theorem Blk.addCtx_bells (b : Blk) (c : CtxId) (i n : Nat) : (b.addCtx c i n).bells = b.bells := rfl
@[simp] theorem Blk.addCtx_bellAt (b : Blk) (c : CtxId) (i n : Nat) : (b.addCtx c i n).bellAt = b.bellAt := rfl
@[simp] theorem Blk.addCtx_heldBells (b : Blk) (c : CtxId) (i n : Nat) : (b.addCtx c i n).heldBells = b.heldBells := rfl
@[simp] theorem Blk.addCtx_ctxOp (b : Blk) (c : CtxId) (i n : Nat) : (b.addCtx c i n).ctxOp = b.ctxOp := rfl
@[simp] theorem Blk.addCtx_ephOp (b : Blk) (c : CtxId) (i n : Nat) : (b.addCtx c i n).ephOp = b.ephOp := rfl
@[simp] theorem Blk.addCtx_mem (b : Blk) (c : CtxId) (i n : Nat) : (b.addCtx c i n).mem = b.mem := rfl
@[simp] theorem Blk.addCtx_refresh (b : Blk) (c : CtxId) (i n : Nat) : (b.addCtx c i n).refresh = b.refresh := rfl
@[simp] theorem Blk.addCtx_gateStore (b : Blk) (c : CtxId) (i n : Nat) : (b.addCtx c i n).gateStore = b.gateStore := rfl
@[simp] theorem Blk.addCtx_disps (b : Blk) (c : CtxId) (i n : Nat) : (b.addCtx c i n).disps = b.disps := rfl
@[simp] theorem Blk.addCtx_ephs (b : Blk) (c : CtxId) (i n : Nat) : (b.addCtx c i n).ephs = b.ephs := rfl
@[simp] theorem Blk.addCtx_exch (b : Blk) (c : CtxId) (i n : Nat) : (b.addCtx c i n).exch = b.exch := rfl
@[simp] theorem Blk.addCtx_folds (b : Blk) (c : CtxId) (i n : Nat) : (b.addCtx c i n).folds = b.folds := rfl
@[simp] theorem Blk.addCtx_comets (b : Blk) (c : CtxId) (i n : Nat) : (b.addCtx c i n).comets = b.comets := rfl
@[simp] theorem Blk.addCtx_links (b : Blk) (c : CtxId) (i n : Nat) : (b.addCtx c i n).links = b.links := rfl
@[simp] theorem Blk.addCtx_edges (b : Blk) (c : CtxId) (i n : Nat) : (b.addCtx c i n).edges = b.edges := rfl
@[simp] theorem Blk.addCtx_health (b : Blk) (c : CtxId) (i n : Nat) : (b.addCtx c i n).health = b.health := rfl
@[simp] theorem Blk.addCtx_burnt (b : Blk) (c : CtxId) (i n : Nat) : (b.addCtx c i n).burnt = b.burnt := rfl
@[simp] theorem Blk.addCtx_burns (b : Blk) (c : CtxId) (i n : Nat) : (b.addCtx c i n).burns = b.burns := rfl
@[simp] theorem Blk.addCtx_snaps (b : Blk) (c : CtxId) (i n : Nat) : (b.addCtx c i n).snaps = b.snaps := rfl
@[simp] theorem Blk.addCtx_evts (b : Blk) (c : CtxId) (i n : Nat) : (b.addCtx c i n).evts = b.evts := rfl
@[simp] theorem Blk.addCtx_posted (b : Blk) (c : CtxId) (i n : Nat) : (b.addCtx c i n).posted = b.posted := rfl
@[simp] theorem Blk.addCtx_tels (b : Blk) (c : CtxId) (i n : Nat) : (b.addCtx c i n).tels = b.tels := rfl
@[simp] theorem Blk.addCtx_out (b : Blk) (c : CtxId) (i n : Nat) : (b.addCtx c i n).out = b.out := rfl
@[simp] theorem Blk.addCtx_free (b : Blk) (c : CtxId) (i n : Nat) : (b.addCtx c i n).free = b.free := rfl
@[simp] theorem Blk.charge_cycle (b : Blk) (p : Site) (n : Nat) : (b.charge p n).cycle = b.cycle := rfl
@[simp] theorem Blk.charge_bubble (b : Blk) (p : Site) (n : Nat) : (b.charge p n).bubble = b.bubble := rfl
@[simp] theorem Blk.charge_stretchAt (b : Blk) (p : Site) (n : Nat) : (b.charge p n).stretchAt = b.stretchAt := rfl
@[simp] theorem Blk.charge_shorts (b : Blk) (p : Site) (n : Nat) : (b.charge p n).shorts = b.shorts := rfl
@[simp] theorem Blk.charge_start (b : Blk) (p : Site) (n : Nat) : (b.charge p n).start = b.start := rfl
@[simp] theorem Blk.charge_regs (b : Blk) (p : Site) (n : Nat) : (b.charge p n).regs = b.regs := rfl
@[simp] theorem Blk.charge_latch (b : Blk) (p : Site) (n : Nat) : (b.charge p n).latch = b.latch := rfl
@[simp] theorem Blk.charge_flights (b : Blk) (p : Site) (n : Nat) : (b.charge p n).flights = b.flights := rfl
@[simp] theorem Blk.charge_cache (b : Blk) (p : Site) (n : Nat) : (b.charge p n).cache = b.cache := rfl
@[simp] theorem Blk.charge_issueCycle (b : Blk) (p : Site) (n : Nat) : (b.charge p n).issueCycle = b.issueCycle := rfl
@[simp] theorem Blk.charge_issueCount (b : Blk) (p : Site) (n : Nat) : (b.charge p n).issueCount = b.issueCount := rfl
@[simp] theorem Blk.charge_bells (b : Blk) (p : Site) (n : Nat) : (b.charge p n).bells = b.bells := rfl
@[simp] theorem Blk.charge_bellAt (b : Blk) (p : Site) (n : Nat) : (b.charge p n).bellAt = b.bellAt := rfl
@[simp] theorem Blk.charge_heldBells (b : Blk) (p : Site) (n : Nat) : (b.charge p n).heldBells = b.heldBells := rfl
@[simp] theorem Blk.charge_ctxOp (b : Blk) (p : Site) (n : Nat) : (b.charge p n).ctxOp = b.ctxOp := rfl
@[simp] theorem Blk.charge_ephOp (b : Blk) (p : Site) (n : Nat) : (b.charge p n).ephOp = b.ephOp := rfl
@[simp] theorem Blk.charge_mem (b : Blk) (p : Site) (n : Nat) : (b.charge p n).mem = b.mem := rfl
@[simp] theorem Blk.charge_refresh (b : Blk) (p : Site) (n : Nat) : (b.charge p n).refresh = b.refresh := rfl
@[simp] theorem Blk.charge_gateStore (b : Blk) (p : Site) (n : Nat) : (b.charge p n).gateStore = b.gateStore := rfl
@[simp] theorem Blk.charge_disps (b : Blk) (p : Site) (n : Nat) : (b.charge p n).disps = b.disps := rfl
@[simp] theorem Blk.charge_ephs (b : Blk) (p : Site) (n : Nat) : (b.charge p n).ephs = b.ephs := rfl
@[simp] theorem Blk.charge_exch (b : Blk) (p : Site) (n : Nat) : (b.charge p n).exch = b.exch := rfl
@[simp] theorem Blk.charge_folds (b : Blk) (p : Site) (n : Nat) : (b.charge p n).folds = b.folds := rfl
@[simp] theorem Blk.charge_comets (b : Blk) (p : Site) (n : Nat) : (b.charge p n).comets = b.comets := rfl
@[simp] theorem Blk.charge_links (b : Blk) (p : Site) (n : Nat) : (b.charge p n).links = b.links := rfl
@[simp] theorem Blk.charge_edges (b : Blk) (p : Site) (n : Nat) : (b.charge p n).edges = b.edges := rfl
@[simp] theorem Blk.charge_health (b : Blk) (p : Site) (n : Nat) : (b.charge p n).health = b.health := rfl
@[simp] theorem Blk.charge_counters (b : Blk) (p : Site) (n : Nat) : (b.charge p n).counters = b.counters := rfl
@[simp] theorem Blk.charge_burnt (b : Blk) (p : Site) (n : Nat) : (b.charge p n).burnt = b.burnt := rfl
@[simp] theorem Blk.charge_burns (b : Blk) (p : Site) (n : Nat) : (b.charge p n).burns = b.burns := rfl
@[simp] theorem Blk.charge_snaps (b : Blk) (p : Site) (n : Nat) : (b.charge p n).snaps = b.snaps := rfl
@[simp] theorem Blk.charge_evts (b : Blk) (p : Site) (n : Nat) : (b.charge p n).evts = b.evts := rfl
@[simp] theorem Blk.charge_posted (b : Blk) (p : Site) (n : Nat) : (b.charge p n).posted = b.posted := rfl
@[simp] theorem Blk.charge_tels (b : Blk) (p : Site) (n : Nat) : (b.charge p n).tels = b.tels := rfl
@[simp] theorem Blk.charge_out (b : Blk) (p : Site) (n : Nat) : (b.charge p n).out = b.out := rfl
@[simp] theorem Blk.charge_free (b : Blk) (p : Site) (n : Nat) : (b.charge p n).free = b.free := rfl
@[simp] theorem Blk.account_cycle (b : Blk) (c : CtxId) (l x : Nat) : (b.account c l x).cycle = b.cycle := rfl
@[simp] theorem Blk.account_bubble (b : Blk) (c : CtxId) (l x : Nat) : (b.account c l x).bubble = b.bubble := rfl
@[simp] theorem Blk.account_stretchAt (b : Blk) (c : CtxId) (l x : Nat) : (b.account c l x).stretchAt = b.stretchAt := rfl
@[simp] theorem Blk.account_shorts (b : Blk) (c : CtxId) (l x : Nat) : (b.account c l x).shorts = b.shorts := rfl
@[simp] theorem Blk.account_start (b : Blk) (c : CtxId) (l x : Nat) : (b.account c l x).start = b.start := rfl
@[simp] theorem Blk.account_regs (b : Blk) (c : CtxId) (l x : Nat) : (b.account c l x).regs = b.regs := rfl
@[simp] theorem Blk.account_latch (b : Blk) (c : CtxId) (l x : Nat) : (b.account c l x).latch = b.latch := rfl
@[simp] theorem Blk.account_slots (b : Blk) (c : CtxId) (l x : Nat) : (b.account c l x).slots = b.slots := rfl
@[simp] theorem Blk.account_flights (b : Blk) (c : CtxId) (l x : Nat) : (b.account c l x).flights = b.flights := rfl
@[simp] theorem Blk.account_cache (b : Blk) (c : CtxId) (l x : Nat) : (b.account c l x).cache = b.cache := rfl
@[simp] theorem Blk.account_issueCycle (b : Blk) (c : CtxId) (l x : Nat) : (b.account c l x).issueCycle = b.issueCycle := rfl
@[simp] theorem Blk.account_issueCount (b : Blk) (c : CtxId) (l x : Nat) : (b.account c l x).issueCount = b.issueCount := rfl
@[simp] theorem Blk.account_bells (b : Blk) (c : CtxId) (l x : Nat) : (b.account c l x).bells = b.bells := rfl
@[simp] theorem Blk.account_bellAt (b : Blk) (c : CtxId) (l x : Nat) : (b.account c l x).bellAt = b.bellAt := rfl
@[simp] theorem Blk.account_heldBells (b : Blk) (c : CtxId) (l x : Nat) : (b.account c l x).heldBells = b.heldBells := rfl
@[simp] theorem Blk.account_ctxOp (b : Blk) (c : CtxId) (l x : Nat) : (b.account c l x).ctxOp = b.ctxOp := rfl
@[simp] theorem Blk.account_ephOp (b : Blk) (c : CtxId) (l x : Nat) : (b.account c l x).ephOp = b.ephOp := rfl
@[simp] theorem Blk.account_mem (b : Blk) (c : CtxId) (l x : Nat) : (b.account c l x).mem = b.mem := rfl
@[simp] theorem Blk.account_refresh (b : Blk) (c : CtxId) (l x : Nat) : (b.account c l x).refresh = b.refresh := rfl
@[simp] theorem Blk.account_gateStore (b : Blk) (c : CtxId) (l x : Nat) : (b.account c l x).gateStore = b.gateStore := rfl
@[simp] theorem Blk.account_disps (b : Blk) (c : CtxId) (l x : Nat) : (b.account c l x).disps = b.disps := rfl
@[simp] theorem Blk.account_ephs (b : Blk) (c : CtxId) (l x : Nat) : (b.account c l x).ephs = b.ephs := rfl
@[simp] theorem Blk.account_exch (b : Blk) (c : CtxId) (l x : Nat) : (b.account c l x).exch = b.exch := rfl
@[simp] theorem Blk.account_folds (b : Blk) (c : CtxId) (l x : Nat) : (b.account c l x).folds = b.folds := rfl
@[simp] theorem Blk.account_comets (b : Blk) (c : CtxId) (l x : Nat) : (b.account c l x).comets = b.comets := rfl
@[simp] theorem Blk.account_links (b : Blk) (c : CtxId) (l x : Nat) : (b.account c l x).links = b.links := rfl
@[simp] theorem Blk.account_edges (b : Blk) (c : CtxId) (l x : Nat) : (b.account c l x).edges = b.edges := rfl
@[simp] theorem Blk.account_health (b : Blk) (c : CtxId) (l x : Nat) : (b.account c l x).health = b.health := rfl
@[simp] theorem Blk.account_burnt (b : Blk) (c : CtxId) (l x : Nat) : (b.account c l x).burnt = b.burnt := rfl
@[simp] theorem Blk.account_burns (b : Blk) (c : CtxId) (l x : Nat) : (b.account c l x).burns = b.burns := rfl
@[simp] theorem Blk.account_snaps (b : Blk) (c : CtxId) (l x : Nat) : (b.account c l x).snaps = b.snaps := rfl
@[simp] theorem Blk.account_evts (b : Blk) (c : CtxId) (l x : Nat) : (b.account c l x).evts = b.evts := rfl
@[simp] theorem Blk.account_posted (b : Blk) (c : CtxId) (l x : Nat) : (b.account c l x).posted = b.posted := rfl
@[simp] theorem Blk.account_tels (b : Blk) (c : CtxId) (l x : Nat) : (b.account c l x).tels = b.tels := rfl
@[simp] theorem Blk.account_out (b : Blk) (c : CtxId) (l x : Nat) : (b.account c l x).out = b.out := rfl
@[simp] theorem Blk.account_free (b : Blk) (c : CtxId) (l x : Nat) : (b.account c l x).free = b.free := rfl
@[simp] theorem Blk.takeSlot_cycle (b : Blk) (p : Site) (n : Nat) : (b.takeSlot p n).cycle = b.cycle := rfl
@[simp] theorem Blk.takeSlot_bubble (b : Blk) (p : Site) (n : Nat) : (b.takeSlot p n).bubble = b.bubble := rfl
@[simp] theorem Blk.takeSlot_stretchAt (b : Blk) (p : Site) (n : Nat) : (b.takeSlot p n).stretchAt = b.stretchAt := rfl
@[simp] theorem Blk.takeSlot_shorts (b : Blk) (p : Site) (n : Nat) : (b.takeSlot p n).shorts = b.shorts := rfl
@[simp] theorem Blk.takeSlot_start (b : Blk) (p : Site) (n : Nat) : (b.takeSlot p n).start = b.start := rfl
@[simp] theorem Blk.takeSlot_regs (b : Blk) (p : Site) (n : Nat) : (b.takeSlot p n).regs = b.regs := rfl
@[simp] theorem Blk.takeSlot_latch (b : Blk) (p : Site) (n : Nat) : (b.takeSlot p n).latch = b.latch := rfl
@[simp] theorem Blk.takeSlot_slots (b : Blk) (p : Site) (n : Nat) : (b.takeSlot p n).slots = b.slots := rfl
@[simp] theorem Blk.takeSlot_flights (b : Blk) (p : Site) (n : Nat) : (b.takeSlot p n).flights = b.flights := rfl
@[simp] theorem Blk.takeSlot_cache (b : Blk) (p : Site) (n : Nat) : (b.takeSlot p n).cache = b.cache := rfl
@[simp] theorem Blk.takeSlot_bells (b : Blk) (p : Site) (n : Nat) : (b.takeSlot p n).bells = b.bells := rfl
@[simp] theorem Blk.takeSlot_bellAt (b : Blk) (p : Site) (n : Nat) : (b.takeSlot p n).bellAt = b.bellAt := rfl
@[simp] theorem Blk.takeSlot_heldBells (b : Blk) (p : Site) (n : Nat) : (b.takeSlot p n).heldBells = b.heldBells := rfl
@[simp] theorem Blk.takeSlot_ctxOp (b : Blk) (p : Site) (n : Nat) : (b.takeSlot p n).ctxOp = b.ctxOp := rfl
@[simp] theorem Blk.takeSlot_ephOp (b : Blk) (p : Site) (n : Nat) : (b.takeSlot p n).ephOp = b.ephOp := rfl
@[simp] theorem Blk.takeSlot_mem (b : Blk) (p : Site) (n : Nat) : (b.takeSlot p n).mem = b.mem := rfl
@[simp] theorem Blk.takeSlot_refresh (b : Blk) (p : Site) (n : Nat) : (b.takeSlot p n).refresh = b.refresh := rfl
@[simp] theorem Blk.takeSlot_gateStore (b : Blk) (p : Site) (n : Nat) : (b.takeSlot p n).gateStore = b.gateStore := rfl
@[simp] theorem Blk.takeSlot_disps (b : Blk) (p : Site) (n : Nat) : (b.takeSlot p n).disps = b.disps := rfl
@[simp] theorem Blk.takeSlot_ephs (b : Blk) (p : Site) (n : Nat) : (b.takeSlot p n).ephs = b.ephs := rfl
@[simp] theorem Blk.takeSlot_exch (b : Blk) (p : Site) (n : Nat) : (b.takeSlot p n).exch = b.exch := rfl
@[simp] theorem Blk.takeSlot_folds (b : Blk) (p : Site) (n : Nat) : (b.takeSlot p n).folds = b.folds := rfl
@[simp] theorem Blk.takeSlot_comets (b : Blk) (p : Site) (n : Nat) : (b.takeSlot p n).comets = b.comets := rfl
@[simp] theorem Blk.takeSlot_links (b : Blk) (p : Site) (n : Nat) : (b.takeSlot p n).links = b.links := rfl
@[simp] theorem Blk.takeSlot_edges (b : Blk) (p : Site) (n : Nat) : (b.takeSlot p n).edges = b.edges := rfl
@[simp] theorem Blk.takeSlot_health (b : Blk) (p : Site) (n : Nat) : (b.takeSlot p n).health = b.health := rfl
@[simp] theorem Blk.takeSlot_counters (b : Blk) (p : Site) (n : Nat) : (b.takeSlot p n).counters = b.counters := rfl
@[simp] theorem Blk.takeSlot_burnt (b : Blk) (p : Site) (n : Nat) : (b.takeSlot p n).burnt = b.burnt := rfl
@[simp] theorem Blk.takeSlot_burns (b : Blk) (p : Site) (n : Nat) : (b.takeSlot p n).burns = b.burns := rfl
@[simp] theorem Blk.takeSlot_snaps (b : Blk) (p : Site) (n : Nat) : (b.takeSlot p n).snaps = b.snaps := rfl
@[simp] theorem Blk.takeSlot_evts (b : Blk) (p : Site) (n : Nat) : (b.takeSlot p n).evts = b.evts := rfl
@[simp] theorem Blk.takeSlot_posted (b : Blk) (p : Site) (n : Nat) : (b.takeSlot p n).posted = b.posted := rfl
@[simp] theorem Blk.takeSlot_tels (b : Blk) (p : Site) (n : Nat) : (b.takeSlot p n).tels = b.tels := rfl
@[simp] theorem Blk.takeSlot_out (b : Blk) (p : Site) (n : Nat) : (b.takeSlot p n).out = b.out := rfl
@[simp] theorem Blk.takeSlot_free (b : Blk) (p : Site) (n : Nat) : (b.takeSlot p n).free = b.free := rfl
@[simp] theorem Blk.setCtx_slot (b : Blk) (c : CtxId) (x : Ctx) (m : PartId) : (b.setCtx c x).slot m = b.slot m := rfl
@[simp] theorem Blk.setCtx_link (b : Blk) (c : CtxId) (x : Ctx) (j : BitVec 4) : (b.setCtx c x).link j = b.link j := rfl
@[simp] theorem Blk.setCtx_table (b : Blk) (c : CtxId) (x : Ctx) (ly : Layer) (kd : BitVec 2) : (b.setCtx c x).table ly kd = b.table ly kd := rfl
@[simp] theorem Blk.setCtx_reg (b : Blk) (c : CtxId) (x : Ctx) (off ix : Nat) : (b.setCtx c x).reg off ix = b.reg off ix := rfl
@[simp] theorem Blk.modCtx_slot (b : Blk) (c : CtxId) (f : Ctx → Ctx) (m : PartId) : (b.modCtx c f).slot m = b.slot m := rfl
@[simp] theorem Blk.modCtx_link (b : Blk) (c : CtxId) (f : Ctx → Ctx) (j : BitVec 4) : (b.modCtx c f).link j = b.link j := rfl
@[simp] theorem Blk.modCtx_table (b : Blk) (c : CtxId) (f : Ctx → Ctx) (ly : Layer) (kd : BitVec 2) : (b.modCtx c f).table ly kd = b.table ly kd := rfl
@[simp] theorem Blk.modCtx_reg (b : Blk) (c : CtxId) (f : Ctx → Ctx) (off ix : Nat) : (b.modCtx c f).reg off ix = b.reg off ix := rfl
@[simp] theorem Blk.modQue_slot (b : Blk) (p : Site) (f : Queue → Queue) (m : PartId) : (b.modQue p f).slot m = b.slot m := rfl
@[simp] theorem Blk.modQue_link (b : Blk) (p : Site) (f : Queue → Queue) (j : BitVec 4) : (b.modQue p f).link j = b.link j := rfl
@[simp] theorem Blk.modQue_table (b : Blk) (p : Site) (f : Queue → Queue) (ly : Layer) (kd : BitVec 2) : (b.modQue p f).table ly kd = b.table ly kd := rfl
@[simp] theorem Blk.modQue_reg (b : Blk) (p : Site) (f : Queue → Queue) (off ix : Nat) : (b.modQue p f).reg off ix = b.reg off ix := rfl
@[simp] theorem Blk.setSlot_ctx (b : Blk) (n : PartId) (x : Slot) (d : CtxId) : (b.setSlot n x).ctx d = b.ctx d := rfl
@[simp] theorem Blk.setSlot_que (b : Blk) (n : PartId) (x : Slot) (r : Site) : (b.setSlot n x).que r = b.que r := rfl
@[simp] theorem Blk.setSlot_link (b : Blk) (n : PartId) (x : Slot) (j : BitVec 4) : (b.setSlot n x).link j = b.link j := rfl
@[simp] theorem Blk.setSlot_table (b : Blk) (n : PartId) (x : Slot) (ly : Layer) (kd : BitVec 2) : (b.setSlot n x).table ly kd = b.table ly kd := rfl
@[simp] theorem Blk.setSlot_reg (b : Blk) (n : PartId) (x : Slot) (off ix : Nat) : (b.setSlot n x).reg off ix = b.reg off ix := rfl
@[simp] theorem Blk.setLink_ctx (b : Blk) (i : BitVec 4) (l : Link) (d : CtxId) : (b.setLink i l).ctx d = b.ctx d := rfl
@[simp] theorem Blk.setLink_que (b : Blk) (i : BitVec 4) (l : Link) (r : Site) : (b.setLink i l).que r = b.que r := rfl
@[simp] theorem Blk.setLink_slot (b : Blk) (i : BitVec 4) (l : Link) (m : PartId) : (b.setLink i l).slot m = b.slot m := rfl
@[simp] theorem Blk.setLink_table (b : Blk) (i : BitVec 4) (l : Link) (ly : Layer) (kd : BitVec 2) : (b.setLink i l).table ly kd = b.table ly kd := rfl
@[simp] theorem Blk.setLink_reg (b : Blk) (i : BitVec 4) (l : Link) (off ix : Nat) : (b.setLink i l).reg off ix = b.reg off ix := rfl
@[simp] theorem Blk.setTable_ctx (b : Blk) (l : Layer) (k : BitVec 2) (x : Table) (d : CtxId) : (b.setTable l k x).ctx d = b.ctx d := rfl
@[simp] theorem Blk.setTable_que (b : Blk) (l : Layer) (k : BitVec 2) (x : Table) (r : Site) : (b.setTable l k x).que r = b.que r := rfl
@[simp] theorem Blk.setTable_slot (b : Blk) (l : Layer) (k : BitVec 2) (x : Table) (m : PartId) : (b.setTable l k x).slot m = b.slot m := rfl
@[simp] theorem Blk.setTable_link (b : Blk) (l : Layer) (k : BitVec 2) (x : Table) (j : BitVec 4) : (b.setTable l k x).link j = b.link j := rfl
@[simp] theorem Blk.setTable_reg (b : Blk) (l : Layer) (k : BitVec 2) (x : Table) (off ix : Nat) : (b.setTable l k x).reg off ix = b.reg off ix := rfl
@[simp] theorem Blk.setReg_ctx (b : Blk) (o i : Nat) (v : Word) (d : CtxId) : (b.setReg o i v).ctx d = b.ctx d := rfl
@[simp] theorem Blk.setReg_que (b : Blk) (o i : Nat) (v : Word) (r : Site) : (b.setReg o i v).que r = b.que r := rfl
@[simp] theorem Blk.setReg_slot (b : Blk) (o i : Nat) (v : Word) (m : PartId) : (b.setReg o i v).slot m = b.slot m := rfl
@[simp] theorem Blk.setReg_link (b : Blk) (o i : Nat) (v : Word) (j : BitVec 4) : (b.setReg o i v).link j = b.link j := rfl
@[simp] theorem Blk.setReg_table (b : Blk) (o i : Nat) (v : Word) (ly : Layer) (kd : BitVec 2) : (b.setReg o i v).table ly kd = b.table ly kd := rfl
@[simp] theorem Blk.setEdge_ctx (b : Blk) (n : Nat) (e : EdgeSt) (d : CtxId) : (b.setEdge n e).ctx d = b.ctx d := rfl
@[simp] theorem Blk.setEdge_que (b : Blk) (n : Nat) (e : EdgeSt) (r : Site) : (b.setEdge n e).que r = b.que r := rfl
@[simp] theorem Blk.setEdge_slot (b : Blk) (n : Nat) (e : EdgeSt) (m : PartId) : (b.setEdge n e).slot m = b.slot m := rfl
@[simp] theorem Blk.setEdge_link (b : Blk) (n : Nat) (e : EdgeSt) (j : BitVec 4) : (b.setEdge n e).link j = b.link j := rfl
@[simp] theorem Blk.setEdge_table (b : Blk) (n : Nat) (e : EdgeSt) (ly : Layer) (kd : BitVec 2) : (b.setEdge n e).table ly kd = b.table ly kd := rfl
@[simp] theorem Blk.setEdge_reg (b : Blk) (n : Nat) (e : EdgeSt) (off ix : Nat) : (b.setEdge n e).reg off ix = b.reg off ix := rfl
@[simp] theorem Blk.send_ctx (b : Blk) (o : Out) (d : CtxId) : (b.send o).ctx d = b.ctx d := rfl
@[simp] theorem Blk.send_que (b : Blk) (o : Out) (r : Site) : (b.send o).que r = b.que r := rfl
@[simp] theorem Blk.send_slot (b : Blk) (o : Out) (m : PartId) : (b.send o).slot m = b.slot m := rfl
@[simp] theorem Blk.send_link (b : Blk) (o : Out) (j : BitVec 4) : (b.send o).link j = b.link j := rfl
@[simp] theorem Blk.send_table (b : Blk) (o : Out) (ly : Layer) (kd : BitVec 2) : (b.send o).table ly kd = b.table ly kd := rfl
@[simp] theorem Blk.send_reg (b : Blk) (o : Out) (off ix : Nat) : (b.send o).reg off ix = b.reg off ix := rfl
@[simp] theorem Blk.draw_ctx (b : Blk) (d : CtxId) : (b.draw).ctx d = b.ctx d := rfl
@[simp] theorem Blk.draw_que (b : Blk) (r : Site) : (b.draw).que r = b.que r := rfl
@[simp] theorem Blk.draw_slot (b : Blk) (m : PartId) : (b.draw).slot m = b.slot m := rfl
@[simp] theorem Blk.draw_link (b : Blk) (j : BitVec 4) : (b.draw).link j = b.link j := rfl
@[simp] theorem Blk.draw_table (b : Blk) (ly : Layer) (kd : BitVec 2) : (b.draw).table ly kd = b.table ly kd := rfl
@[simp] theorem Blk.draw_reg (b : Blk) (off ix : Nat) : (b.draw).reg off ix = b.reg off ix := rfl
@[simp] theorem Blk.addInst_ctx (b : Blk) (o n : Nat) (d : CtxId) : (b.addInst o n).ctx d = b.ctx d := rfl
@[simp] theorem Blk.addInst_que (b : Blk) (o n : Nat) (r : Site) : (b.addInst o n).que r = b.que r := rfl
@[simp] theorem Blk.addInst_slot (b : Blk) (o n : Nat) (m : PartId) : (b.addInst o n).slot m = b.slot m := rfl
@[simp] theorem Blk.addInst_link (b : Blk) (o n : Nat) (j : BitVec 4) : (b.addInst o n).link j = b.link j := rfl
@[simp] theorem Blk.addInst_table (b : Blk) (o n : Nat) (ly : Layer) (kd : BitVec 2) : (b.addInst o n).table ly kd = b.table ly kd := rfl
@[simp] theorem Blk.addInst_reg (b : Blk) (o n : Nat) (off ix : Nat) : (b.addInst o n).reg off ix = b.reg off ix := rfl
@[simp] theorem Blk.addCtx_slot (b : Blk) (c : CtxId) (i n : Nat) (m : PartId) : (b.addCtx c i n).slot m = b.slot m := rfl
@[simp] theorem Blk.addCtx_link (b : Blk) (c : CtxId) (i n : Nat) (j : BitVec 4) : (b.addCtx c i n).link j = b.link j := rfl
@[simp] theorem Blk.addCtx_table (b : Blk) (c : CtxId) (i n : Nat) (ly : Layer) (kd : BitVec 2) : (b.addCtx c i n).table ly kd = b.table ly kd := rfl
@[simp] theorem Blk.addCtx_reg (b : Blk) (c : CtxId) (i n : Nat) (off ix : Nat) : (b.addCtx c i n).reg off ix = b.reg off ix := rfl
@[simp] theorem Blk.charge_link (b : Blk) (p : Site) (n : Nat) (j : BitVec 4) : (b.charge p n).link j = b.link j := rfl
@[simp] theorem Blk.charge_table (b : Blk) (p : Site) (n : Nat) (ly : Layer) (kd : BitVec 2) : (b.charge p n).table ly kd = b.table ly kd := rfl
@[simp] theorem Blk.charge_reg (b : Blk) (p : Site) (n : Nat) (off ix : Nat) : (b.charge p n).reg off ix = b.reg off ix := rfl
@[simp] theorem Blk.account_slot (b : Blk) (c : CtxId) (l x : Nat) (m : PartId) : (b.account c l x).slot m = b.slot m := rfl
@[simp] theorem Blk.account_link (b : Blk) (c : CtxId) (l x : Nat) (j : BitVec 4) : (b.account c l x).link j = b.link j := rfl
@[simp] theorem Blk.account_table (b : Blk) (c : CtxId) (l x : Nat) (ly : Layer) (kd : BitVec 2) : (b.account c l x).table ly kd = b.table ly kd := rfl
@[simp] theorem Blk.account_reg (b : Blk) (c : CtxId) (l x : Nat) (off ix : Nat) : (b.account c l x).reg off ix = b.reg off ix := rfl
@[simp] theorem Blk.takeSlot_slot (b : Blk) (p : Site) (n : Nat) (m : PartId) : (b.takeSlot p n).slot m = b.slot m := rfl
@[simp] theorem Blk.takeSlot_link (b : Blk) (p : Site) (n : Nat) (j : BitVec 4) : (b.takeSlot p n).link j = b.link j := rfl
@[simp] theorem Blk.takeSlot_table (b : Blk) (p : Site) (n : Nat) (ly : Layer) (kd : BitVec 2) : (b.takeSlot p n).table ly kd = b.table ly kd := rfl
@[simp] theorem Blk.takeSlot_reg (b : Blk) (p : Site) (n : Nat) (off ix : Nat) : (b.takeSlot p n).reg off ix = b.reg off ix := rfl
@[simp] theorem Aon.modGov_held (a : Aon) (f : Gov → Gov) : (a.modGov f).held = a.held := rfl
@[simp] theorem Aon.modGov_count (a : Aon) (f : Gov → Gov) : (a.modGov f).count = a.count := rfl
@[simp] theorem Aon.modGov_phase (a : Aon) (f : Gov → Gov) : (a.modGov f).phase = a.phase := rfl
@[simp] theorem Aon.modGov_regs (a : Aon) (f : Gov → Gov) : (a.modGov f).regs = a.regs := rfl
@[simp] theorem Aon.modGov_noise (a : Aon) (f : Gov → Gov) : (a.modGov f).noise = a.noise := rfl
@[simp] theorem Aon.modGov_vault (a : Aon) (f : Gov → Gov) : (a.modGov f).vault = a.vault := rfl
@[simp] theorem Aon.modGov_vaultOp (a : Aon) (f : Gov → Gov) : (a.modGov f).vaultOp = a.vaultOp := rfl
@[simp] theorem Aon.modGov_regBus (a : Aon) (f : Gov → Gov) : (a.modGov f).regBus = a.regBus := rfl
@[simp] theorem Aon.modVault_held (a : Aon) (f : Vault → Vault) : (a.modVault f).held = a.held := rfl
@[simp] theorem Aon.modVault_count (a : Aon) (f : Vault → Vault) : (a.modVault f).count = a.count := rfl
@[simp] theorem Aon.modVault_phase (a : Aon) (f : Vault → Vault) : (a.modVault f).phase = a.phase := rfl
@[simp] theorem Aon.modVault_regs (a : Aon) (f : Vault → Vault) : (a.modVault f).regs = a.regs := rfl
@[simp] theorem Aon.modVault_gov (a : Aon) (f : Vault → Vault) : (a.modVault f).gov = a.gov := rfl
@[simp] theorem Aon.modVault_noise (a : Aon) (f : Vault → Vault) : (a.modVault f).noise = a.noise := rfl
@[simp] theorem Aon.modVault_vaultOp (a : Aon) (f : Vault → Vault) : (a.modVault f).vaultOp = a.vaultOp := rfl
@[simp] theorem Aon.modVault_regBus (a : Aon) (f : Vault → Vault) : (a.modVault f).regBus = a.regBus := rfl
@[simp] theorem Aon.setReg_held (a : Aon) (o i : Nat) (v : Word) : (a.setReg o i v).held = a.held := rfl
@[simp] theorem Aon.setReg_count (a : Aon) (o i : Nat) (v : Word) : (a.setReg o i v).count = a.count := rfl
@[simp] theorem Aon.setReg_phase (a : Aon) (o i : Nat) (v : Word) : (a.setReg o i v).phase = a.phase := rfl
@[simp] theorem Aon.setReg_gov (a : Aon) (o i : Nat) (v : Word) : (a.setReg o i v).gov = a.gov := rfl
@[simp] theorem Aon.setReg_noise (a : Aon) (o i : Nat) (v : Word) : (a.setReg o i v).noise = a.noise := rfl
@[simp] theorem Aon.setReg_vault (a : Aon) (o i : Nat) (v : Word) : (a.setReg o i v).vault = a.vault := rfl
@[simp] theorem Aon.setReg_vaultOp (a : Aon) (o i : Nat) (v : Word) : (a.setReg o i v).vaultOp = a.vaultOp := rfl
@[simp] theorem Aon.setReg_regBus (a : Aon) (o i : Nat) (v : Word) : (a.setReg o i v).regBus = a.regBus := rfl

/-- A record posted enters the stream and what the management plane has to see; nothing else changes but the
overflow state of edge 60. -/
theorem Blk.post_frame (b : Blk) (r : Rec) :
    ∃ e d, b.post r = { b with posted := b.posted ++ [r], evts := e, edges := d } := by
  unfold Blk.post
  dsimp only
  split
  · exact ⟨_, _, rfl⟩
  · exact ⟨_, _, rfl⟩

end Machine
end Sys2Proof
end

