-- ==== Sys2Proof/Laws/Issue.lean ====
section
/-! SUPPORT. Laws/Issue: what an instruction that goes does, in one equation each. -/

namespace Sys2Proof.Machine
open Sys2Proof

theorem lowest_nil : lowest [] = none := rfl

theorem State.block_pending (s : State) (f : Aon → Blk → Blk) :
    ∃ t, s.block f = .next t ∧ t.pending = s.pending := ⟨_, rfl, rfl⟩

theorem Blk.arrive_clear {a : Aon} {b : Blk} {p : Site} {w : Quad} {g : Guard} {k : Cls} {bad : Bool}
    {regs : List Nat} {skip : Nat} {go : Blk → Blk} (h : b.clear a p g regs = true) (hb : bad = false) :
    b.arrive a p w g k bad regs skip go = go b := by
  simp only [Blk.clear, Bool.and_eq_true, Bool.not_eq_true'] at h
  obtain ⟨⟨⟨⟨⟨⟨h1, h2⟩, h3⟩, h4⟩, h5⟩, h6⟩, h7⟩ := h
  subst hb
  simp [Blk.arrive, h1, h2, h3, h4, h5, h6, h7]

/-- An instruction that completes as it issues and goes: its effect on the block once it is charged. -/
theorem Blk.issueQuick_goes {a : Aon} {b : Blk} {p : Site} {q : Quick} (h : b.quickGoes a p q = true) :
    b.issueQuick a p q =
      (q.now b (b.ctx p.ctx) (b.que p)).act (b.passNow p q.g q.k (q.now b (b.ctx p.ctx) (b.que p)).ledger) := by
  simp only [Blk.quickGoes, Bool.and_eq_true, Bool.not_eq_true', Bool.or_eq_true, List.isEmpty_iff, bne_iff_ne,
    beq_iff_eq] at h
  obtain ⟨⟨⟨⟨⟨h1, h2⟩, h3⟩, h4⟩, h5⟩, h6⟩ := h
  rw [Blk.issueQuick, Blk.issueNow, Blk.arrive_clear h1 rfl]
  rcases h3 with h3 | h3 <;>
    simp [h2, h3, h4, h5, h6, Blk.checked, operandFaults, lowest_nil] <;> simp_all [lowest_nil]

/-- An instruction that starts a command and goes: the command is launched with its plan. -/
theorem Blk.issueReq_goes {a : Aon} {b : Blk} {p : Site} {r : Req} (h : b.reqGoes a p r = true) :
    b.issueReq a p r = b.launch p r.w r.g r.k (b.planOf p r) := by
  simp only [Blk.reqGoes, Bool.and_eq_true, Bool.not_eq_true', Bool.or_eq_true, List.isEmpty_iff,
    beq_iff_eq] at h
  obtain ⟨⟨⟨⟨⟨⟨⟨h1, h2⟩, h3⟩, h4⟩, h5⟩, h6⟩, h7⟩, h8⟩ := h
  rw [Blk.issueReq, Blk.issueCmd, Blk.arrive_clear h1 rfl]
  have h2' : (if r.k = .control then none else b.ownedHeld (b.ctx p.ctx) r.regs) = none := by
    rcases h2 with h2 | h2 <;> simp_all
  simp only [Blk.planOf] at *
  simp [h2', h3, h4, h5, h6, h7, h8, Blk.checked, operandFaults, lowest_nil]

/-- The management plane seeing the records of a command leaves the block as it is but for the messages it sends. -/
theorem seePosted_blk (x : Aon × Blk) : ∃ o, (seePosted x).2 = { x.2 with posted := [], out := o } := by
  have key : ∀ (l : List Rec) (y : Aon × Blk), ∃ o, (l.foldl (fun y r => seeRec r y) y).2 = { y.2 with out := o } := by
    intro l
    induction l with
    | nil => exact fun y => ⟨y.2.out, rfl⟩
    | cons r rest ih =>
      intro y
      have h1 : ∃ o, (seeRec r y).2 = { y.2 with out := o } := by
        unfold seeRec
        obtain ⟨a, b⟩ := y
        dsimp only
        split
        · split <;> exact ⟨b.out, rfl⟩
        · split
          · exact ⟨b.out, rfl⟩
          · split
            · exact ⟨_, rfl⟩
            · exact ⟨b.out, rfl⟩
      obtain ⟨o1, h1⟩ := h1
      obtain ⟨o2, h2⟩ := ih (seeRec r y)
      exact ⟨o2, by rw [List.foldl_cons, h2, h1]⟩
  obtain ⟨o, h⟩ := key x.2.posted (x.1, { x.2 with posted := [] })
  exact ⟨o, h⟩

/-- The management plane seeing the records of a command changes the vault's log and events alone. -/
theorem seePosted_aon (x : Aon × Blk) : ∃ v, (seePosted x).1 = { x.1 with vault := v } := by
  have key : ∀ (l : List Rec) (y : Aon × Blk), ∃ v, (l.foldl (fun y r => seeRec r y) y).1 = { y.1 with vault := v } := by
    intro l
    induction l with
    | nil => exact fun y => ⟨y.1.vault, rfl⟩
    | cons r rest ih =>
      intro y
      have h1 : ∃ v, (seeRec r y).1 = { y.1 with vault := v } := by
        unfold seeRec
        obtain ⟨a, b⟩ := y
        dsimp only
        split
        · split
          · exact ⟨_, rfl⟩
          · exact ⟨a.vault, rfl⟩
        · split
          · exact ⟨a.vault, rfl⟩
          · split
            · exact ⟨a.vault, rfl⟩
            · exact ⟨_, rfl⟩
      obtain ⟨o1, h1⟩ := h1
      obtain ⟨o2, h2⟩ := ih (seeRec r y)
      exact ⟨o2, by rw [List.foldl_cons, h2, h1]⟩
  exact key x.2.posted (x.1, { x.2 with posted := [] })

/-- A block command that posts no record leaves the management plane as it was. -/
theorem State.block_quiet (s : State) (f : Aon → Blk → Blk) (h : (f s.aon s.blk).posted = []) :
    s.block f = .next { s with blk := f s.aon s.blk } := by
  unfold State.block seePosted
  simp only [h, List.foldl_nil]
  generalize f s.aon s.blk = b at *
  cases b
  simp_all

/-- A block command runs: what holds of its effect on the block holds after it. -/
theorem Runs.of_block {c : Instr} {s : State} {Q : State → Prop} {b' : Blk} (f : Aon → Blk → Blk)
    (hc : exec c s = s.block f) (hf : f s.aon s.blk = b') (hp : b'.posted = []) (hq : Q { s with blk := b' }) :
    Runs c s Q := by
  subst hf
  exact ⟨_, hc.trans (State.block_quiet s f hp), hq⟩

/-! ### What the parts of issuing leave alone -/

theorem Blk.sameBut_refl (b : Blk) : b.sameBut b := rfl

theorem Blk.sameBut_trans {b c d : Blk} (h : b.sameBut c) (h' : c.sameBut d) : b.sameBut d := by
  unfold Blk.sameBut at *
  rw [h', h]

theorem Blk.sameBut_posted {b c : Blk} (h : b.sameBut c) : c.posted = b.posted := by rw [h]
theorem Blk.sameBut_cycle {b c : Blk} (h : b.sameBut c) : c.cycle = b.cycle := by rw [h]

theorem Blk.modCtx_sameBut (b : Blk) (c : CtxId) (f : Ctx → Ctx) : b.sameBut (b.modCtx c f) := rfl
theorem Blk.modQue_sameBut (b : Blk) (p : Site) (f : Queue → Queue) : b.sameBut (b.modQue p f) := rfl
theorem Blk.charge_sameBut (b : Blk) (p : Site) (n : Nat) : b.sameBut (b.charge p n) := rfl
theorem Blk.account_sameBut (b : Blk) (c : CtxId) (l n : Nat) : b.sameBut (b.account c l n) := rfl
theorem Blk.takeSlot_sameBut (b : Blk) (p : Site) (n : Nat) : b.sameBut (b.takeSlot p n) := rfl

theorem Blk.addCtx_sameBut (b : Blk) (c : CtxId) (i n : Nat) : b.sameBut (b.addCtx c i n) := rfl
theorem Blk.setShorts_sameBut (b : Blk) (l : List (CtxId × Nat)) : b.sameBut { b with shorts := l } := rfl

theorem Blk.passTime_sameBut (b : Blk) (p : Site) (n : Nat) : b.sameBut (b.passTime p n) := by
  have h0 : ∀ s : Nat, b.sameBut ((b.charge p n).account p.ctx n (2 * n + s)) := fun s =>
    Blk.sameBut_trans (Blk.charge_sameBut b p n) (Blk.account_sameBut _ _ _ _)
  have h1 : ∀ s : Nat, b.sameBut (if s = 0 then (b.charge p n).account p.ctx n (2 * n + s)
      else ((b.charge p n).account p.ctx n (2 * n + s)).addCtx p.ctx Cnt.stretch s) := by
    intro s; split
    · exact h0 s
    · exact Blk.sameBut_trans (h0 s) (Blk.addCtx_sameBut _ _ _ _)
  exact Blk.sameBut_trans (Blk.sameBut_trans (h1 _) (Blk.modQue_sameBut _ _ _)) (Blk.setShorts_sameBut _ _)

theorem Blk.passNow_sameBut (b : Blk) (p : Site) (g : Guard) (k : Cls) (n : Nat) : b.sameBut (b.passNow p g k n) := by
  have h2 : b.sameBut (if n = 0 then b.passTime p n else (b.passTime p n).takeSlot p 1) := by
    split
    · exact Blk.passTime_sameBut _ _ _
    · exact Blk.sameBut_trans (Blk.passTime_sameBut _ _ _) (Blk.takeSlot_sameBut _ _ _)
  unfold Blk.passNow
  dsimp only
  split
  · exact Blk.sameBut_trans h2 (Blk.modQue_sameBut _ _ _)
  · exact Blk.sameBut_trans (Blk.sameBut_trans h2 (Blk.modQue_sameBut _ _ _)) (Blk.modCtx_sameBut _ _ _)

theorem Blk.passNow_posted (b : Blk) (p : Site) (g : Guard) (k : Cls) (n : Nat) :
    (b.passNow p g k n).posted = b.posted := Blk.sameBut_posted (Blk.passNow_sameBut b p g k n)

/-- Of a block, one context changed, and of it one queue, passes, counters and predicates. -/
def Blk.oneCtx (b c : Blk) (p : Site) : Prop :=
  (∀ d, d ≠ p.ctx → c.ctx d = b.ctx d) ∧ (b.ctx p.ctx).sameBut (c.ctx p.ctx) p.queue

theorem Ctx.sameBut_trans {x y z : Ctx} {q : BitVec 2} (h : x.sameBut y q) (h' : y.sameBut z q) : x.sameBut z q := by
  refine ⟨?_, fun r hr => (h'.2 r hr).trans (h.2 r hr)⟩
  rw [h'.1, h.1]

theorem Blk.oneCtx_trans {b c d : Blk} {p : Site} (h : b.oneCtx c p) (h' : c.oneCtx d p) : b.oneCtx d p :=
  ⟨fun e he => (h'.1 e he).trans (h.1 e he), Ctx.sameBut_trans h.2 h'.2⟩

theorem Blk.modCtx_oneCtx (b : Blk) (p : Site) (f : Ctx → Ctx) (h : (b.ctx p.ctx).sameBut (f (b.ctx p.ctx)) p.queue) :
    b.oneCtx (b.modCtx p.ctx f) p :=
  ⟨fun d hd => Blk.ctx_modCtx_other b f hd, by simpa using h⟩

theorem Blk.modQue_oneCtx (b : Blk) (p : Site) (f : Queue → Queue) : b.oneCtx (b.modQue p f) p :=
  Blk.modCtx_oneCtx b p _ ⟨rfl, fun _ hr => Ctx.que_setQue_other _ _ hr⟩

theorem Blk.addOwn_oneCtx (b : Blk) (p : Site) (i n : Nat) : b.oneCtx (b.addOwn p.ctx i n) p :=
  Blk.modCtx_oneCtx b p _ ⟨rfl, fun _ _ => rfl⟩

theorem Blk.addCtx_oneCtx (b : Blk) (p : Site) (i n : Nat) : b.oneCtx (b.addCtx p.ctx i n) p :=
  Blk.addOwn_oneCtx b p i n

theorem Blk.account_oneCtx (b : Blk) (p : Site) (l n : Nat) : b.oneCtx (b.account p.ctx l n) p :=
  Blk.oneCtx_trans (Blk.addCtx_oneCtx b p Cnt.ledger l) (Blk.addCtx_oneCtx _ p Cnt.actual n)

theorem Blk.charge_oneCtx (b : Blk) (p : Site) (n : Nat) : b.oneCtx (b.charge p n) p :=
  Blk.modCtx_oneCtx (b.setSlot (b.ctx p.ctx).part _) p _ ⟨rfl, fun _ hr => Bank.rd_wr_other _ _ hr⟩

theorem Blk.takeSlot_oneCtx (b : Blk) (p : Site) (n : Nat) : b.oneCtx (b.takeSlot p n) p :=
  have h := Blk.modQue_oneCtx b p fun u => { u with nextAt := b.cycle.toNat + 1 }
  ⟨h.1, h.2⟩

theorem Blk.setShorts_oneCtx (b : Blk) (p : Site) (l : List (CtxId × Nat)) : b.oneCtx { b with shorts := l } p :=
  ⟨fun _ _ => rfl, rfl, fun _ _ => rfl⟩

theorem Blk.passTime_oneCtx (b : Blk) (p : Site) (n : Nat) : b.oneCtx (b.passTime p n) p := by
  have h0 : ∀ s : Nat, b.oneCtx ((b.charge p n).account p.ctx n (2 * n + s)) p := fun s =>
    Blk.oneCtx_trans (Blk.charge_oneCtx b p n) (Blk.account_oneCtx _ p _ _)
  have h1 : ∀ s : Nat, b.oneCtx (if s = 0 then (b.charge p n).account p.ctx n (2 * n + s)
      else ((b.charge p n).account p.ctx n (2 * n + s)).addCtx p.ctx Cnt.stretch s) p := by
    intro s; split
    · exact h0 s
    · exact Blk.oneCtx_trans (h0 s) (Blk.addCtx_oneCtx _ p _ _)
  exact Blk.oneCtx_trans (Blk.oneCtx_trans (h1 _) (Blk.modQue_oneCtx _ p _)) (Blk.setShorts_oneCtx _ p _)

/-- Clearing a predicate at issue touches that predicate alone. -/
theorem Ctx.clearPred_preds (x : Ctx) (now : Nat) (n : BitVec 3) : x.clearPred now n = { x with preds := (x.clearPred now n).preds } := by
  unfold Ctx.clearPred Ctx.setPred
  split
  · rfl
  · split <;> rfl

theorem Blk.passNow_oneCtx (b : Blk) (p : Site) (g : Guard) (k : Cls) (n : Nat) : b.oneCtx (b.passNow p g k n) p := by
  have h2 : b.oneCtx (if n = 0 then b.passTime p n else (b.passTime p n).takeSlot p 1) p := by
    split
    · exact Blk.passTime_oneCtx _ _ _
    · exact Blk.oneCtx_trans (Blk.passTime_oneCtx _ _ _) (Blk.takeSlot_oneCtx _ _ _)
  unfold Blk.passNow
  dsimp only
  split
  · exact Blk.oneCtx_trans h2 (Blk.modQue_oneCtx _ _ _)
  · refine Blk.oneCtx_trans (Blk.oneCtx_trans h2 (Blk.modQue_oneCtx _ _ _)) (Blk.modCtx_oneCtx _ p _ ⟨?_, fun r hr => ?_⟩)
    · rw [Ctx.clearPred_preds]
    · rw [Ctx.clearPred_preds]; rfl

/-! ### The queue of an instruction that issued -/

@[simp] theorem Blk.charge_que (b : Blk) (p : Site) (n : Nat) :
    (b.charge p n).que p =
      { b.que p with loops := (b.que p).loops.map fun l => if l.test = 0 then l else { l with cap := BitVec.ofNat 32 (l.cap.toNat - n) } } := by
  simp [Blk.charge, Blk.que, Ctx.que]

@[simp] theorem Blk.addCtx_que (b : Blk) (c : CtxId) (i n : Nat) (r : Site) : (b.addCtx c i n).que r = b.que r := by
  by_cases h : r.ctx = c
  · subst h; simp [Blk.addCtx, Blk.addOwn, Blk.que]; rfl
  · simp [Blk.addCtx, Blk.addOwn, Blk.que, Blk.ctx_modCtx_other _ _ h]

@[simp] theorem Blk.account_que (b : Blk) (c : CtxId) (l n : Nat) (r : Site) : (b.account c l n).que r = b.que r := by
  simp [Blk.account]

@[simp] theorem Blk.takeSlot_que (b : Blk) (p : Site) (n : Nat) :
    (b.takeSlot p n).que p = { b.que p with nextAt := b.cycle.toNat + 1 } :=
  Blk.que_modQue_same b p fun u => { u with nextAt := b.cycle.toNat + 1 }

/-- The queue of an instruction whose ledger is charged: it is busy until that has passed, and its caps count it. -/
@[simp] theorem Blk.passTime_que (b : Blk) (p : Site) (n : Nat) :
    (b.passTime p n).que p = { (b.charge p n).que p with busyTo := Nat.max ((b.charge p n).que p).busyTo (b.cycle.toNat + n) } := by
  have h1 : ∀ (c : Blk) (s : Nat), (if s = 0 then c else c.addCtx p.ctx Cnt.stretch s).que p = c.que p := by
    intro c s; split
    · rfl
    · simp
  have h2 : ∀ (c : Blk) (l : List (CtxId × Nat)), ({ c with shorts := l } : Blk).que p = c.que p := fun _ _ => rfl
  unfold Blk.passTime
  dsimp only
  rw [h2, Blk.que_modQue_same, h1, Blk.account_que]

theorem Blk.modCtx_que (b : Blk) (p : Site) (f : Ctx → Ctx) (h : (f (b.ctx p.ctx)).queues = (b.ctx p.ctx).queues) :
    (b.modCtx p.ctx f).que p = b.que p := by
  simp [Blk.que, Ctx.que, h]

/-- The queue of an instruction that issued stands at the next entry; what its registers and loops hold is as it was,
but for the caps that count its ledger. -/
theorem Blk.passNow_que (b : Blk) (p : Site) (g : Guard) (k : Cls) (n : Nat) :
    ((b.passNow p g k n).que p).pc = (b.que p).pc + 1
      ∧ ((b.passNow p g k n).que p).sregs = (b.que p).sregs
      ∧ ((b.passNow p g k n).que p).halted = (b.que p).halted
      ∧ ((b.passNow p g k n).que p).tail = (b.que p).tail
      ∧ ((b.passNow p g k n).que p).loops = (b.que p).loops.map fun l =>
          if l.test = 0 then l else { l with cap := BitVec.ofNat 32 (l.cap.toNat - n) } := by
  have key : ∀ u : Queue, ((u.runNext k n).goto (u.pc + 1)).sregs = u.sregs
      ∧ ((u.runNext k n).goto (u.pc + 1)).loops = u.loops ∧ ((u.runNext k n).goto (u.pc + 1)).halted = u.halted
      ∧ ((u.runNext k n).goto (u.pc + 1)).tail = u.tail := by
    intro u; cases k <;> exact ⟨rfl, rfl, rfl, rfl⟩
  have hq : ∀ c : Blk, ((if g.dp = 0 then c else c.modCtx p.ctx fun x =>
      { x.clearPred c.cycle.toNat g.dp with dones := x.dones ++ [(c.cycle.toNat + n, g.dp)] }).que p) = c.que p := by
    intro c
    split
    · rfl
    · refine Blk.modCtx_que c p _ ?_
      rw [Ctx.clearPred_preds]
  unfold Blk.passNow
  dsimp only
  rw [hq]
  split <;> simp only [Blk.que_modQue_same, Blk.takeSlot_que, Blk.passTime_que, Blk.charge_que, key] <;>
    exact ⟨rfl, trivial, trivial, trivial, trivial⟩

/-- Charging and counting an instruction leaves the predicates and what was written in this cycle alone. -/
theorem Blk.passTime_ctx (b : Blk) (p : Site) (n : Nat) :
    ((b.passTime p n).ctx p.ctx).preds = (b.ctx p.ctx).preds ∧ ((b.passTime p n).ctx p.ctx).doneAt = (b.ctx p.ctx).doneAt
      ∧ ((b.passTime p n).ctx p.ctx).doneSet = (b.ctx p.ctx).doneSet ∧ ((b.passTime p n).ctx p.ctx).wroteAt = (b.ctx p.ctx).wroteAt
      ∧ ((b.passTime p n).ctx p.ctx).wrote = (b.ctx p.ctx).wrote := by
  have h0 : ∀ (c : Blk) (f : Queue → Queue), ∃ q, (c.modQue p f).ctx p.ctx = { c.ctx p.ctx with queues := q } := by
    intro c f; exact ⟨_, Blk.ctx_modCtx_same c p.ctx _⟩
  have h1 : ∀ (c : Blk) (i m : Nat), ∃ t, (c.addCtx p.ctx i m).ctx p.ctx = { c.ctx p.ctx with counters := t } := by
    intro c i m
    exact ⟨(c.ctx p.ctx).counters.upd i 0 (· + BitVec.ofNat 64 m), Blk.ctx_modCtx_same c p.ctx fun x =>
      { x with counters := x.counters.upd i 0 (· + BitVec.ofNat 64 m) }⟩
  have h2 : ∃ q r, ((b.charge p n)).ctx p.ctx = { b.ctx p.ctx with queues := q, pass := r } :=
    ⟨_, _, Blk.ctx_modCtx_same _ p.ctx _⟩
  have h3 : ∀ (c : Blk) (l : List (CtxId × Nat)), ({ c with shorts := l } : Blk).ctx p.ctx = c.ctx p.ctx := fun _ _ => rfl
  unfold Blk.passTime
  dsimp only
  rw [h3]
  obtain ⟨q1, e1⟩ := h0 (if b01 (n != 0 && decide (b.stretchAt = some b.cycle.toNat)) = 0 then
      (b.charge p n).account p.ctx n (2 * n + b01 (n != 0 && decide (b.stretchAt = some b.cycle.toNat)))
    else ((b.charge p n).account p.ctx n (2 * n + b01 (n != 0 && decide (b.stretchAt = some b.cycle.toNat)))).addCtx p.ctx
      Cnt.stretch (b01 (n != 0 && decide (b.stretchAt = some b.cycle.toNat))))
    fun u => { u with busyTo := Nat.max u.busyTo (b.cycle.toNat + n) }
  rw [e1]
  dsimp only
  obtain ⟨q2, r2, e2⟩ := h2
  have e3 : ∀ m, ∃ t, ((b.charge p n).account p.ctx n m).ctx p.ctx = { (b.charge p n).ctx p.ctx with counters := t } := by
    intro m
    obtain ⟨t1, f1⟩ := h1 (b.charge p n) Cnt.ledger n
    obtain ⟨t2, f2⟩ := h1 ((b.charge p n).addCtx p.ctx Cnt.ledger n) Cnt.actual m
    exact ⟨t2, by unfold Blk.account; rw [f2, f1]⟩
  split
  · obtain ⟨t, e⟩ := e3 (2 * n + b01 (n != 0 && decide (b.stretchAt = some b.cycle.toNat)))
    rw [e, e2]; exact ⟨rfl, rfl, rfl, rfl, rfl⟩
  · obtain ⟨t, e⟩ := e3 (2 * n + b01 (n != 0 && decide (b.stretchAt = some b.cycle.toNat)))
    obtain ⟨t', e'⟩ := h1 ((b.charge p n).account p.ctx n (2 * n + b01 (n != 0 && decide (b.stretchAt = some b.cycle.toNat))))
      Cnt.stretch (b01 (n != 0 && decide (b.stretchAt = some b.cycle.toNat)))
    rw [e', e, e2]; exact ⟨rfl, rfl, rfl, rfl, rfl⟩

/-- The predicates after an instruction that issued: its done predicate is clear, but for what R304 puts above it. -/
theorem Blk.passNow_preds (b : Blk) (p : Site) (g : Guard) (k : Cls) (n : Nat) :
    ((b.passNow p g k n).ctx p.ctx).preds
      = if g.dp = 0 then (b.ctx p.ctx).preds else ((b.ctx p.ctx).clearPred b.cycle.toNat g.dp).preds := by
  have h0 : ∀ (c : Blk) (f : Queue → Queue), ∃ q, (c.modQue p f).ctx p.ctx = { c.ctx p.ctx with queues := q } := by
    intro c f; exact ⟨_, Blk.ctx_modCtx_same c p.ctx _⟩
  have h4 : ∀ c : Blk, ∃ q, (if n = 0 then c else c.takeSlot p 1).ctx p.ctx = { c.ctx p.ctx with queues := q } := by
    intro c; split
    · exact ⟨(c.ctx p.ctx).queues, rfl⟩
    · obtain ⟨q, e⟩ := h0 c fun u => { u with nextAt := c.cycle.toNat + 1 }
      exact ⟨q, e⟩
  have h5 : ∀ c : Blk, (if n = 0 then c else c.takeSlot p 1).cycle = c.cycle := by
    intro c; split <;> rfl
  obtain ⟨e1, e2, e3, e4, e5⟩ := Blk.passTime_ctx b p n
  obtain ⟨q1, f1⟩ := h4 (b.passTime p n)
  obtain ⟨q2, f2⟩ := h0 (if n = 0 then b.passTime p n else (b.passTime p n).takeSlot p 1) fun u => (u.runNext k n).goto (u.pc + 1)
  have hc : ((if n = 0 then b.passTime p n else (b.passTime p n).takeSlot p 1).modQue p fun u =>
      (u.runNext k n).goto (u.pc + 1)).cycle = b.cycle :=
    (h5 _).trans (Blk.sameBut_cycle (Blk.passTime_sameBut b p n))
  unfold Blk.passNow
  dsimp only
  split
  · rw [f2, f1]; exact e1
  · rw [Blk.ctx_modCtx_same, hc, f2, f1]
    simp only [Ctx.clearPred, Ctx.overruled, Ctx.setPred, e1, e2, e3, e4, e5]
    split
    · rfl
    · split <;> rfl

@[simp] theorem Blk.modQue_counters_of (b : Blk) (p : Site) (f : Queue → Queue) :
    ((b.modQue p f).ctx p.ctx).counters = (b.ctx p.ctx).counters := by
  simp [Blk.modQue, Ctx.setQue]

@[simp] theorem Blk.takeSlot_counters_of (b : Blk) (p : Site) (n : Nat) :
    ((b.takeSlot p n).ctx p.ctx).counters = (b.ctx p.ctx).counters :=
  Blk.modQue_counters_of b p fun u => { u with nextAt := b.cycle.toNat + 1 }

/-- An instruction that issued has added its ledger to CTX_LEDGER (R322). -/
theorem Blk.passNow_ledger (b : Blk) (p : Site) (g : Guard) (k : Cls) (n : Nat) :
    ((b.passNow p g k n).ctx p.ctx).counters.get Cnt.ledger 0
      = (b.ctx p.ctx).counters.get Cnt.ledger 0 + BitVec.ofNat 64 n := by
  have hk : Cnt.ledger ≠ Cnt.actual := by decide
  have hk' : Cnt.ledger ≠ Cnt.stretch := by decide
  have h0 : ∀ m, (((b.charge p n).account p.ctx n m).ctx p.ctx).counters.get Cnt.ledger 0
      = (b.ctx p.ctx).counters.get Cnt.ledger 0 + BitVec.ofNat 64 n := by
    intro m
    simp [Blk.account, Blk.addCtx, Blk.addOwn, Blk.charge, Tab.upd, Tab.get_put_other _ _ _ hk]
  have h1 : ((b.passTime p n).ctx p.ctx).counters.get Cnt.ledger 0
      = (b.ctx p.ctx).counters.get Cnt.ledger 0 + BitVec.ofNat 64 n := by
    have hs : ∀ (c : Blk) (s : Nat), ((if s = 0 then c else c.addCtx p.ctx Cnt.stretch s).ctx p.ctx).counters.get Cnt.ledger 0
        = (c.ctx p.ctx).counters.get Cnt.ledger 0 := by
      intro c s; split
      · rfl
      · simp [Blk.addCtx, Blk.addOwn, Tab.upd, Tab.get_put_other _ _ _ hk']
    have h3 : ∀ (c : Blk) (l : List (CtxId × Nat)), ({ c with shorts := l } : Blk).ctx p.ctx = c.ctx p.ctx := fun _ _ => rfl
    unfold Blk.passTime
    dsimp only
    rw [h3, Blk.modQue_counters_of, hs, h0]
  have h2 : ∀ c : Blk, ((if n = 0 then c else c.takeSlot p 1).ctx p.ctx).counters = (c.ctx p.ctx).counters := by
    intro c; split <;> simp
  have h3 : ∀ c : Blk, ((if g.dp = 0 then c else c.modCtx p.ctx fun x =>
      { x.clearPred c.cycle.toNat g.dp with dones := x.dones ++ [(c.cycle.toNat + n, g.dp)] }).ctx p.ctx).counters
        = (c.ctx p.ctx).counters := by
    intro c; split
    · rfl
    · simp only [Blk.ctx_modCtx_same]; rw [Ctx.clearPred_preds]
  unfold Blk.passNow
  dsimp only
  rw [h3, Blk.modQue_counters_of, h2, h1]

end Sys2Proof.Machine
end

