-- ==== Sys2Proof/Laws/Memory.lean ====
section
/-! SUPPORT. Laws/Memory: every memory operation keeps the canonical form; what a read gives after a write. -/

namespace Sys2Proof

theorem Memory.sorted_mono {lo lo' : Nat} (m : Memory) (h : lo' ≤ lo) (hs : Memory.sorted lo m = true) :
    Memory.sorted lo' m = true := by
  cases m with
  | nil => rfl
  | cons e rest =>
    obtain ⟨a, v⟩ := e
    simp only [Memory.sorted, Bool.and_eq_true, decide_eq_true_eq] at hs ⊢
    exact ⟨⟨by omega, hs.1.2⟩, hs.2⟩

theorem Memory.sorted_ins {lo n : Nat} {v : Byte} (m : Memory) (hv : v ≠ Memory.blank) (hn : lo ≤ n)
    (hs : Memory.sorted lo m = true) : Memory.sorted lo (m.ins n v) = true := by
  induction m generalizing lo with
  | nil => simp [Memory.ins, Memory.sorted, hv, hn]
  | cons e rest ih =>
    obtain ⟨a, w⟩ := e
    simp only [Memory.sorted, Bool.and_eq_true, decide_eq_true_eq, bne_iff_ne] at hs
    obtain ⟨⟨h1, h2⟩, h3⟩ := hs
    unfold Memory.ins
    split
    · next h => simp [Memory.sorted, h1, h2, ih (by omega : a + 1 ≤ n) h3]
    · split
      · next h => subst h; simp [Memory.sorted, hn, hv, h3]
      · next h h' =>
        have h4 : n + 1 ≤ a := by omega
        simp [Memory.sorted, hn, hv, h4, h2, h3]

theorem Memory.sorted_del {lo n : Nat} (m : Memory) (hs : Memory.sorted lo m = true) :
    Memory.sorted lo (m.del n) = true := by
  induction m generalizing lo with
  | nil => rfl
  | cons e rest ih =>
    obtain ⟨a, w⟩ := e
    simp only [Memory.sorted, Bool.and_eq_true, decide_eq_true_eq, bne_iff_ne] at hs
    obtain ⟨⟨h1, h2⟩, h3⟩ := hs
    unfold Memory.del
    split
    · exact Memory.sorted_mono rest (by omega) h3
    · simp [Memory.sorted, h1, h2, ih h3]

/-- Writing one byte keeps the canonical form. -/
theorem Memory.wr_wf (m : Memory) (n : Nat) (v : Byte) (h : m.wf = true) : (m.wr n v).wf = true := by
  unfold Memory.wr Memory.wf
  split
  · exact Memory.sorted_del m h
  · next hv => exact Memory.sorted_ins m hv (Nat.zero_le n) h

/-- Writing bytes keeps the canonical form. -/
theorem Memory.wrBytes_wf (m : Memory) (a : Nat) (bs : List Byte) (h : m.wf = true) : (m.wrBytes a bs).wf = true := by
  induction bs generalizing m a with
  | nil => exact h
  | cons v rest ih => exact ih _ _ (Memory.wr_wf m a v h)

theorem Memory.rd_below {lo n : Nat} (m : Memory) (hs : Memory.sorted lo m = true) (hn : n < lo) :
    m.rd n = Memory.blank := by
  induction m generalizing lo with
  | nil => rfl
  | cons e rest ih =>
    obtain ⟨a, w⟩ := e
    simp only [Memory.sorted, Bool.and_eq_true, decide_eq_true_eq] at hs
    have h1 : a ≠ n := by omega
    simp [Memory.rd, h1, ih hs.2 (by omega)]

theorem Memory.rd_ins (m : Memory) (n k : Nat) (v : Byte) : (m.ins n v).rd k = if k = n then v else m.rd k := by
  induction m with
  | nil => by_cases h : n = k <;> simp [Memory.ins, Memory.rd, h, eq_comm]
  | cons e rest ih =>
    obtain ⟨a, w⟩ := e
    unfold Memory.ins
    split
    · next h =>
      by_cases h1 : a = k
      · have : k ≠ n := by omega
        simp [Memory.rd, h1, this]
      · simp [Memory.rd, h1, ih]
    · split
      · next h =>
        subst h
        by_cases h1 : a = k
        · simp [Memory.rd, h1]
        · simp [Memory.rd, h1, Ne.symm h1]
      · next h h' =>
        by_cases h1 : n = k
        · simp [Memory.rd, h1]
        · simp [Memory.rd, h1, Ne.symm h1]

theorem Memory.rd_del {lo : Nat} (m : Memory) (n k : Nat) (hs : Memory.sorted lo m = true) :
    (m.del n).rd k = if k = n then Memory.blank else m.rd k := by
  induction m generalizing lo with
  | nil => simp [Memory.del, Memory.rd]
  | cons e rest ih =>
    obtain ⟨a, w⟩ := e
    simp only [Memory.sorted, Bool.and_eq_true, decide_eq_true_eq] at hs
    unfold Memory.del
    split
    · next h =>
      by_cases h1 : k = n
      · simp [h1, Memory.rd_below rest hs.2 (by omega : n < a + 1)]
      · have : a ≠ k := by omega
        simp [h1, Memory.rd, this]
    · next h =>
      by_cases h1 : a = k
      · have : k ≠ n := by omega
        simp [Memory.rd, h1, this]
      · simp [Memory.rd, h1, ih hs.2]

/-- What a byte reads as after one byte is written: the value where it was written, as before anywhere else. -/
theorem Memory.rd_wr (m : Memory) (n k : Nat) (v : Byte) (h : m.wf = true) :
    (m.wr n v).rd k = if k = n then v else m.rd k := by
  unfold Memory.wr
  split
  · next hv => rw [Memory.rd_del m n k h, hv]
  · exact Memory.rd_ins m n k v

theorem Memory.rd_wrBytes_other (m : Memory) (a k : Nat) (bs : List Byte) (h : m.wf = true)
    (hk : k < a ∨ a + bs.length ≤ k) : (m.wrBytes a bs).rd k = m.rd k := by
  induction bs generalizing m a with
  | nil => rfl
  | cons v rest ih =>
    simp only [List.length_cons] at hk
    rw [Memory.wrBytes, ih _ _ (Memory.wr_wf m a v h) (by omega), Memory.rd_wr m a k v h, if_neg (by omega)]

theorem Memory.rdBytes_wrBytes (m : Memory) (a : Nat) (bs : List Byte) (h : m.wf = true) :
    (m.wrBytes a bs).rdBytes a bs.length = bs := by
  induction bs generalizing m a with
  | nil => rfl
  | cons v rest ih =>
    have h1 := ih (m.wr a v) (a + 1) (Memory.wr_wf m a v h)
    have h2 : (Memory.wrBytes (m.wr a v) (a + 1) rest).rd a = v := by
      rw [Memory.rd_wrBytes_other _ _ _ _ (Memory.wr_wf m a v h) (Or.inl (by omega)), Memory.rd_wr m a a v h, if_pos rfl]
    simp only [Memory.wrBytes, List.length_cons, Memory.rdBytes]
    rw [h1, h2]

end Sys2Proof
end

