-- ==== Sys2Proof/Laws/MemOps.lean ====
section
/-! SUPPORT. Laws/MemOps: every operation of the block on a memory keeps its canonical form, and memory after reset has
it. -/

namespace Sys2Proof.Machine

/-- Both memories are in canonical form. -/
abbrev Mem.canonical (m : Mem) : Prop := m.scratch.wf = true ∧ m.stack.wf = true

theorem sorted_filter {lo : Nat} (p : Host.Cell → Bool) (m : Memory) (h : Memory.sorted lo m = true) :
    Memory.sorted lo (m.filter p) = true := by
  induction m generalizing lo with
  | nil => rfl
  | cons e rest ih =>
    obtain ⟨a, w⟩ := e
    simp only [Memory.sorted, Bool.and_eq_true, decide_eq_true_eq] at h
    obtain ⟨⟨h1, h2⟩, h3⟩ := h
    simp only [List.filter_cons]
    split
    · simp [Memory.sorted, h1, h2, ih h3]
    · exact ih (Memory.sorted_mono rest (by omega) h3)

/-- A scratchpad write that succeeds keeps the canonical form and leaves the stack window alone. -/
theorem Mem.wrScratch_canonical (m n : Mem) (a : Nat) (bs : List Byte) (h : m.canonical) (e : m.wrScratch a bs = .ok n) :
    n.canonical ∧ n.stack = m.stack := by
  induction bs generalizing m a with
  | nil => simp only [Mem.wrScratch, Except.ok.injEq] at e; subst e; exact ⟨h, rfl⟩
  | cons v rest ih =>
    have hw := Memory.wr_wf m.scratch a v h.1
    unfold Mem.wrScratch at e
    simp only at e
    split at e
    · exact ih { m with scratch := m.scratch.wr a v } _ ⟨hw, h.2⟩ e
    · split at e
      · split at e
        · exact ih { m with scratch := m.scratch.wr a v, flips := m.flips.drop (a / 4) } _ ⟨hw, h.2⟩ e
        · cases e
      · next bs _ =>
        exact ih { m with scratch := (m.scratch.wrBytes (4 * (a / 4)) bs).wr a v, flips := m.flips.drop (a / 4) } _
          ⟨Memory.wr_wf _ a v (Memory.wrBytes_wf _ _ _ h.1), h.2⟩ e

/-- A stack write that succeeds keeps the canonical form and leaves the scratchpad alone. -/
theorem Mem.wrStack_canonical (m n : Mem) (a : Nat) (bs : List Byte) (h : m.canonical) (e : m.wrStack a bs = .ok n) :
    n.canonical ∧ n.scratch = m.scratch := by
  unfold Mem.wrStack at e
  simp only at e
  split at e
  · cases e
  · split at e
    · cases e
    · simp only [Except.ok.injEq] at e
      subst e
      exact ⟨⟨h.1, Memory.wrBytes_wf _ _ _ h.2⟩, rfl⟩

/-- The part of a stack write that touches the memory. -/
theorem Blk.wrStack_mem (b c : Blk) (a : Nat) (bs : List Byte) (e : b.wrStack a bs = .ok c) :
    ∃ m, b.mem.wrStack a bs = .ok m ∧ c.mem = m := by
  unfold Blk.wrStack at e
  simp only at e
  split at e
  · cases e
  · split at e
    · cases e
    · next m hm =>
      simp only [Except.ok.injEq] at e
      refine ⟨m, hm, ?_⟩
      subst e
      have fold : ∀ (l : List (Layer × BitVec 2 × Bool × Nat × Nat)) (b : Blk),
          (l.foldl (fun (b : Blk) p => b.modBank p.1 p.2.1 p.2.2.1 fun t =>
            { t with st := .filling, extent := Nat.max t.extent (Nat.min p.2.2.2.2 (a + bs.length - p.2.2.2.1)) }) b).mem
            = b.mem := by
        intro l
        induction l with
        | nil => intro b; rfl
        | cons x xs ih => intro b; rw [List.foldl_cons, ih]; rfl
      exact fold _ _

theorem Blk.wrStack_canonical (b c : Blk) (a : Nat) (bs : List Byte) (h : b.mem.canonical) (e : b.wrStack a bs = .ok c) :
    c.mem.canonical := by
  obtain ⟨m, hm, hc⟩ := Blk.wrStack_mem b c a bs e
  rw [hc]
  exact (Mem.wrStack_canonical b.mem m a bs h hm).1

theorem Blk.addFor_mem (b : Blk) (c : Option CtxId) (o n : Nat) : (b.addFor c o n).mem = b.mem := by
  unfold Blk.addFor; split <;> rfl

theorem Blk.burnPort_mem (b : Blk) (c : Option CtxId) (p : Port) (n : Nat) : (b.burnPort c p n).mem = b.mem := by
  cases p <;> rfl

theorem Blk.txBytes_mem (b : Blk) (c : Option CtxId) (p : Port) (n : Nat) : (b.txBytes c p n).mem = b.mem := by
  cases p <;> simp only [Blk.txBytes, Blk.addFor_mem, Blk.burnPort_mem]

theorem Blk.sendFlits_mem (b : Blk) (i : BitVec 4) (l : List Sent) : (b.sendFlits i l).mem = b.mem := by
  unfold Blk.sendFlits
  induction l generalizing b with
  | nil => rfl
  | cons f rest ih => exact ih _

theorem Blk.sealBlock_mem (b : Blk) (i : BitVec 4) : (b.sealBlock i).mem = b.mem :=
  Blk.sendFlits_mem _ _ _

theorem Blk.putFlit_mem (b : Blk) (p : Port) (c : Option CtxId) (vc : Nat) (bytes : List Byte) :
    (b.putFlit p c vc bytes).mem = b.mem := by
  unfold Blk.putFlit
  split
  · rfl
  · extract_lets i l f b1
    split
    · split
      · exact Blk.sealBlock_mem _ _
      · rfl
    · exact Blk.sendFlits_mem _ _ _

/-- IDLE flits leave memory alone. -/
theorem Blk.idles_mem (n : Nat) (i : BitVec 4) (b : Blk) : (Blk.idles n i b).mem = b.mem := by
  induction n generalizing b with
  | zero => rfl
  | succ n ih => exact ih _

theorem Blk.fillSlices_mem (b : Blk) (i : BitVec 4) : (b.fillSlices i).mem = b.mem := by
  unfold Blk.fillSlices
  dsimp only
  split
  · rfl
  · exact Blk.idles_mem _ _ _

/-- What leaves a port leaves memory alone. -/
theorem Blk.sendPiece_mem (b : Blk) (q : Port) (p : Parcel) : (b.sendPiece q p).mem = b.mem := by
  unfold Blk.sendPiece
  dsimp only
  split
  · exact Blk.putFlit_mem _ _ _ _ _
  · exact (Blk.txBytes_mem _ _ _ _).trans (Blk.putFlit_mem _ _ _ _ _)

theorem Blk.transmit_mem (q : Port) (n : Nat) (b : Blk) : (Blk.transmit q n b).mem = b.mem := by
  induction n generalizing b with
  | zero => rfl
  | succ n ih =>
    unfold Blk.transmit
    split
    · rfl
    · split
      · exact (ih _).trans (Blk.sendPiece_mem _ _ _)
      · rfl

theorem Blk.pumpPort_mem (b : Blk) (q : Port) : (b.pumpPort q).mem = b.mem := by
  unfold Blk.pumpPort; split
  · exact (Blk.fillSlices_mem _ _).trans (Blk.transmit_mem _ _ _)
  · rfl

theorem Blk.putOut_mem (b : Blk) (q : Port) (c : Option CtxId) (vc : Nat) (bytes : List Byte) (far : Bool) (o : Out) :
    (b.putOut q c vc bytes far o).mem = b.mem := by
  cases q <;> first | rfl | exact Blk.pumpPort_mem _ _

/-- A message to a die leaves memory alone. -/
theorem Blk.toDie_mem (b : Blk) (c : Option CtxId) (m : KMsg) : (b.toDie c m).mem = b.mem := by
  unfold Blk.toDie
  split
  · exact Blk.putOut_mem _ _ _ _ _ _ _
  · rfl

/-- A write to any space keeps the canonical form. -/
theorem Blk.wrSpace_canonical (b c : Blk) (x : Option CtxId) (sp : Space) (a : Nat) (bs : List Byte) (h : b.mem.canonical)
    (e : b.wrSpace x sp a bs = .ok c) : c.mem.canonical := by
  cases sp with
  | scratch =>
    simp only [Blk.wrSpace] at e
    split at e
    · cases e
    · next m hm =>
      simp only [Except.ok.injEq] at e
      subst e
      exact (Mem.wrScratch_canonical b.mem m a bs h hm).1
  | stack => exact Blk.wrStack_canonical b c a bs h e
  | die n =>
    simp only [Blk.wrSpace, Except.ok.injEq] at e
    subst e
    rw [Blk.toDie_mem]
    exact h

/-- A write that no bank guards keeps the canonical form. -/
theorem Blk.poke_canonical (b : Blk) (a : Nat) (bs : List Byte) (h : b.mem.canonical) : (b.poke a bs).mem.canonical :=
  ⟨h.1, Memory.wrBytes_wf _ _ _ h.2⟩

/-- A scrubbed word keeps the canonical form. -/
theorem Mem.rewrite_canonical (m : Mem) (w : Nat) (h : m.canonical) : (m.rewrite w).canonical :=
  ⟨Memory.wrBytes_wf _ _ _ h.1, h.2⟩

/-- Memory after reset lists nothing. -/
theorem reset_canonical : State.reset.blk.mem.canonical := ⟨rfl, rfl⟩

end Sys2Proof.Machine
end

