-- ==== Sys2Proof/Laws/Sched.lean ====
section
/-! SUPPORT. Laws/Sched: what settling after a change may do to memory: write descriptors back to the context store, and
nothing else. -/

namespace Sys2Proof.Machine

/-- Registers stay, and memory but for the context store. -/
def Blk.storeOnly (b c : Blk) : Prop := c.regs = b.regs ∧ b.memKept c

theorem Blk.storeAddr_of_regs {b c : Blk} (h : c.regs = b.regs) (x : CtxId) : c.storeAddr x = b.storeAddr x := by
  simp only [Blk.storeAddr, Blk.reg, h]

theorem Blk.storeOnly_of_eq {b c : Blk} (h : c.regs = b.regs) (m : c.mem = b.mem) : b.storeOnly c := by
  refine ⟨h, ?_⟩
  unfold Blk.memKept
  rw [m]
  exact ⟨rfl, rfl, rfl, rfl, fun h => ⟨h, fun _ _ => rfl⟩⟩

theorem Blk.storeOnly_trans {b c d : Blk} (h : b.storeOnly c) (k : c.storeOnly d) : b.storeOnly d := by
  obtain ⟨hr, h1, h2, h3, h4, h5⟩ := h
  obtain ⟨kr, k1, k2, k3, k4, k5⟩ := k
  refine ⟨kr.trans hr, k1.trans h1, k2.trans h2, k3.trans h3, k4.trans h4, fun w => ?_⟩
  obtain ⟨hw, ha⟩ := h5 w
  obtain ⟨kw, ka⟩ := k5 hw
  rw [Blk.storeAddr_of_regs hr] at ka
  exact ⟨kw, fun a o => (ka a o).trans (ha a o)⟩

theorem Blk.storeOnly_foldl {α : Type} (f : Blk → α → Blk) (h : ∀ (b : Blk) (x : α), b.storeOnly (f b x)) (l : List α) (b : Blk) :
    b.storeOnly (l.foldl f b) := by
  induction l generalizing b with
  | nil => exact Blk.storeOnly_of_eq rfl rfl
  | cons x l ih => exact Blk.storeOnly_trans (h b x) (ih _)

/-- A descriptor lies in the context store. -/
theorem Blk.descriptor_length (b : Blk) (c : CtxId) : (b.descriptor c).length = 64 := by
  simp [Blk.descriptor, queueNums, toLe]

theorem Blk.storeAddr_eq (b : Blk) (c : CtxId) : b.storeAddr c = b.storeAddr 0 + 64 * c.toNat := by
  unfold Blk.storeAddr
  rw [show BitVec.toNat (0 : CtxId) = 0 from rfl, Nat.mul_zero, Nat.add_zero]

theorem Blk.storeAddr_apart (b : Blk) (c : CtxId) (a : Nat) (h : c.toNat < 2 ^ 18)
    (ha : a < b.storeAddr 0 ∨ b.storeAddr 0 + 64 * 2 ^ 18 ≤ a) : a < b.storeAddr c ∨ b.storeAddr c + 64 ≤ a := by
  rw [Blk.storeAddr_eq b c]
  omega

/-- Looking a descriptor up writes at most one other descriptor back. -/
theorem Blk.touched_storeOnly (b : Blk) (c : CtxId) : b.storeOnly (b.touched c) := by
  unfold Blk.touched Blk.touch
  split
  · exact Blk.storeOnly_of_eq rfl rfl
  · dsimp only
    split
    · exact ⟨rfl, rfl, rfl, rfl, rfl, fun h => ⟨h, fun _ _ => rfl⟩⟩
    · split
      · exact Blk.storeOnly_of_eq rfl rfl
      · next old _ _ =>
        refine ⟨rfl, rfl, rfl, rfl, rfl, fun h => ⟨Memory.wrBytes_wf _ _ _ h, fun a ha => ?_⟩⟩
        refine Memory.rd_wrBytes_other b.mem.stack _ _ _ h ?_
        rw [Blk.descriptor_length]
        have hl : old.toNat < 2 ^ 18 := old.isLt
        exact Blk.storeAddr_apart b old a hl ha

theorem Blk.noteEligible_storeOnly (old b : Blk) : b.storeOnly (Blk.noteEligible old b) := by
  unfold Blk.noteEligible
  refine Blk.storeOnly_foldl _ (fun b c => ?_) _ _
  exact Blk.storeOnly_trans (Blk.touched_storeOnly b c) (Blk.storeOnly_of_eq rfl rfl)

theorem Blk.switchPoint_storeOnly (b : Blk) (n : PartId) (c : CtxId) (t : Bool) : b.storeOnly (b.switchPoint n c t) := by
  unfold Blk.switchPoint
  dsimp only
  split <;> exact Blk.storeOnly_of_eq rfl rfl

theorem Blk.fillSlots_storeOnly (b : Blk) : b.storeOnly b.fillSlots :=
  Blk.storeOnly_foldl _ (fun b n => by
    unfold Blk.fillSlot
    dsimp only
    split
    · split
      · exact Blk.switchPoint_storeOnly _ _ _ _
      · exact Blk.storeOnly_of_eq rfl rfl
    · exact Blk.storeOnly_of_eq rfl rfl) _ _

theorem Blk.noteSlots_storeOnly (old b : Blk) : b.storeOnly (Blk.noteSlots old b) := by
  unfold Blk.noteSlots
  refine Blk.storeOnly_foldl _ (fun b n => ?_) _ _
  exact Blk.storeOnly_of_eq rfl rfl

/-- Settling keeps registers, and memory but for the context store. -/
theorem Blk.settle_storeOnly (old b : Blk) : b.storeOnly (Blk.settle old b) :=
  Blk.storeOnly_trans (Blk.storeOnly_trans (Blk.noteEligible_storeOnly old b) (Blk.fillSlots_storeOnly _))
    (Blk.noteSlots_storeOnly _ _)

end Sys2Proof.Machine
end

