-- ==== Sys2Proof/Machine/TestPort.lean ====
section
/-!
DEFINITION. The test port: the instructions that a lifecycle leaves in force and the IDCODE (20 R521, 22 R548). No row of
the opcode table drives this port (log 63).
-/

namespace Sys2Proof.Machine

/-- The kinds of instruction of the test port (R521). -/
inductive TestInstr where
  | bypass
  | idcode
  | samplePreload
  | extest
  | wrapper                    -- an IEEE 1500 wrapper instruction
  | debug                      -- a debug access to arrays or keys
  deriving DecidableEq, Repr

/-- What an instruction of the test port acts as: wrapper and debug instructions work only in BLANK and RMA and act as
BYPASS in any other lifecycle (R521). -/
def TestInstr.actsAs (life : Life') : TestInstr → TestInstr
  | .wrapper => if life == .blank || life == .rma then .wrapper else .bypass
  | .debug => if life == .blank || life == .rma then .debug else .bypass
  | i => i

/-- The part number: 0x0840 on an ND-840, 0x0832 on an ND-832 (R2, R548). -/
def Fuses.partNumber (f : Fuses) : BitVec 16 := if f.variant = 0x02 then 0x0832 else 0x0840

/-- The IDCODE: ND_ID.major, the part number, the manufacturer code and 1 (R548). -/
def Fuses.idcode (f : Fuses) : Word := f.major ++ f.partNumber ++ f.manufacturer ++ (1 : BitVec 1)

end Sys2Proof.Machine
end

