-- ==== Sys2Proof/Tests/Slice0.lean ====
section
/-! SUPPORT. Tests of this row: for every statement with hypotheses a theorem `met_<statement>` that shows concrete states
and operands that meet them, clause by clause in the statement's order; the smoke tests of WellFormed; Brodip words written
out from the spec's encodings; and worked values of the spec. -/

open Sys2Proof Sys2Proof.Machine

set_option Elab.async false
set_option maxRecDepth 20000

namespace Sys2Proof.Tests

/-! ### States -/

def q0 : Queue := { Queue.reset with size := 8, tail := 20 }

/-- A live context whose four queues hold twenty published entries. -/
def c0 : Ctx := { Ctx.reset with life := .live, shares := 1, queues := Bank.all 2 q0 }

/-- A block in SERVICE with one partition of everything, in which context 0 runs. -/
def b0 : Blk :=
  { (State.reset.blk.setReg 0x100 0 0xC000FFFF).setReg 0x104 0 0xFFFFFF00 with
    cycle := 1000000
    start := { State.reset.blk.start with stage := 7, regime := true }
    ctxs := [(0, c0)]
    slots := (Bank.all 3 Slot.reset).wr 0 { Slot.reset with running := some 0 } }

/-- The management plane with its firmware running. -/
def a0 : Aon :=
  { State.reset.aon with
    count := 2000000
    vault := { State.reset.aon.vault with boot := .running, bootNonce := [1], firm := some ⟨[7], 3⟩, kat := some true } }

def s0 : State := ⟨b0, a0, []⟩

def p0 : Site := ⟨0, 0⟩

/-- A state like `s0` but for its block. -/
def sb (f : Blk → Blk) : State := { s0 with blk := f b0 }

/-- A state like `s0` but for its management plane. -/
def sa (f : Aon → Aon) : State := { s0 with aon := f a0 }

/-- `s0` with another queue 0. -/
def sq (f : Queue → Queue) : State := sb fun b => b.modQue p0 f

def g0 : Guard := ⟨false, 0, 0⟩

def rz : RFields := { g := g0, a := 0, b := 0, c := 0, d := 0, e := 0, f := 0, gg := 0, h := 0, i := 0, m := 0 }

def iz : IFields := { g := g0, a := 0, k := 0, b := 0, imm := 0 }

def cz : CFields := { g := g0, e := 0, split := false, mode := 0, g0 := 0, ng := 0, landing := 0, acc := 0, out := 0, res := 0, oidx := 0, drops := 0, dcount := 0, rsv := 0 }

/-! ### A partition with tables -/

/-- Window of `b1`: region 0 of partition 0 holds tables and manifests, region 1 data. -/
def regsT : List (Nat × Nat × Word) :=
  [(0x204, 0, 0xC0000000), (0x208, 0, 0x100), (0x204, 1, 0x80000200), (0x208, 1, 0x100),
   (0x308, 0, 0x80000001), (0x324, 0, 1), (0x30C, 0, 0x80000002), (0x328, 0, 1), (0x318, 0, 0x80000003), (0x31C, 0, 0x80000004),
   (0x308, 1, 0x80000005), (0x324, 1, 1), (0x30C, 1, 0x80000006), (0x328, 1, 1), (0x318, 1, 0x80000007), (0x31C, 1, 0x80000008)]

/-- A SLOT image of layer 0: expert 0 on die 0 and expert 1 on die 1, both of instance 0. -/
def slotImg : List Byte :=
  toLe 4 0x4C425447 ++ [3, 0] ++ toLe 2 0 ++ toLe 2 2 ++ toLe 2 1 ++ toLe 4 64 ++ toLe 4 80 ++ toLe 4 128 ++ zeroBytes 40
    ++ toLe 8 0 ++ toLe 8 (1 + 2 ^ 28) ++ toLe 2 0 ++ zeroBytes 46

/-- The stack of `b1`: a GATE image (a ROUTER of two experts of 256 BF16 elements, weights 1 and 0) at 0x1000, SLOT images
(expert 0 on die 0 and expert 1 on die 1, both of instance 0) at 0x5000 and 0x6000, manifests of kinds 0 and 1 without
shards at 0x3000, 0x4000, 0x7000 and 0x8000, for layer 0. -/
def memG : Memory :=
  [
    (0x1000, 0x47), (0x1001, 0x54), (0x1002, 0x42), (0x1003, 0x4c), (0x1004, 0x1), (0x1008, 0x2), (0x100a, 0x2),
    (0x1012, 0x80), (0x1013, 0x3f), (0x1019, 0x2), (0x1030, 0x40), (0x1034, 0x40), (0x1035, 0x4), (0x1040, 0x80),
    (0x1041, 0x3f), (0x3000, 0x57), (0x3001, 0x46), (0x3002, 0x4e), (0x3003, 0x4d), (0x3004, 0x1), (0x3008, 0x9),
    (0x300c, 0x68), (0x4000, 0x57), (0x4001, 0x46), (0x4002, 0x4e), (0x4003, 0x4d), (0x4004, 0x1), (0x4008, 0x9),
    (0x400c, 0x68), (0x5000, 0x47), (0x5001, 0x54), (0x5002, 0x42), (0x5003, 0x4c), (0x5004, 0x3), (0x5008, 0x2),
    (0x500a, 0x1), (0x500c, 0x40), (0x5010, 0x50), (0x5014, 0x80), (0x5048, 0x1), (0x504b, 0x10), (0x6000, 0x47),
    (0x6001, 0x54), (0x6002, 0x42), (0x6003, 0x4c), (0x6004, 0x3), (0x6008, 0x2), (0x600a, 0x1), (0x600c, 0x40),
    (0x6010, 0x50), (0x6014, 0x80), (0x6048, 0x1), (0x604b, 0x10), (0x7000, 0x57), (0x7001, 0x46), (0x7002, 0x4e),
    (0x7003, 0x4d), (0x7004, 0x1), (0x7005, 0x1), (0x7008, 0x9), (0x700c, 0x68), (0x8000, 0x57), (0x8001, 0x46),
    (0x8002, 0x4e), (0x8003, 0x4d), (0x8004, 0x1), (0x8005, 0x1), (0x8008, 0x9), (0x800c, 0x68)]

/-- `b0` with both tables of layer 0 placed: bank 0 of each is ACTIVE in epoch 1, bank 1 FILLING. -/
def b1 : Blk :=
  let b := regsT.foldl (fun b r => b.setReg r.1 r.2.1 r.2.2) b0
  { b with
    mem := { b.mem with stack := memG }
    refresh := { b.refresh with tables := [(0, ⟨1, false, ⟨.active, 0, 0x1000, 9, []⟩, ⟨.filling, 0, 0x1000, 0, []⟩⟩),
                                           (1, ⟨1, false, ⟨.active, 0, 0x1000, 9, []⟩, ⟨.filling, 0, 0x1000, 0, []⟩⟩)] } }

def st1 : State := { s0 with blk := b1 }

/-! ### A context with descriptors -/

/-- The image of a descriptor (R277). -/
def encD (d : Desc) : BitVec 512 :=
  BitVec.ofNat 512 (leNat (toLe 8 d.base ++ [d.space, d.format, d.rank, d.clamp] ++ toLe 2 d.banks.toNat ++ [d.ereg, d.access]
    ++ toLe 4 d.n0 ++ toLe 4 d.n1 ++ toLe 4 d.n2 ++ toLe 4 d.n3 ++ toLe 8 d.s1.toNat ++ toLe 8 d.s2.toNat ++ toLe 8 d.s3.toNat
    ++ toLe 4 d.fill.toNat ++ toLe 4 0))

/-- A readable and writable tensor of rows in one scratchpad bank. -/
def tens (bank fmt n0 n1 : Nat) : Desc :=
  { Desc.zero with
    format := BitVec.ofNat 8 fmt, rank := if n1 = 1 then 1 else 2, banks := BitVec.ofNat 16 (2 ^ bank), access := 3,
    n0 := n0, n1 := n1, n2 := 1, n3 := 1, s1 := (rowBytesOf fmt n0 : Nat) }

/-- t0 to t11: FP32 rows in banks 0 and 1, indices, counts, a BF16 tensor, statistics, a landing area and an
accumulator, outputs, sampling parameters and results. -/
def tregsD : Bank 4 (BitVec 512) :=
  [tens 0 4 32 2, tens 1 4 32 2, tens 2 8 2 1, tens 3 8 8 1, tens 4 0 32 2, tens 5 4 2 2, tens 6 4 256 128, tens 7 4 256 128,
   tens 8 0 256 1, tens 9 7 32 1, tens 10 7 32 1, tens 11 8 8 1].zipIdx.foldl (fun b x => b.wr (BitVec.ofNat 4 x.2) (encD x.1))
    Ctx.reset.tregs

/-- Sampling parameters of two rows: 1/τ = 1, topP = 1, topK = 4. -/
def parD : List Byte := (List.replicate 2 (toLe 4 0x3F800000 ++ toLe 4 0x3F800000 ++ toLe 2 4 ++ toLe 6 0)).flatten

def memD : Mem :=
  { b0.mem with scratch := ((Memory.wrBytes [] 0x1B00000 parD).wrBytes 0x2400000 (toLe 64 (encD (tens 0 4 32 2)).toNat)) }

def cD : Ctx :=
  { c0 with
    tregs := tregsD
    queues := Bank.all 2 { q0 with sregs := (Bank.all 5 (0 : Word)).wr 1 1 |>.wr 2 2 |>.wr 7 7 } }

/-- A dispatch of one token in layer 0 that has one served row and one choice to place. -/
def d0 : Dispatch :=
  { ctx := 0, part := 0, layer := 0, seq := 1, isOpen := false, k := 1, td := 1, cap := 1, openIx := 0, openAt := 0, policy := 0, shaded := 0,
    fixed := false, map := tens 12 8 2 1, candBuf := none, experts := 2, binding := ⟨0, 1, false, 1⟩, refHeld := false,
    primary := [⟨0, 0, 0, 0⟩, ⟨1, 0, 1, 0⟩], members := [0], moons := [], counts := [(0, 1)], demand := [(0, 1)], tokens := 1,
    lastGidx := some 0, queued := [], served := [⟨0, 0, 9, [⟨0, 0, 0, 0, 0, 0, 0⟩]⟩], ledgerHeld := false, tallyHeld := true,
    h := [(0, 1)], base := [], pendRows := [⟨0, 0, 9, [⟨0, 0, 0, 0, 0, 0, 0⟩]⟩], groupRow := 0, selectsLeft := 0, groups := [],
    lastPlaced := false, placing := false, placeDone := false, sendFmt := none, sendBytes := 0, credits := [], claims := [],
    diverted := [], aborted := false, cold := false }

def bD : Blk := { b1 with ctxs := [(0, cD)], mem := { b1.mem with scratch := memD.scratch }, disps := [d0] }

def sD : State := { s0 with blk := bD }

/-- The group of `d0`, placed. -/
def gr0 : Group := { r0 := 0, rows := 1, ag := 1, last := true, sent := [], ended := false, ready := [] }

def d1 : Dispatch := { d0 with pendRows := [], h := [], base := [(0, 1)], groupRow := 1, groups := [gr0], lastPlaced := true, placeDone := true, tallyHeld := false }

def sPlaced : State := { sD with blk := { bD with disps := [d1] } }

def sReady : State := { sD with blk := { bD with disps := [{ d1 with groups := [{ gr0 with ended := true, sent := [(0, 1)] }] }] } }

/-- A map of one row in the owned region. -/
def mapD : Desc := { tens 0 8 2 1 with base := 0x40000, space := 1, banks := 0, access := 3 }

def cP : Ctx := { cD with tregs := cD.tregs.wr 12 (encD mapD) }

def sP : State := { sD with blk := { bD with ctxs := [(0, cP)], disps := [] } }

/-- A command in flight that has no effect. -/
def fl0 : Flight :=
  { ctx := 0, queue := 0, qidx := 0, word := encR 0x50 rz, issued := 99, ledger := 16, suspended := none, suspTotal := 0, tiles := 0,
    stretch := 0, units := [], binds := [], arith := 0, tag := 0, dp := 0, pend := [], bankRd := 0, bankWr := 0, reads := [],
    writes := [], fx := [], job := .plain, energy := 0, tile := [], stale := false, moved := none, before := 0, tiles0 := 0, bubbled := 0 }

/-- A block with these commands in flight. -/
def bF (l : List Flight) : Blk := { bD with flights := l }

def sF (l : List Flight) : State := { sD with blk := bF l }

/-- A header from instance `src` to `dst`. -/
def hd (kind src dst : Nat) : PktHdr :=
  { PktHdr.zero with kind := BitVec.ofNat 4 kind, ttl := 3, src := BitVec.ofNat 12 src, dst := BitVec.ofNat 12 dst, seq := 1 }

/-- What the owner knows of the dispatch of instance 1. -/
def in0 : InDisp :=
  { src := 1, part := 0, layer := 0, seq := 1, fmt := 0, opened := true, granted := [(0, 4)], used := [(0, 1)], owed := [],
    work := [(0, 0, 1)], lastEnd := [], discarded := false }

/-- `b1` with receive regions of 16 units at every die. -/
def bO : Blk := [0, 1, 2].foldl (fun b i => (b.setReg 0x380 i (BitVec.ofNat 32 (16 * i))).setReg 0x390 i 1) b1

def sO (l : List InDisp) : State := { s0 with blk := { bO with exch := { bO.exch with inDisps := l } } }

/-- A block with a FLAT group 5 of instances 0 and 1 in entry 2, with seat 3 reserved, and port O0 up. -/
def bG : Blk :=
  let b := ((bD.setReg 0x404 2 0x80290001).setReg 0x408 2 0).setReg 0x40C 2 0x10
  { (b.setLink 6 { Link.reset with st := .up }) with
    ctxs := [(0, { cD with tregs := cD.tregs.wr 13 (encD (tens 13 4 32 2))
                           queues := Bank.all 2 { q0 with sregs := (Bank.all 5 (0 : Word)).wr 1 0x500000 |>.wr 2 64 } })]
    folds := { b.folds with groups := b.folds.groups.wr 2 { FGroup.reset with members := [0, 1] },
                            seats := b.folds.seats.wr 3 { Seat.reset with entry := some 2 } } }

def sG : State := { s0 with blk := bG }

/-- A seat that runs ALL_REDUCE of 64 elements. -/
def seat0 : Seat :=
  { Seat.reset with
    entry := some 2, st := .running, id := 0x500000, n := 64, src := tens 0 4 32 2, dst := tens 1 4 32 2,
    stage := some (tens 13 4 32 2), credit := [(0, 2)], since := 17 }

def bS (y : Seat) : Blk := bG.setSeat 3 y

def sS (y : Seat) : State := { sG with blk := (bS y).setFgroup 2 { FGroup.reset with members := [0, 1], nextSeq := 1 } }

/-- A fold packet of the collective from instance 1. -/
def fh (kind : Nat) : FoldHdr :=
  { kind := BitVec.ofNat 4 kind, stage := 0, dir := false, piece := 0, wire := 0, mode := false, op := false, phase := false,
    bytes := 128, id := 0x500000, src := 1, dst := 0, part := 0, chunk := 0, step := 1, rev := 0, check := bG.checkOf 2,
    count := 64, nMinus1 := 1, kindc := 0, dirs := false }

/-- A comet of the group that waits for instance 1's value. -/
def com0 : Comet :=
  { id := 0x500000, ctx := 0, queue := 0, part := 0, entry := 2, barrier := false, op := 0, int := true, ordered := false, len := 8,
    src := [1, 0, 0, 0, 2, 0, 0, 0], dst := tens 1 8 2 1, pass := false, grid := [], values := [], acc := none, stage := 0, step := 0,
    rail := [], later := [], since := 17 }

def sC (l : List Comet) : State :=
  { sG with blk := { (bG.setFgroup 2 { FGroup.reset with members := [0, 1], cometSeq := 1 }) with comets := { bG.comets with live := l } } }

def cm (kind : Nat) : CometMsg :=
  { kind := BitVec.ofNat 4 kind, ttl := 3, op := 0, int := true, mode := false, pass := false, stage := 0, step := 0, rsv := 0, rsv8 := 0, len := 8,
    id := 0x500000, src := 1, dst := 0, part := 0, check := bG.checkOf 2, crc := BitVec.ofNat 16 (crc32c [5, 0, 0, 0, 6, 0, 0, 0]).toNat,
    payload := [5, 0, 0, 0, 6, 0, 0, 0] }

/-- The management plane with an installer's secured session 0. -/
def aI : Aon :=
  { a0 with vault := { a0.vault with sessions := a0.vault.sessions.wr 0 (some { finished := true, bothAuth := true, chain := [], role := .installer, lastBeat := 2000000, keyNo := 0 }) } }

def ri : Requester := .mgmt (some 0)

/-- A block without contexts. -/
def bR : Blk := { b0 with ctxs := [], slots := Bank.all 3 Slot.reset }

def sR : State := { s0 with blk := bR, aon := aI }

/-- The row, index and new value of a write. -/
def wRow (s : State) (r : Requester) (addr : Nat) : RegDef × Nat :=
  ((regAt addr).map fun x => (x.1, (s.blk.ixOf s.aon (reqPath r) x.1 x.2).getD 0)).getD (⟨0, false, .one, []⟩, 0)

def wNew (s : State) (r : Requester) (addr : Nat) (v : Word) : Word :=
  let d := (wRow s r addr).1
  d.merge (s.aon.roleOf r) (s.blk.value s.aon (reqPath r) (s.aon.roleOf r) d (wRow s r addr).2) v

/-- Whether a write is carried out. -/
def wOk (s : State) (r : Requester) (addr : Nat) (v : Word) : Bool :=
  let d := (wRow s r addr).1
  let i := (wRow s r addr).2
  let role := s.aon.roleOf r
  let old := s.blk.value s.aon (reqPath r) role d i
  !accessHeld r addr true (s.aon, s.blk) && decide (addr < 0x400000 ∧ addr % 4 = 0) && !s.blk.pathHeld (reqPath r)
    && (match regAt addr with
        | some (e, k) => e = d && s.blk.ixOf s.aon (reqPath r) e k = some i
        | none => false)
    && (d.differing old v).all (mayWrite role d.off v)
    && (writeRefused d.off i (d.addr i) old (wNew s r addr v) (s.aon, s.blk)).isNone

theorem writes_of_wOk (s : State) (r : Requester) (addr : Nat) (v : Word) (h : wOk s r addr v = true) :
    s.Writes r addr v (wRow s r addr).1 (wRow s r addr).2 (wNew s r addr v) := by
  simp only [wOk, Bool.and_eq_true, Bool.not_eq_true', decide_eq_true_eq] at h
  obtain ⟨⟨⟨⟨⟨h1, h2⟩, h3⟩, h4⟩, h5⟩, h6⟩ := h
  refine ⟨h1, h2, h3, ?_, rfl, ?_, ?_⟩
  · split at h4
    · rename_i e k he
      simp only [Bool.and_eq_true, decide_eq_true_eq] at h4
      obtain ⟨h, h'⟩ := h4
      refine ⟨k, ?_, ?_⟩
      · rw [he, h]
      · rw [← h]; exact h'
    · cases h4
  · intro f hf; exact List.all_eq_true.mp h5 f hf
  · exact Option.isNone_iff_eq_none.mp h6

/-! ### Scalar, predicate, flow and synchronisation instructions -/

def r1 : RFields := {rz with a := 3, b := 1, c := 31}

def i1 : IFields := {iz with a := 31, imm := 7}

/-- Different words in every register. -/
def s1 : State := sq fun u => { u with sregs := Vector.ofFn fun i => BitVec.ofNat 32 (0x80000000 + 0x01010101 * i.val), pc := 19 }

def rcmp : RFields := { rz with a := 7, b := 2, c := 1, m := 2 }

def sp : State := sb fun b => b.modCtx 0 fun x => { x with preds := 0xFF }

def ipclr : IFields := { iz with imm := 0xFE }

def ibr : IFields := { iz with imm := 4 }

def iloop : IFields := { iz with a := 0, b := 3, imm := 2 }

def iloopv : IFields := { iz with a := 1, k := 1, b := 3, imm := 100 }

def s1c : State := sq fun u => { u with sregs := Vector.ofFn fun i => BitVec.ofNat 32 (0x80000000 + 0x01010101 * i.val), pc := 3 }

def lv : LoopLv := ⟨2, 3, 0, 0, 2, 0, 0⟩

def sbe : State := sq fun u => { u with pc := 5, loops := [lv] }

def lv1 : LoopLv := ⟨2, 3, 0, 0, 1, 0, 0⟩

def sbe1 : State := sq fun u => { u with pc := 5, loops := [lv1] }

def lvw : LoopLv := ⟨2, 3, 2, 1, 0, 9, 100⟩

def sbew : State := sq fun u => { u with pc := 5, loops := [lvw, ⟨1, 9, 3, 1, 0, 9, 100⟩] }

def ihalt : IFields := { iz with imm := 0xAB }

def iwait : IFields := { iz with imm := 0x82 }

def rbar : RFields := { rz with m := 3 }

def sbar : State := sb fun b => b.modCtx 0 fun x => x.setQue 1 { x.que 1 with pc := 4, barrier := some 3, waiting := true }

def x_mov : RFields := {rz with a := 31, b := 1}

def x_loopvc : IFields := { iz with a := 2, k := 0, b := 3, imm := 100 }

theorem met_ScalarResults :
    (s0.Seen ∧ Blk.quickGoes s0.aon s0.blk p0 (liQuick p0 i1) = true) ∧
    (s1.Seen ∧ Blk.quickGoes s1.aon s1.blk p0 (movQuick p0 x_mov) = true) ∧
    (s1.Seen ∧ Blk.quickGoes s1.aon s1.blk p0 (cmpQuick p0 rcmp) = true) ∧
    (sp.Seen ∧ Blk.quickGoes sp.aon sp.blk p0 (pclrQuick p0 ipclr) = true) :=
  ⟨⟨rfl, (by decide +kernel)⟩, ⟨rfl, (by decide +kernel)⟩, ⟨rfl, (by decide +kernel)⟩, ⟨rfl, (by decide +kernel)⟩⟩

theorem met_FlowResults :
    (s0.Seen ∧ Blk.quickGoes s0.aon s0.blk p0 (brQuick p0 ibr) = true) ∧
    (s0.Seen ∧ Blk.quickGoes s0.aon s0.blk p0 (loopQuick p0 iloop) = true) ∧
    (sp.Seen ∧ Blk.quickGoes sp.aon sp.blk p0 (loopvQuick p0 iloopv) = true) ∧
    (s0.Seen ∧ Blk.quickGoes s0.aon s0.blk p0 (loopvQuick p0 iloopv) = true) ∧
    (s1c.Seen ∧ Blk.quickGoes s1c.aon s1c.blk p0 (loopvQuick p0 x_loopvc) = true) ∧
    (sbe.Seen ∧ Blk.edgeGoes sbe.aon sbe.blk p0 lv = true) ∧
    (sbe1.Seen ∧ Blk.edgeGoes sbe1.aon sbe1.blk p0 lv1 = true) ∧
    (sbew.Seen ∧ Blk.edgeGoes sbew.aon sbew.blk p0 lvw = true) :=
  ⟨⟨rfl, (by decide +kernel)⟩, ⟨rfl, (by decide +kernel)⟩, ⟨rfl, (by decide +kernel)⟩, ⟨rfl, (by decide +kernel)⟩, ⟨rfl,
    (by decide +kernel)⟩, ⟨rfl, (by decide +kernel)⟩, ⟨rfl, (by decide +kernel)⟩, ⟨rfl, (by decide +kernel)⟩⟩

theorem met_SyncResults :
    (Blk.quickGoes s0.aon s0.blk p0 (haltQuick p0 ihalt) = true) ∧
    (sp.Seen ∧ Blk.quickGoes sp.aon sp.blk p0 (waitQuick iwait) = true) ∧
    (Blk.barrierGoes sbar.aon sbar.blk p0 rbar = true) :=
  ⟨(by decide +kernel), ⟨rfl, (by decide +kernel)⟩, (by decide +kernel)⟩

theorem met_ReservedOpcodeFaults :
    (Blk.open s0.aon s0.blk p0 = true ∧ (s0.blk.que p0).pairOpen = false ∧ s0.blk.behindBarrier p0 = false) ∧
    (listedOpcode (opcodeOf 0xFF00000000000000) = false) :=
  ⟨⟨(by decide +kernel), rfl, rfl⟩, (by decide +kernel)⟩

/-! ### Epochs -/

def ibind : IFields := { iz with a := 2, imm := 12 }

def rphase : RFields := { rz with m := 2 }

def rflip : RFields := { rz with m := 2 }

def rflip4 : RFields := { rz with m := 4 }

def fl2 : Flip := { ctx := 0, queue := 0, layer := 0, kinds := 2, toCheck := [1], due := [], accepted := [], reasons := [], issued := false, word := encR 0x1B rflip, since := 99, behind := false }

def fl3 : Flip := { fl2 with toCheck := [], accepted := [1] }

def sfl3 : State := { st1 with blk := b1.setFlips [fl3] }

def ffl : Flight := { ctx := 0, queue := 0, qidx := 0, word := encR 0x1B rflip, issued := 99, ledger := 16, suspended := none, suspTotal := 0, tiles := 0, stretch := 0, units := [], binds := [], arith := 0, tag := 0, dp := 0, pend := [], bankRd := 0, bankWr := 0, reads := [], writes := [], fx := [], job := .flip 0 2, energy := 0, tile := [], stale := false, moved := none, before := 0, tiles0 := 0, bubbled := 0 }

def sfl4 : State := { st1 with blk := { b1.setFlips [{ fl3 with issued := true }] with flights := [ffl] } }

def sfl2 : State := { st1 with blk := b1.setFlips [fl2] }

/-- A flip of the same cycle, of a lower queue of the context, for the same table. -/
def sflB : State := { st1 with blk := b1.setFlips [{ fl2 with queue := 1, since := 1000000 }] }

def sflC : State := { st1 with blk := (b1.setFlips [{ fl2 with queue := 0, since := 1000000 }]) }

def spush : State := sb fun b => b.setPushes [⟨0, 3, 1, 1, 0, 64, 9, 1, false, false, false, false⟩, ⟨1, 3, 1, 1, 0, 64, 9, 1, false, false, false, false⟩]

def vd : Verdict := ⟨0, 1, true, 0, 0, true, []⟩

def vd1 : Verdict := { vd with bank := false, rank := 1 }

def sver : State := { st1 with blk := { b1 with refresh := { b1.refresh with verdicts := [vd, vd1] } } }

def man1 : Manifest := (b1.manifest 0 0 1 true).get (by decide +kernel)

def shd : State := sq fun u => { u with holdDue := some 0, waiting := true }

def shl : State := sb fun b => { b.modCtx 0 fun x => { x with holds := 1 } with refresh := { b.refresh with holder := [(0, 0)] } }

def x_bindBig : IFields := { iz with a := 2, imm := 256 }

def x_bindK : IFields := { iz with a := 2, k := 3 }

def x_flipled : Site := ⟨0, 1⟩

theorem met_BindAndPhase :
    (s0.Seen ∧ Blk.quickGoes s0.aon s0.blk p0 (epochBindQuick p0 ibind) = true) ∧
    (Blk.clear s0.aon s0.blk p0 x_bindBig.g (epochBindQuick p0 x_bindBig).regs = true ∧ Blk.slotsFor s0.aon s0.blk p0 ≠ 0
      ∧ (s0.blk.que p0).chargeFaults Cls.other 1 = [] ∧ (2 ≤ x_bindBig.k.toNat ∨ 256 ≤ BitVec.toNat (if x_bindBig.k = 0
      then x_bindBig.imm else (s0.blk.ctx p0.ctx).s p0.queue (BitVec.ofNat 5 x_bindBig.b.toNat)))) ∧
    (Blk.clear s0.aon s0.blk p0 x_bindK.g (epochBindQuick p0 x_bindK).regs = true ∧ Blk.slotsFor s0.aon s0.blk p0 ≠ 0 ∧
      (s0.blk.que p0).chargeFaults Cls.other 1 = [] ∧ (2 ≤ x_bindK.k.toNat ∨ 256 ≤ BitVec.toNat (if x_bindK.k = 0 then
      x_bindK.imm else (s0.blk.ctx p0.ctx).s p0.queue (BitVec.ofNat 5 x_bindK.b.toNat)))) ∧
    (s0.Seen ∧ Blk.quickGoes s0.aon s0.blk p0 (govPhaseQuick rphase) = true) :=
  ⟨⟨rfl, (by decide +kernel)⟩, ⟨(by decide +kernel), (by decide +kernel), (by decide +kernel), (Or.inr
    (by decide +kernel))⟩, ⟨(by decide +kernel), (by decide +kernel), (by decide +kernel), (Or.inl (by decide +kernel))⟩,
    ⟨rfl, (by decide +kernel)⟩⟩

theorem met_FlipsReadyAndComplete :
    (st1.Seen ∧ Blk.clear st1.aon st1.blk p0 rflip.g [regEf rflip.a] = true ∧ st1.blk.flipAt p0 = none ∧ rflip.a.toNat < 4
      ∧ anyUsed [rflip.b, rflip.c, rflip.d, rflip.e, rflip.f, rflip.gg, rflip.h, rflip.i] = false ∧ rflip.m ≠ 0 ∧
      rflip.m.toNat < 8 ∧ st1.blk.badLayer (st1.blk.ctx p0.ctx) rflip.a = false) ∧
    (st1.Seen ∧ Blk.clear st1.aon st1.blk p0 rflip4.g [regEf rflip4.a] = true ∧ st1.blk.flipAt p0 = none ∧ rflip4.a.toNat
      < 4 ∧ anyUsed [rflip4.b, rflip4.c, rflip4.d, rflip4.e, rflip4.f, rflip4.gg, rflip4.h, rflip4.i] = false ∧ rflip4.m ≠
      0 ∧ rflip4.m.toNat < 8 ∧ st1.blk.badLayer (st1.blk.ctx p0.ctx) rflip4.a = false) ∧
    (sflB.Seen ∧ Blk.clear sflB.aon sflB.blk p0 rflip.g [regEf rflip.a] = true ∧ sflB.blk.flipAt p0 = none ∧ rflip.a.toNat
      < 4 ∧ anyUsed [rflip.b, rflip.c, rflip.d, rflip.e, rflip.f, rflip.gg, rflip.h, rflip.i] = false ∧ rflip.m ≠ 0 ∧
      rflip.m.toNat < 8 ∧ sflB.blk.badLayer (sflB.blk.ctx p0.ctx) rflip.a = false) ∧
    (sflC.Seen ∧ Blk.clear sflC.aon sflC.blk x_flipled rflip.g [regEf rflip.a] = true ∧ sflC.blk.flipAt x_flipled = none ∧
      rflip.a.toNat < 4 ∧ anyUsed [rflip.b, rflip.c, rflip.d, rflip.e, rflip.f, rflip.gg, rflip.h, rflip.i] = false ∧
      rflip.m ≠ 0 ∧ rflip.m.toNat < 8 ∧ sflC.blk.badLayer (sflC.blk.ctx x_flipled.ctx) rflip.a = false) ∧
    (sfl3.blk.flipAt p0 = some fl3 ∧ fl3.behind = false ∧ fl3.toCheck = [] ∧ fl3.due = [] ∧ fl3.reasons = [] ∧ Blk.reqGoes
      sfl3.aon sfl3.blk p0 (flipReq p0 fl3) = true) ∧
    (sfl4.blk.flipFlight p0 = some ffl ∧ ffl.job = Job.flip 0 2 ∧ ffl.issued + 16 ≤ BitVec.toNat sfl4.blk.cycle ∧
      (sfl4.blk.ctx p0.ctx).alive = true ∧ (∀ f ∈ sfl4.blk.refresh.flips, f.behind = false)) :=
  ⟨⟨rfl, (by decide +kernel), rfl, (by decide), rfl, (by decide), (by decide), (by decide +kernel)⟩, ⟨rfl,
    (by decide +kernel), rfl, (by decide), rfl, (by decide), (by decide), (by decide +kernel)⟩, ⟨rfl, (by decide +kernel),
    rfl, (by decide), rfl, (by decide), (by decide), (by decide +kernel)⟩, ⟨rfl, (by decide +kernel), rfl, (by decide),
    rfl, (by decide), (by decide), (by decide +kernel)⟩, ⟨(by decide +kernel), rfl, rfl, rfl, rfl, (by decide +kernel)⟩,
    ⟨(by decide +kernel), rfl, (by decide +kernel), (by decide +kernel), (by decide +kernel)⟩⟩

theorem met_BankIsChecked :
    (sfl2.blk.flipChecking 0 1 = some fl2 ∧ ((sfl2.blk.table 0 1).bank (sfl2.blk.table 0 1).shadow).st = BankSt.filling ∧
      fl2.since < BitVec.toNat sfl2.blk.cycle ∧ sfl2.blk.bankBusy 0 1 (sfl2.blk.table 0 1).shadow fl2.since = false ∧
      sfl2.blk.malformed 0 1 (sfl2.blk.table 0 1).shadow = false ∧ sfl2.blk.manifest ((sfl2.blk.layerPart 0).getD 0) 0 1
      (sfl2.blk.table 0 1).shadow = some man1) ∧
    (spush.blk.refresh.swapDue.contains (0, 3) = false) ∧
    (sver.blk.refresh.verdicts = [vd, vd1] ∧ sver.blk.verdictNow = some vd ∧ (∀ x ∈ [vd1], x.rank ≠ vd.rank) ∧
      sver.blk.image vd.layer vd.kind vd.bank = Except.ok slotImg) :=
  ⟨⟨(by decide +kernel), (by decide +kernel), (by decide), (by decide +kernel), (by decide +kernel), (by decide +kernel)⟩,
    rfl, ⟨rfl, (by decide +kernel), (by decide +kernel), (by decide +kernel)⟩⟩

theorem met_HoldAndRelease :
    (Blk.clear s0.aon s0.blk p0 rz.g [regEf rz.a] = true ∧ s0.blk.badE1 p0 rz = false ∧ (s0.blk.que p0).holdDue = none ∧
      s0.blk.refresh.holder.find (BitVec.toNat ((s0.blk.ctx p0.ctx).layerE rz.a)) = none) ∧
    ((shd.blk.que p0).holdDue = some 0 ∧ Blk.reqGoes shd.aon shd.blk p0 (shd.blk.holdReq p0 rz 0) = true) ∧
    (Blk.quickGoes shl.aon shl.blk p0 (shl.blk.releaseQuick p0 rz) = true) :=
  ⟨⟨(by decide +kernel), (by decide +kernel), rfl, rfl⟩, ⟨rfl, (by decide +kernel)⟩, (by decide +kernel)⟩

/-! ### Commands of the array -/

def fp (l : List Nat) (m : Nat) : RFields :=
  let g := fun i => BitVec.ofNat 5 (l.getD i 0)
  { g := ⟨false, 0, 5⟩, a := g 0, b := g 1, c := g 2, d := g 3, e := g 4, f := g 5, gg := g 6, h := g 7, i := g 8, m := BitVec.ofNat 4 m }

def ftset : IFields := { iz with a := 17, imm := 0x2400000 }

def fcmb : CFields := { cz with g0 := 0, ng := 1, landing := 6, acc := 7, out := 8 }

/-- By opcode, operands with which a starter goes. -/
def startWits : List (Nat × RFields) :=
  [(0x29, fp [16, 25, 18, 26] 0), (0x30, fp [0, 25] 0), (0x31, fp [18, 19, 2] 0), (0x32, fp [18, 19] 0), (0x39, fp [16, 17, 4, 14] 0),
   (0x3A, fp [16, 17, 18] 0), (0x3B, fp [16, 17, 18] 1), (0x49, fp [1, 1] 0), (0x4A, fp [1] 0), (0x50, fp [1, 16, 0, 0] 0),
   (0x51, fp [1, 16, 0, 0] 0), (0x52, fp [1, 1] 0)] ++ ([0x53, 0x54, 0x55, 0x57, 0x58, 0x59].map fun o => (o, fp [1, 2, 3] 1))
  ++ [(0x56, fp [1, 2, 3, 4] 0), (0x5A, fp [1, 2, 3, 4] 0), (0x5B, fp [1, 2] 2)]
  ++ ((List.range 11).map fun i => (0x60 + i, fp [16, 20] 1)) ++ [(0x6B, fp [16, 20, 17] 1), (0x70, fp [16, 21, 3] 0),
   (0x71, fp [16, 21, 17] 0), (0x72, fp [16, 21] 0), (0x73, fp [16, 21] 0), (0x74, fp [16, 21, 17] 0), (0x78, fp [16] 0), (0x79, fp [17, 1, 2, 3] 1)]

def goesAt (st : State) (o : Nat) (f : RFields) : Bool :=
  (starters st.aon st.blk p0 f ftset fcmb).any fun x => x.op = o && st.blk.reqGoes st.aon p0 x.r

/-! ### Gating -/

def fscore : RFields := { rz with a := 24, c := 0 }

def fsel : RFields := { rz with b := 1, c := 28 }

def wsel : Quad := encR 0x28 fsel

def dCap : Dispatch := { d0 with counts := [] }

def ffl_2 : Flight := { ctx := 0, queue := 0, qidx := 0, word := encR 0x1B rz, issued := 99, ledger := 16, suspended := none, suspTotal := 0, tiles := 0, stretch := 0, units := [], binds := [], arith := 0, tag := 0, dp := 0, pend := [], bankRd := 0, bankWr := 0, reads := [], writes := [], fx := [], job := .plain, energy := 0, tile := [], stale := false, moved := none, before := 0, tiles0 := 0, bubbled := 0 }

def scS : Scoring := ⟨0, false, 2, 1, [⟨0, 0, 9, 1, [⟨0, 0, 0, 0x3F000000⟩, ⟨1, 0, 0, 0x3F000000⟩]⟩], [[0x3F000000, 0x3F000000]], 0, ⟨0, 0, false, 1⟩⟩

def flS : Flight := { ffl_2 with word := encR 0x20 fscore, units := [.gate], job := .score scS }

def sScored : State := { sP with blk := { (sP.blk.modQue p0 fun u => { u with pc := 1, pairOpen := true }) with flights := [flS] } }

theorem met_PairsStart :
    (Blk.pairGoes sP.aon sP.blk p0 (encR (32 + ↑0) fscore) wsel fscore (sP.blk.scoreBad p0 fscore) (scoreRegs p0 fscore)
      (sP.blk.scoreIn (sP.blk.ctx p0.ctx) p0 (↑0) fscore) = true ∧ sP.blk.intact 18 = true) :=
  ⟨(by decide +kernel), (by decide +kernel)⟩

theorem met_SelectStarts :
    (Blk.open sScored.aon sScored.blk p0 = true ∧ (sScored.blk.que p0).pairOpen = true ∧ sScored.blk.pairMate p0 = some
      flS ∧ flS.job = Job.score scS ∧ sScored.blk.selWaits (sScored.blk.ctx p0.ctx) (sScored.blk.selIn (sScored.blk.ctx
      p0.ctx) p0 scS.layer fsel) scS.layer = false ∧ sScored.blk.selFaults (sScored.blk.ctx p0.ctx) (sScored.blk.selIn
      (sScored.blk.ctx p0.ctx) p0 scS.layer fsel) scS.layer scS.tokens.length scS.e = []) :=
  ⟨(by decide +kernel), rfl, (by decide +kernel), rfl, (by decide +kernel), (by decide +kernel)⟩

theorem met_CapacityHolds :
    (dCap.cap ≤ 2 ^ 20 ∧ (∀ (k : ℕ), dCap.counts.get k 0 ≤ dCap.cap)) :=
  ⟨(by decide), (fun k => Nat.zero_le _)⟩

/-! ### Sends, lanes, completion -/

def fsend : RFields := { rz with b := 24, c := 26, d := 0 }

def xs0 : Sending := { layer := 0, seq := 1, group := 0, opens := [], todo := [0], tokens := tens 4 0 32 1, list := tens 10 7 32 1, r0 := 0, rows := 1, layout := 0 }

def flSend : Flight := { fl0 with word := encR 0x38 fsend, units := [.outbound], job := .send xs0 }

def sSend : State := { sPlaced with blk := { sPlaced.blk with flights := [flSend] } }

def kSend : Packet := match sSend.blk.nextDeal d1 xs0 0 with
  | .ok k => k
  | .error _ => ⟨sSend.blk.header 1 0 0 0 0 0, []⟩

def dCred : Dispatch := { d1 with credits := [(0, 9)] }

def eDeal : Egress := ⟨some 0, kSend, 0⟩

def sRing : State := { sPlaced with blk := { sPlaced.blk with disps := [dCred], exch := { sPlaced.blk.exch with rings := sPlaced.blk.exch.rings.wr 0 [eDeal] } } }

def sRing0 : State := { sRing with blk := { sRing.blk with disps := [d1] } }

/-- A dispatch with a CLAIM outstanding. -/
def dClm : Dispatch := { d1 with claims := [(0, 17)] }

def sRing1 : State := { sRing with blk := { sRing.blk with disps := [dClm] } }

/-- A packet for another package whose far port recovers, with a far queue that is full. -/
def eFar : Egress := ⟨none, ⟨hd 4 0 8, []⟩, 0⟩

def sRingF : State :=
  { s0 with blk := { (b1.setReg 0x36C 1 1).setLink 0 { Link.reset with st := .recover, wait := [{ ctx := none, vc := 0, size := 32768, left := List.replicate 32768 0, far := true, hurt := [], out := .stretch 0 }] } with
      exch := { b1.exch with rings := b1.exch.rings.wr 2 [eFar] } } }

def fln (l : List Nat) (m : Nat) : RFields :=
  let g := fun i => BitVec.ofNat 5 (l.getD i 0)
  { g := ⟨false, 0, 5⟩, a := g 0, b := g 1, c := g 2, d := g 3, e := 0, f := 0, gg := 0, h := 0, i := 0, m := BitVec.ofNat 4 m }

def fl2_2 : RFields := fln [1, 2, 3] 1

def fl1 : RFields := fln [1, 2, 3] 0

def fl3_2 : RFields := fln [1, 2, 3, 4] 0

def flb : RFields := fln [1, 7] 0

def flv : RFields := fln [1, 2] 2

def vs : List Word := (List.range 1024).map fun i => BitVec.ofNat 32 (i * 0x3001001)

def vs' : List Word := (List.range 1024).map fun i => BitVec.ofNat 32 (0x40000000 + i * 0x3001)

def sV : State := { sD with blk := sD.blk.modQue p0 fun u => { u with vregs := [(2, vs), (3, vs')] } }

def flX : Flight := { fl0 with dp := 5, pend := [regP 5], fx := [.write .scratch 0 [1, 2, 3, 4], .sreg 4 77], energy := 12, issued := 10 }

def sX : State := sF [flX]

def cX : Blk := ((sX.blk.noteReads flX.reads).applyFx flX flX.fx).1

def flY : Flight := { flX with issued := 999999 }

def sY : State := sF [flY]

def x_vadd : Instr × Req × (Word → Word → Word) × (Word → Word → Word) := (laneOps sV.blk p0 fl2_2).get ⟨0, by decide⟩

def x_vsub : Instr × Req × (Word → Word → Word) × (Word → Word → Word) := (laneOps sV.blk p0 fl2_2).get ⟨1, by decide⟩

def x_vmul : Instr × Req × (Word → Word → Word) × (Word → Word → Word) := (laneOps sV.blk p0 fl2_2).get ⟨2, by decide⟩

def x_vmax : Instr × Req × (Word → Word → Word) × (Word → Word → Word) := (laneOps sV.blk p0 fl2_2).get ⟨3, by decide⟩

def x_vmin : Instr × Req × (Word → Word → Word) × (Word → Word → Word) := (laneOps sV.blk p0 fl2_2).get ⟨4, by decide⟩

def x_vaddf : Instr × Req × (Word → Word → Word) × (Word → Word → Word) := (laneOps sV.blk p0 fl1).get ⟨0, by decide⟩

def x_vmaxf : Instr × Req × (Word → Word → Word) × (Word → Word → Word) := (laneOps sV.blk p0 fl1).get ⟨3, by decide⟩

theorem met_SendsAndDeals :
    (Blk.reqGoes sPlaced.aon sPlaced.blk p0 (sPlaced.blk.sendReq p0 fsend) = true) ∧
    (sSend.blk.sendOf p0 = some (flSend, xs0) ∧ sSend.blk.dispOf p0.ctx xs0.layer xs0.seq = some d1 ∧ flSend.suspended =
      none ∧ sSend.blk.failingUnit flSend = none ∧ (sSend.blk.ctx p0.ctx).alive = true ∧ xs0.opens = [] ∧ xs0.todo = [0] ∧
      sSend.blk.nextDeal d1 xs0 0 = Except.ok kSend ∧ sSend.blk.ringRoom (ringOfInst kSend.hdr.dst) kSend.size = true ∧
      d1.staging kSend.hdr.slot.toNat = false) ∧
    (sRing.blk.exch.rings.rd 0 = [eDeal] ∧ sRing.blk.heldFar eDeal.k = false ∧ sRing.blk.dispOfEgress eDeal = some dCred ∧
      (sRing.blk.readArray 20 (eDeal.holds 0)).2 = false ∧ (dCred.creditNeed eDeal.k).1 ≤ dCred.credits.get (odKey
      eDeal.k.hdr.dst eDeal.k.hdr.die) 0) ∧
    (sRing0.blk.exch.rings.rd 0 = [eDeal] ∧ sRing0.blk.heldFar eDeal.k = false ∧ sRing0.blk.dispOfEgress eDeal = some d1 ∧
      d1.aborted = false ∧ d1.credits.get (odKey eDeal.k.hdr.dst eDeal.k.hdr.die) 0 < (d1.creditNeed eDeal.k).1 ∧
      sRing0.Seen) ∧
    (sRing1.blk.exch.rings.rd 0 = [eDeal] ∧ sRing1.blk.heldFar eDeal.k = false ∧ sRing1.blk.dispOfEgress eDeal = some dClm
      ∧ dClm.aborted = false ∧ dClm.credits.get (odKey eDeal.k.hdr.dst eDeal.k.hdr.die) 0 < (dClm.creditNeed eDeal.k).1 ∧
      sRing1.Seen) ∧
    (sRingF.blk.exch.rings.rd 2 = [eFar] ∧ sRingF.Seen ∧ sRingF.blk.heldFar eFar.k = true) :=
  ⟨(by decide +kernel), ⟨rfl, rfl, rfl, rfl, (by decide +kernel), rfl, rfl, (by decide +kernel), (by decide +kernel),
    (by decide +kernel)⟩, ⟨rfl, (by decide +kernel), (by decide +kernel), (by decide +kernel), (by decide +kernel)⟩, ⟨rfl,
    (by decide +kernel), (by decide +kernel), rfl, (by decide +kernel), rfl⟩, ⟨rfl, (by decide +kernel),
    (by decide +kernel), rfl, (by decide +kernel), rfl⟩, ⟨rfl, rfl, (by decide +kernel)⟩⟩

theorem met_ExchangeStepsComplete_1 :
    (Blk.reqGoes sPlaced.aon sPlaced.blk p0 (sPlaced.blk.sendReq p0 fsend) = true) ∧
    (sSend.blk.sendOf p0 = some (flSend, xs0) ∧ sSend.blk.dispOf p0.ctx xs0.layer xs0.seq = some d1 ∧ flSend.suspended =
      none ∧ sSend.blk.failingUnit flSend = none ∧ (sSend.blk.ctx p0.ctx).alive = true ∧ xs0.opens = [] ∧ xs0.todo = [0] ∧
      sSend.blk.nextDeal d1 xs0 0 = Except.ok kSend ∧ sSend.blk.ringRoom (ringOfInst kSend.hdr.dst) kSend.size = true ∧
      d1.staging kSend.hdr.slot.toNat = false) ∧
    (sRing.blk.exch.rings.rd 0 = [eDeal] ∧ sRing.blk.heldFar eDeal.k = false ∧ sRing.blk.dispOfEgress eDeal = some dCred ∧
      (sRing.blk.readArray 20 (eDeal.holds 0)).2 = false ∧ (dCred.creditNeed eDeal.k).1 ≤ dCred.credits.get (odKey
      eDeal.k.hdr.dst eDeal.k.hdr.die) 0) :=
  ⟨(by decide +kernel), ⟨rfl, rfl, rfl, rfl, (by decide +kernel), rfl, rfl, (by decide +kernel), (by decide +kernel),
    (by decide +kernel)⟩, ⟨rfl, (by decide +kernel), (by decide +kernel), (by decide +kernel), (by decide +kernel)⟩⟩

theorem met_LaneResults_1 :
    (x_vadd ∈ laneOps sV.blk p0 fl2_2 ∧ Blk.reqGoes sV.aon sV.blk p0 x_vadd.2.1 = true) ∧
    (x_vsub ∈ laneOps sV.blk p0 fl2_2 ∧ Blk.reqGoes sV.aon sV.blk p0 x_vsub.2.1 = true) ∧
    (x_vmul ∈ laneOps sV.blk p0 fl2_2 ∧ Blk.reqGoes sV.aon sV.blk p0 x_vmul.2.1 = true) ∧
    (x_vmax ∈ laneOps sV.blk p0 fl2_2 ∧ Blk.reqGoes sV.aon sV.blk p0 x_vmax.2.1 = true) ∧
    (x_vmin ∈ laneOps sV.blk p0 fl2_2 ∧ Blk.reqGoes sV.aon sV.blk p0 x_vmin.2.1 = true) ∧
    (x_vaddf ∈ laneOps sV.blk p0 fl1 ∧ Blk.reqGoes sV.aon sV.blk p0 x_vaddf.2.1 = true) ∧
    (x_vmaxf ∈ laneOps sV.blk p0 fl1 ∧ Blk.reqGoes sV.aon sV.blk p0 x_vmaxf.2.1 = true) ∧
    (Blk.reqGoes sV.aon sV.blk p0 (sV.blk.vbcastReq p0 flb) = true) :=
  ⟨⟨(List.getElem_mem _), (by decide +kernel)⟩, ⟨(List.getElem_mem _), (by decide +kernel)⟩, ⟨(List.getElem_mem _),
    (by decide +kernel)⟩, ⟨(List.getElem_mem _), (by decide +kernel)⟩, ⟨(List.getElem_mem _), (by decide +kernel)⟩,
    ⟨(List.getElem_mem _), (by decide +kernel)⟩, ⟨(List.getElem_mem _), (by decide +kernel)⟩, (by decide +kernel)⟩

theorem met_LaneResults_2 :
    (Blk.reqGoes sV.aon sV.blk p0 (sV.blk.vfmaReq p0 fl3_2) = true) ∧
    (Blk.reqGoes sV.aon sV.blk p0 (sV.blk.vcmpReq p0 fl1) = true) ∧
    (Blk.reqGoes sV.aon sV.blk p0 (sV.blk.vselReq p0 fl3_2) = true) ∧
    (Blk.reqGoes sV.aon sV.blk p0 (sV.blk.vcvtReq p0 flv) = true) :=
  ⟨(by decide +kernel), (by decide +kernel), (by decide +kernel), (by decide +kernel)⟩

theorem met_CommandsComplete :
    (sX.blk.flightAt p0 0 = some flX ∧ flX.job = Job.plain ∧ sX.blk.mayComplete flX = true ∧ (sX.blk.noteReads
      flX.reads).failingUnit flX = none ∧ (sX.blk.noteReads flX.reads).applyFx flX flX.fx = (cX, none)) ∧
    (sY.Seen ∧ sY.blk.flightAt p0 0 = some flY ∧ flY.job = Job.plain ∧ flY.ran (BitVec.toNat sY.blk.cycle) < flY.ledger) :=
  ⟨⟨rfl, rfl, (by decide +kernel), (by decide +kernel), (by decide +kernel)⟩, ⟨rfl, rfl, rfl, (by decide +kernel)⟩⟩

/-! ### Memory -/

def bFill : Blk := { b1 with refresh := { b1.refresh with tables := [(0, ⟨1, false, ⟨.active, 0, 0x1000, 9, []⟩, ⟨.free, 0, 0x1000, 0, []⟩⟩)] } }

def cFill : Blk := match bFill.wrStack 0x2100 [1, 2, 3] with
  | .ok c => c
  | .error _ => bFill

def mZ : Mem := { b0.mem with scratch := [(0, 7), (5, 9)] }

def nZ : Mem := match mZ.wrScratch 3 [1, 0, 0] with
  | .ok c => c
  | .error _ => mZ

theorem met_MemoryWrites :
    (bFill.mem.stack.wf = true ∧ bFill.wrStack 8448 [1, 2, 3] = Except.ok cFill) ∧
    ((∃ x ∈ b1.bankHits 4352 [1, 2, 3].length, ((b1.table x.1 x.2.1).bank x.2.2.1).st ≠ BankSt.free ∧ ((b1.table x.1
      x.2.1).bank x.2.2.1).st ≠ BankSt.filling)) ∧
    (mZ.scratch.wf = true ∧ mZ.wrScratch 3 [1, 0, 0] = Except.ok nZ) ∧
    (mZ.flips = []) :=
  ⟨⟨(by decide +kernel), (by decide +kernel)⟩, (by decide +kernel), ⟨(by decide +kernel), rfl⟩, rfl⟩

/-! ### The owner -/

def pay1 : List Byte := [1, 2, 3]

def kDeal : Packet := ⟨{ hd 1 1 0 with bytes := 3, crc := crc32c pay1 }, pay1⟩

def kDealBad : Packet := ⟨{ hd 1 1 0 with bytes := 3, crc := 77 }, pay1⟩

def kOpen : Packet := ⟨{ hd 4 1 0 with die := 3, position := 512, gidx := 2, hand := 1 }, []⟩

def kClaim : Packet := ⟨{ hd 7 1 0 with gidx := 128 }, []⟩

def kEnd : Packet := ⟨{ hd 5 1 0 with gidx := 1, position := 1 }, []⟩

def kAbort : Packet := ⟨{ hd 10 1 0 with die := 3 }, []⟩

def kFetch : Packet := ⟨hd 2 1 0, []⟩

def kb : KBody := { src := 1, part := 0, seq := 1, group := 0 }

def in1 : InDisp := { in0 with discarded := true, work := [] }

theorem met_OwnerTakesAndGrants :
    (kDeal.hdr.dst = (sO [in0]).blk.self ∧ kDeal.malformed 1 = false ∧ (sO [in0]).blk.inDisp kDeal.hdr = some in0 ∧
      in0.discarded = false) ∧
    (kDealBad.hdr.dst = (sO [in0]).blk.self ∧ kDealBad.malformed 1 = false ∧ (sO [in0]).blk.inDisp kDealBad.hdr = some in0
      ∧ in0.discarded = false) ∧
    (kOpen.hdr.dst = (sO []).blk.self ∧ kOpen.malformed 4 = false ∧ (sO []).blk.inDisp kOpen.hdr = none) ∧
    (kClaim.hdr.dst = (sO [in0]).blk.self ∧ kClaim.malformed 7 = false ∧ (sO [in0]).blk.inDisp kClaim.hdr = some in0 ∧
      in0.opened = true ∧ in0.discarded = false ∧ in0.lastEnd.contains kClaim.hdr.die = false ∧ (sO [in0]).blk.exch.claimQ
      = [] ∧ (∀ x ∈ (sO [in0]).blk.exch.inDisps, x.owed.get kClaim.hdr.die.toNat 0 = 0) ∧ BitVec.toNat kClaim.hdr.gidx /
      64 ≤ (sO [in0]).blk.freeUnits kClaim.hdr.die ∧ (sO [in0]).blk.freeUnits kClaim.hdr.die ≠ 0) ∧
    (kClaim.hdr.dst = (sO []).blk.self ∧ kClaim.malformed 7 = false ∧ (sO []).blk.inDisp kClaim.hdr = none) ∧
    (kEnd.hdr.dst = (sO [in0]).blk.self ∧ kEnd.malformed 5 = false ∧ (sO [in0]).blk.inDisp kEnd.hdr = some in0 ∧
      in0.discarded = false ∧ kEnd.hdr.position.getLsbD 0 = true) :=
  ⟨⟨rfl, rfl, rfl, rfl⟩, ⟨rfl, rfl, rfl, rfl⟩, ⟨rfl, rfl, rfl⟩, ⟨rfl, rfl, rfl, rfl, rfl, rfl, rfl, (by decide +kernel),
    (by decide +kernel), (by decide +kernel)⟩, ⟨rfl, rfl, rfl⟩, ⟨rfl, rfl, rfl, rfl, rfl⟩⟩

theorem met_OwnerEndsDispatches :
    (kAbort.hdr.dst = (sO [in0]).blk.self ∧ kAbort.malformed 10 = false) ∧
    (kAbort.hdr.dst = (sO []).blk.self ∧ kAbort.malformed 10 = false) ∧
    ((sO [in1]).blk.inDisp (bodyName kb 0) = some in1 ∧ in1.discarded = true) ∧
    ((sO [in0]).blk.inDisp (bodyName kb 0) = some in0 ∧ in0.discarded = false) :=
  ⟨⟨rfl, rfl⟩, ⟨rfl, rfl⟩, ⟨rfl, rfl⟩, ⟨rfl, rfl⟩⟩

/-! ### Sources, rows and weights -/

def bUp : Blk := (bO.setLink 8 { Link.reset with st := .up }).setLink 0 { Link.reset with st := .up }

def sUp : State := { s0 with blk := bUp }

def sSplit : State := { s0 with blk := bUp.setReg 0x114 0 0x03000000 }

def kPart : Packet := ⟨{ hd 3 0 1 with bytes := 2 }, [1, 2]⟩

def j0 : SplitJob := ⟨kFetch, [0, 1], []⟩

def j1 : SplitJob := ⟨kFetch, [0, 1], [(1, kPart)]⟩

def sJob : State := { s0 with blk := { bUp with exch := { bUp.exch with splits := [j0] } } }

def sJob1 : State := { s0 with blk := { bUp with exch := { bUp.exch with splits := [j1] } } }

def dSrc : Dispatch := { d1 with claims := [(4, 17)], groups := [{ gr0 with ended := true, ready := [(1, 0, some 17)] }] }

def sSrc : State := { sPlaced with blk := { sPlaced.blk with disps := [dSrc] } }

def kGrant : Packet := ⟨{ hd 6 1 0 with gidx := 3, position := 1 }, []⟩

def kGrant0 : Packet := ⟨{ hd 6 1 0 with gidx := 3 }, []⟩

def kReady : Packet := ⟨hd 8 1 0, []⟩

def kBounce : Packet := ⟨{ hd 9 1 0 with crc := 3 }, []⟩

def aw0 : Await := { hdr := hd 2 0 1, bytes := 2, sent := none, landed := none }

def aw1 : Await := { aw0 with sent := some 17 }

def flR (a : Await) : Flight := { fl0 with word := encR 0x3A rz, job := .remote (tens 0 4 32 2) (tens 1 4 32 2) [a] }

def sAw (a : Await) : State := sF [flR a]

def kRet : Packet := ⟨{ hd 3 1 0 with bytes := 2, crc := crc32c [4, 5] }, [4, 5]⟩

def kRetBad : Packet := ⟨{ hd 3 1 0 with bytes := 2, crc := 9 }, [4, 5]⟩

def sFar : State := { s0 with blk := bUp.setReg 0x36C 1 1 }

def sFarR : State := { s0 with blk := sFar.blk.setLink 0 { Link.reset with st := .recover } }

def sFarF : State := { s0 with blk := sFar.blk.setLink 0 { Link.reset with st := .recover, wait := [{ ctx := none, vc := 0, size := 32768, left := List.replicate 32768 0, far := true, hurt := [], out := .stretch 0 }] } }

def awF : Await := { aw1 with hdr := { hd 2 0 1 with slot := 0xFFF } }

def kBounceR : Packet := ⟨{ kBounce.hdr with slot := 0xFFF }, []⟩

def kFar : Packet := ⟨hd 6 0 8, []⟩

def pu0 : Push := ⟨0, 0, 0, 0, 0, 64, 9, 1, false, true, false, false⟩

def pu1 : Push := ⟨0, 0, 5, 0, 0, 64, 9, 1, true, true, false, false⟩

def sPush : State := { s0 with blk := b1.setPushes [pu0, pu1] }

def sMoon : State := { s0 with blk := { b1.setEph 0 0 { Eph.reset with plan := [⟨1, 0, 3, false, false, false, 9⟩] } with exch := { b1.exch with berths := [⟨0, 0, 3, 1, false⟩] } } }

def sStage : State := { s0 with blk := { b1 with exch := { b1.exch with staging := [(3, [1, 2, 3])] } } }

def late (s : State) : State := { s with blk := s.blk.setReg 0x370 0 0x300001 }

def x_writtenM : BerthImg := ⟨0, 0, 3, 1, false⟩

theorem met_OwnerServesFetches :
    (sUp.Seen ∧ kFetch.hdr.dst = sUp.blk.self ∧ kFetch.malformed 2 = false ∧ kFetch.hdr.slot ≠ 4095 ∧ sUp.blk.inDisp
      kFetch.hdr = none ∧ sUp.blk.splits kFetch.hdr = false ∧ sUp.blk.exch.held = [] ∧ sUp.blk.usable (Port.k
      kFetch.hdr.die) = true) ∧
    (kFetch.hdr.dst = sSplit.blk.self ∧ kFetch.malformed 2 = false ∧ kFetch.hdr.slot ≠ 4095 ∧ sSplit.blk.inDisp kFetch.hdr
      = none ∧ sSplit.blk.splits kFetch.hdr = true) ∧
    (List.find? (fun j => j.takes 0 kPart.hdr) sJob.blk.exch.splits = some j0) ∧
    (List.find? (fun j => j.takes 0 kPart.hdr) sJob1.blk.exch.splits = some j1) :=
  ⟨⟨rfl, rfl, rfl, (by decide), rfl, rfl, rfl, rfl⟩, ⟨rfl, rfl, (by decide), rfl, rfl⟩, rfl, rfl⟩

theorem met_SourceTakesCredit :
    (kGrant.hdr.dst = sSrc.blk.self ∧ kGrant.malformed 6 = false ∧ sSrc.blk.liveDisp kGrant.hdr = some dSrc) ∧
    (kGrant0.hdr.dst = sSrc.blk.self ∧ kGrant0.malformed 6 = false ∧ sSrc.blk.liveDisp kGrant0.hdr = some dSrc) ∧
    (kReady.hdr.dst = sSrc.blk.self ∧ kReady.malformed 8 = false ∧ sSrc.blk.liveDisp kReady.hdr = some dSrc ∧ List.filter
      (fun e => e.named kReady.hdr) sSrc.blk.disps = [dSrc]) :=
  ⟨⟨rfl, rfl, rfl⟩, ⟨rfl, rfl, rfl⟩, ⟨rfl, rfl, rfl, rfl⟩⟩

theorem met_SourceFaults :
    (kBounce.hdr.dst = sSrc.blk.self ∧ kBounce.malformed 9 = false ∧ kBounce.hdr.slot ≠ 4095 ∧ (sSrc.blk.awaiting fun a =>
      a.refused kBounce.hdr) = none ∧ sSrc.blk.liveDisp kBounce.hdr = some dSrc) ∧
    (kBounceR.hdr.dst = (sAw awF).blk.self ∧ kBounceR.malformed 9 = false ∧ ((sAw awF).blk.awaiting fun a => a.refused
      kBounceR.hdr) = some (flR awF, awF)) ∧
    (kRetBad.hdr.dst = (sAw aw1).blk.self ∧ kRetBad.malformed 3 = false ∧ ((sAw aw1).blk.awaiting fun a => a.answers
      kRetBad.hdr) = some (flR aw1, aw1) ∧ ((sAw aw1).blk.wear 29).failing = []) ∧
    ((late sSrc).blk.waitingSince 0 0 (WaitFor.ready 1 0 0) = some 17 ∧ 17 + (late sSrc).blk.exchTimeoutCycles <
      BitVec.toNat (late sSrc).blk.cycle ∧ ((late sSrc).blk.ctx 0).alive = true) ∧
    ((late sSrc).blk.waitingSince 0 0 (WaitFor.claim 1 0) = some 17 ∧ 17 + (late sSrc).blk.exchTimeoutCycles <
      BitVec.toNat (late sSrc).blk.cycle ∧ ((late sSrc).blk.ctx 0).alive = true) ∧
    ((late (sAw aw1)).blk.waitingSince 0 0 (WaitFor.fetch 0 0) = some 17 ∧ 17 + (late (sAw aw1)).blk.exchTimeoutCycles <
      BitVec.toNat (late (sAw aw1)).blk.cycle ∧ ((late (sAw aw1)).blk.ctx 0).alive = true) :=
  ⟨⟨rfl, rfl, (by decide), rfl, rfl⟩, ⟨rfl, rfl, rfl⟩, ⟨rfl, rfl, rfl, (by decide +kernel)⟩, ⟨rfl, (by decide +kernel),
    rfl⟩, ⟨rfl, (by decide +kernel), rfl⟩, ⟨rfl, (by decide +kernel), rfl⟩⟩

theorem met_RowsAndTransit :
    (List.find? (fun f => f.suspended.isNone && ((sAw aw0).blk.ctx f.ctx).alive && f.fetchDue) (sAw aw0).blk.flights =
      some (flR aw0) ∧ (flR aw0).job = Job.remote (tens 0 4 32 2) (tens 1 4 32 2) [aw0] ∧ (List.filter (fun a =>
      a.sent.isSome && a.landed.isNone) [aw0]).length < 256 ∧ List.find? (fun a => a.sent.isNone) [aw0] = some aw0 ∧ (sAw
      aw0).blk.ringRoom (ringOfInst aw0.hdr.dst) 32 = true) ∧
    (kRet.hdr.dst = (sAw aw1).blk.self ∧ kRet.malformed 3 = false ∧ ((sAw aw1).blk.awaiting fun a => a.answers kRet.hdr) =
      some (flR aw1, aw1) ∧ (flR aw1).job = Job.remote (tens 0 4 32 2) (tens 1 4 32 2) [aw1] ∧ ((sAw aw1).blk.wear
      29).failing = [] ∧ crc32c kRet.payload = kRet.hdr.crc ∧ kRet.hdr.fmt = aw1.hdr.fmt) ∧
    (sFar.blk.onward kFar = Except.ok (Port.l 0) ∧ sFar.blk.heldFar kFar = false) ∧
    (sFarR.blk.onward kFar = Except.ok (Port.l 0) ∧ sFarR.blk.heldFar kFar = false) ∧
    (sFarF.blk.onward kFar = Except.ok (Port.l 0) ∧ sFarF.Seen ∧ sFarF.blk.heldFar kFar = true) :=
  ⟨⟨rfl, rfl, (by decide), rfl, rfl⟩, ⟨rfl, rfl, rfl, rfl, rfl, rfl, rfl⟩, ⟨rfl, (by decide +kernel)⟩, ⟨rfl,
    (by decide +kernel)⟩, ⟨rfl, rfl, (by decide +kernel)⟩⟩

theorem met_ExchangeStepsComplete_2 :
    (kFetch.hdr.dst = sUp.blk.self ∧ kFetch.malformed 2 = false ∧ kFetch.hdr.slot ≠ 4095 ∧ sUp.blk.inDisp kFetch.hdr =
      none ∧ sUp.blk.exch.held = [] ∧ sUp.blk.usable (Port.k kFetch.hdr.die) = true) ∧
    (kFetch.hdr.dst = sSplit.blk.self ∧ kFetch.malformed 2 = false ∧ kFetch.hdr.slot ≠ 4095 ∧ sSplit.blk.inDisp kFetch.hdr
      = none ∧ sSplit.blk.exch.held = [] ∧ sSplit.blk.usable (Port.k kFetch.hdr.die) = true) ∧
    (List.find? (fun j => j.takes 0 kPart.hdr) sJob.blk.exch.splits = some j0) ∧
    (List.find? (fun j => j.takes 0 kPart.hdr) sJob1.blk.exch.splits = some j1) :=
  ⟨⟨rfl, rfl, (by decide), rfl, rfl, rfl⟩, ⟨rfl, rfl, (by decide), rfl, rfl, rfl⟩, rfl, rfl⟩

theorem met_WeightReports :
    ((BitVec.ofNat 16 32768).getLsbD 15 = true) ∧
    ((BitVec.ofNat 16 32768).getLsbD 15 = true ∧ sPush.blk.exch.held = [] ∧ List.find? (fun x => x.active && decide (x.die
      = 0) && decide (x.layer = 0) && decide (x.local' = 32768#11)) sPush.blk.refresh.pushes = some pu1) ∧
    ((BitVec.ofNat 16 32771).getLsbD 15 = true ∧ List.find? (fun x => decide (x.die = 0) && decide (x.layer = 0) && decide
      (x.berth = 32771#8)) sMoon.blk.exch.berths = some x_writtenM ∧ x_writtenM.old = false ∧ ((dropFirst (fun x => decide
      (x.die = 0) && decide (x.layer = 0) && decide (x.berth = 32771#8)) sMoon.blk.exch.berths).any fun x => decide (x.die
      = 0) && decide (x.layer = 0) && decide (x.berth = 32771#8)) = false) ∧
    (2 ≤ (sStage.blk.exch.staging.get (0 * 2048 + 3) []).length) :=
  ⟨rfl, ⟨rfl, rfl, rfl⟩, ⟨rfl, rfl, rfl, (by decide +kernel)⟩, (by decide)⟩

/-! ### Folds and comets -/

def ffold : RFields := { rz with a := 1, b := 2, c := 16, d := 17, e := 29 }

def fcomet : RFields := { rz with a := 1, b := 18, c := 19, d := 2, m := 4 }

def fcbar : RFields := { rz with a := 1 }

def payF : List Byte := (List.range 128).map fun i => BitVec.ofNat 8 (i % 4 * 16)

def pkF : FoldPkt := ⟨fh 1, payF, crc32c payF, 0⟩

def pkBad : FoldPkt := ⟨{ fh 1 with rev := 3 }, payF, 5, 0⟩

def pkR : FoldPkt := ⟨{ fh 2 with bytes := 2, piece := 2, chunk := 0, step := 0 }, [], 0, 0⟩

def ch0 : Chunk := { stage := 0, phase := false, index := 0x8000, step := 0, pieces := [⟨0, 0, 32, 0, 0, true, false, 0⟩], out := 32, data := List.replicate 32 (0 : Word), final := false, written := false, settled := false }

def seatN : Seat := { seat0 with chunks := [ch0] }

def pkN : FoldPkt := ⟨{ fh 3 with rev := 1, bytes := 0, chunk := 0x8000 }, [], 0, 0⟩

def pkE : FoldPkt := ⟨{ fh 4 with bytes := 1, mode := true, phase := true, chunk := 0x8000 }, [9], 0, 0⟩

def seatE : Seat := { seat0 with ordered := true }

def pkA : FoldPkt := ⟨{ fh 5 with bytes := 0 }, [], 0, 0⟩

def sGap : State := { sG with blk := { bG with cycle := 3000000, folds := { bG.folds with starts := [(0, 0, 0x500003, 17)] } } }

def sPeer : State := { sS seat0 with blk := { (sS seat0).blk with cycle := 3000000 } }

def sCt : State := { sC [com0] with blk := { (sC [com0]).blk with cycle := 3000000 } }

def cdBad : CometMsg := { cm 1 with crc := 1 }

def cdLate : State := { sG with blk := { bG with cycle := 3000000, comets := { bG.comets with starts := [(0, 0, 0x500003, 17)] } } }

def cabt : CometMsg := { cm 3 with len := 0, payload := [], crc := 0 }

def sHeld : State := { sG with blk := { bG with folds := { bG.folds with held := [pkF] } } }

def sHeldC : State := { sG with blk := { bG with comets := { bG.comets with held := [cm 1] } } }

def x_comet : Instr × Req × ℕ := (.cometReduce p0 fcomet, sG.blk.cometReduceReq p0 fcomet, 0x4C)

def x_cbar : Instr × Req × ℕ := (.cometBarrier p0 fcbar, cometBarrierReq p0 fcbar, 0x4D)

theorem met_CollectivesStart :
    (Blk.reqGoes sG.aon sG.blk p0 (sG.blk.foldStartReq p0 ffold) = true) ∧
    (x_comet ∈ [(Instr.cometReduce p0 fcomet, sG.blk.cometReduceReq p0 fcomet, 76), (Instr.cometBarrier p0 fcomet,
      cometBarrierReq p0 fcomet, 77)] ∧ Blk.reqGoes sG.aon sG.blk p0 x_comet.2.1 = true) ∧
    (x_cbar ∈ [(Instr.cometReduce p0 fcbar, sG.blk.cometReduceReq p0 fcbar, 76), (Instr.cometBarrier p0 fcbar,
      cometBarrierReq p0 fcbar, 77)] ∧ Blk.reqGoes sG.aon sG.blk p0 x_cbar.2.1 = true) :=
  ⟨(by decide +kernel), ⟨(List.mem_cons_self), (by decide +kernel)⟩, ⟨(List.mem_cons_of_mem _ List.mem_cons_self),
    (by decide +kernel)⟩⟩

theorem met_FoldPackets_1 :
    (pkF.hdr.kind = 1 ∧ (sS seat0).blk.foldWaits pkF = false ∧ (sS seat0).blk.dataSeat pkF.hdr = some 3 ∧ (sS
      seat0).blk.foldMisfit ((sS seat0).blk.seat 3) pkF.hdr = none ∧ (sS seat0).blk.ringPlace ((sS seat0).blk.seat 3)
      pkF.hdr = some (2, 0) ∧ ((sS seat0).blk.ctx ((sS seat0).blk.seat 3).ctx).alive = true ∧ stepFits 2 0 pkF.hdr ((sS
      seat0).blk.seat 3).dir = true ∧ pkF.hdr.wire.toNat = (sS seat0).blk.wireOf ((sS seat0).blk.seat 3)
      pkF.hdr.stage.toNat ∧ pkF.payload.length = pkF.hdr.bytes.toNat ∧ ((sS seat0).blk.pieceRun ((sS seat0).blk.seat 3)
      pkF).2 ≠ 0 ∧ ((sS seat0).blk.pieceRun ((sS seat0).blk.seat 3) pkF).1 + ((sS seat0).blk.pieceRun ((sS seat0).blk.seat
      3) pkF).2 ≤ ((sS seat0).blk.chunkRun ((sS seat0).blk.seat 3) pkF.hdr.stage.toNat pkF.hdr.chunk).2 ∧ (∀ q ∈ ((((sS
      seat0).blk.seat 3).chunkOf pkF.hdr.stage.toNat pkF.hdr.phase pkF.hdr.chunk).getD { ((sS seat0).blk.ownChunk ((sS
      seat0).blk.seat 3) pkF.hdr.stage.toNat pkF.hdr.phase pkF.hdr.chunk (List.replicate ((sS seat0).blk.chunkRun ((sS
      seat0).blk.seat 3) pkF.hdr.stage.toNat pkF.hdr.chunk).2 0) 0) with pieces := [] }).pieces, q.no ≠
      pkF.hdr.piece.toNat) ∧ crc32c pkF.payload = pkF.crc) ∧
    (pkBad.hdr.kind = 1 ∧ (sS seat0).blk.foldWaits pkBad = false ∧ (sS seat0).blk.dataSeat pkBad.hdr = some 3 ∧ (sS
      seat0).blk.foldMisfit ((sS seat0).blk.seat 3) pkBad.hdr = none ∧ (sS seat0).blk.ringPlace ((sS seat0).blk.seat 3)
      pkBad.hdr = some (2, 0) ∧ ((sS seat0).blk.ctx ((sS seat0).blk.seat 3).ctx).alive = true ∧ stepFits 2 0 pkBad.hdr
      ((sS seat0).blk.seat 3).dir = true ∧ pkBad.hdr.wire.toNat = (sS seat0).blk.wireOf ((sS seat0).blk.seat 3)
      pkBad.hdr.stage.toNat ∧ pkBad.payload.length = pkBad.hdr.bytes.toNat ∧ ((sS seat0).blk.pieceRun ((sS seat0).blk.seat
      3) pkBad).2 ≠ 0 ∧ ((sS seat0).blk.pieceRun ((sS seat0).blk.seat 3) pkBad).1 + ((sS seat0).blk.pieceRun ((sS
      seat0).blk.seat 3) pkBad).2 ≤ ((sS seat0).blk.chunkRun ((sS seat0).blk.seat 3) pkBad.hdr.stage.toNat
      pkBad.hdr.chunk).2 ∧ (∀ q ∈ ((((sS seat0).blk.seat 3).chunkOf pkBad.hdr.stage.toNat pkBad.hdr.phase
      pkBad.hdr.chunk).getD { ((sS seat0).blk.ownChunk ((sS seat0).blk.seat 3) pkBad.hdr.stage.toNat pkBad.hdr.phase
      pkBad.hdr.chunk (List.replicate ((sS seat0).blk.chunkRun ((sS seat0).blk.seat 3) pkBad.hdr.stage.toNat
      pkBad.hdr.chunk).2 0) 0) with pieces := [] }).pieces, q.no ≠ pkBad.hdr.piece.toNat) ∧ crc32c pkBad.payload ≠
      pkBad.crc ∧ pkBad.hdr.rev = 3) ∧
    (pkR.hdr.kind = 2 ∧ pkR.hdr.dst = (sS seat0).blk.self ∧ (sS seat0).blk.foldWaits pkR = false ∧ (sS seat0).blk.seatsOf
      pkR.hdr.id ≠ [] ∧ (sS seat0).blk.readySeat pkR.hdr = some 3 ∧ (sS seat0).blk.foldMisfit ((sS seat0).blk.seat 3)
      pkR.hdr = none ∧ ((sS seat0).blk.ctx ((sS seat0).blk.seat 3).ctx).alive = true) ∧
    (pkR.hdr.kind = 2 ∧ pkR.hdr.dst = (sS seat0).blk.self ∧ (sS seat0).blk.foldWaits pkR = false ∧ (sS seat0).blk.seatsOf
      pkR.hdr.id ≠ [] ∧ (sS seat0).blk.readySeat pkR.hdr = some 3 ∧ (sS seat0).blk.foldMisfit ((sS seat0).blk.seat 3)
      pkR.hdr = none ∧ ((sS seat0).blk.ctx ((sS seat0).blk.seat 3).ctx).alive = true ∧ ((sS seat0).blk.grp ((sS
      seat0).blk.seat 3).grp).tiered = false ∧ (∀ m ∈ (sS seat0).blk.seatsOf pkR.hdr.id, ((sS seat0).blk.seat m).chunks =
      [] ∧ ((sS seat0).blk.seat m).loads = 0 ∧ ((sS seat0).blk.seat m).bufs = [] ∧ ((sS seat0).blk.seat m).ordered = false
      ∧ ((sS seat0).blk.seat m).entry = ((sS seat0).blk.seat 3).entry)) ∧
    (pkR.hdr.kind = 2 ∧ pkR.hdr.dst = sG.blk.self ∧ sG.blk.seatsOf pkR.hdr.id = [] ∧ sG.blk.entryOf pkR.hdr.id = some 2 ∧
      (seqBehind (sG.blk.fgroup 2).nextSeq (seqOf pkR.hdr.id) = 0 ∨ 2 ^ 19 < seqBehind (sG.blk.fgroup 2).nextSeq (seqOf
      pkR.hdr.id)) ∧ sG.blk.foldWaits pkR = false) ∧
    (pkN.hdr.kind = 3 ∧ (sS seatN).blk.foldWaits pkN = false ∧ pkN.hdr.rev.toNat < 3 ∧ (sS seatN).blk.dirSeat pkN.hdr =
      some 3 ∧ (sS seatN).blk.foldMisfit ((sS seatN).blk.seat 3) pkN.hdr = none ∧ ((sS seatN).blk.seat 3).chunkOf
      pkN.hdr.stage.toNat pkN.hdr.phase pkN.hdr.chunk = some ch0 ∧ neighbour ((sS seatN).blk.ringOf ((sS seatN).blk.seat
      3).grp pkN.hdr.stage.toNat) ((sS seatN).blk.ixIn ((sS seatN).blk.ringOf ((sS seatN).blk.seat 3).grp
      pkN.hdr.stage.toNat)) ((sS seatN).blk.seat 3).dir = some pkN.hdr.src ∧ ch0.step + 1 = pkN.hdr.step.toNat ∧
      pkN.hdr.piece.toNat * ((sS seatN).blk.seat 3).outPiece pkN.hdr.stage.toNat < ch0.data.length ∧ (∃ ws, (sS
      seatN).blk.sentFrom ((sS seatN).blk.seat 3) ch0 (pkN.hdr.piece.toNat * Nat.max 1 (((sS seatN).blk.seat 3).outPiece
      pkN.hdr.stage.toNat)) ((Nat.max 1 (((sS seatN).blk.seat 3).outPiece pkN.hdr.stage.toNat)).min (ch0.data.length -
      pkN.hdr.piece.toNat * Nat.max 1 (((sS seatN).blk.seat 3).outPiece pkN.hdr.stage.toNat))) = Except.ok ws)) ∧
    (pkE.hdr.kind = 4 ∧ (sS seatE).blk.foldWaits pkE = false ∧ (sS seatE).blk.dataSeat pkE.hdr = some 3 ∧ (sS
      seatE).blk.foldMisfit ((sS seatE).blk.seat 3) pkE.hdr = none ∧ (sS seatE).blk.ringPlace ((sS seatE).blk.seat 3)
      pkE.hdr = some (2, 0) ∧ ((sS seatE).blk.ctx ((sS seatE).blk.seat 3).ctx).alive = true ∧ stepFits 2 0 pkE.hdr ((sS
      seatE).blk.seat 3).dir = true) ∧
    (((sS seat0).blk.seat 3).mayLoad = true ∧ ((sS seat0).blk.srcRuns ((sS seat0).blk.seat 3))[((sS seat0).blk.seat
      3).loads]? = some (0, 32768, 0, 32) ∧ (sS seat0).blk.foldSrc ((sS seat0).blk.seat 3) (((sS seat0).blk.chunkRun ((sS
      seat0).blk.seat 3) 0 32768).1 + 0, 32) = Except.ok (List.replicate 32 0) ∧ ((sS seat0).blk.ctx ((sS seat0).blk.seat
      3).ctx).alive = true) :=
  ⟨⟨(by decide +kernel), (by decide +kernel), (by decide +kernel), (by decide +kernel), (by decide +kernel),
    (by decide +kernel), (by decide +kernel), (by decide +kernel), (by decide +kernel), (by decide +kernel),
    (by decide +kernel), (by decide), (by decide +kernel)⟩, ⟨(by decide +kernel), (by decide +kernel),
    (by decide +kernel), (by decide +kernel), (by decide +kernel), (by decide +kernel), (by decide +kernel),
    (by decide +kernel), (by decide +kernel), (by decide +kernel), (by decide +kernel), (by decide), (by decide +kernel),
    (by decide +kernel)⟩, ⟨(by decide +kernel), (by decide +kernel), (by decide +kernel), (by decide +kernel),
    (by decide +kernel), (by decide +kernel), (by decide +kernel)⟩, ⟨(by decide +kernel), (by decide +kernel),
    (by decide +kernel), (by decide +kernel), (by decide +kernel), (by decide +kernel), (by decide +kernel),
    (by decide +kernel), (by decide +kernel)⟩, ⟨(by decide +kernel), (by decide +kernel), (by decide +kernel),
    (by decide +kernel), (by decide +kernel), (by decide +kernel)⟩, ⟨(by decide +kernel), (by decide +kernel),
    (by decide +kernel), (by decide +kernel), (by decide +kernel), (by decide +kernel), (by decide +kernel),
    (by decide +kernel), (by decide +kernel), ⟨List.replicate 32 0, (by decide +kernel)⟩⟩, ⟨(by decide +kernel),
    (by decide +kernel), (by decide +kernel), (by decide +kernel), (by decide +kernel), (by decide +kernel),
    (by decide +kernel)⟩, ⟨(by decide +kernel), (by decide +kernel), (by decide +kernel), (by decide +kernel)⟩⟩

theorem met_FoldPackets_2 :
    (sHeld.Seen ∧ sHeld.blk.foldWaits pkF = true ∧ pkF.hdr.dst = sHeld.blk.self ∧ (1, Instr.fdataReceive pkF) ∈ [(1,
      Instr.fdataReceive pkF), (2, Instr.freadyReceive pkF), (3, Instr.fnakReceive pkF), (5, Instr.fabortReceive pkF)] ∧
      pkF.hdr.kind = (1, Instr.fdataReceive pkF).1) ∧
    (sHeld.Seen ∧ sHeld.blk.foldWaits pkR = true ∧ pkR.hdr.dst = sHeld.blk.self ∧ (2, Instr.freadyReceive pkR) ∈ [(1,
      Instr.fdataReceive pkR), (2, Instr.freadyReceive pkR), (3, Instr.fnakReceive pkR), (5, Instr.fabortReceive pkR)] ∧
      pkR.hdr.kind = (2, Instr.freadyReceive pkR).1) ∧
    (sHeld.Seen ∧ sHeld.blk.foldWaits pkN = true ∧ pkN.hdr.dst = sHeld.blk.self ∧ (3, Instr.fnakReceive pkN) ∈ [(1,
      Instr.fdataReceive pkN), (2, Instr.freadyReceive pkN), (3, Instr.fnakReceive pkN), (5, Instr.fabortReceive pkN)] ∧
      pkN.hdr.kind = (3, Instr.fnakReceive pkN).1) ∧
    (sHeld.Seen ∧ sHeld.blk.foldWaits pkA = true ∧ pkA.hdr.dst = sHeld.blk.self ∧ (5, Instr.fabortReceive pkA) ∈ [(1,
      Instr.fdataReceive pkA), (2, Instr.freadyReceive pkA), (3, Instr.fnakReceive pkA), (5, Instr.fabortReceive pkA)] ∧
      pkA.hdr.kind = (5, Instr.fabortReceive pkA).1) :=
  ⟨⟨rfl, (by decide +kernel), rfl, List.mem_cons_self, rfl⟩, ⟨rfl, (by decide +kernel), rfl, (List.mem_cons_of_mem _
    List.mem_cons_self), rfl⟩, ⟨rfl, (by decide +kernel), rfl, (List.mem_cons_of_mem _ (List.mem_cons_of_mem _
    List.mem_cons_self)), rfl⟩, ⟨rfl, (by decide +kernel), rfl, (List.mem_cons_of_mem _ (List.mem_cons_of_mem _
    (List.mem_cons_of_mem _ List.mem_cons_self))), rfl⟩⟩

theorem met_FoldFailures :
    (pkA.hdr.kind = 5 ∧ pkA.hdr.dst = (sS seat0).blk.self ∧ (sS seat0).blk.foldWaits pkA = false ∧ (sS seat0).blk.seatsOf
      pkA.hdr.id = [3] ∧ ((sS seat0).blk.ctx ((sS seat0).blk.seat 3).ctx).alive = true) ∧
    (pkA.hdr.kind = 5 ∧ pkA.hdr.dst = sG.blk.self ∧ sG.blk.seatsOf pkA.hdr.id = [] ∧ sG.blk.entryOf pkA.hdr.id = some 2 ∧
      sG.blk.foldWaits pkA = false ∧ (sG.blk.fgroup 2).spent.length < 2 ^ 19 ∧ (seqBehind (sG.blk.fgroup 2).nextSeq (seqOf
      pkA.hdr.id) = 0 ∨ 2 ^ 19 < seqBehind (sG.blk.fgroup 2).nextSeq (seqOf pkA.hdr.id)) ∧ (false, seqOf pkA.hdr.id) ∉
      (sG.blk.fgroup 2).spent) ∧
    (List.find? (fun y => decide (y.1 = p0.ctx) && decide (y.2.1 = p0.queue)) sGap.blk.folds.starts = some (0, 0,
      0x500003, 17) ∧ sGap.blk.entryOf (0, 0, 0x500003, 17).2.2.1 = some 2 ∧ isAhead (sGap.blk.fgroup 2).nextSeq (seqOf
      (0, 0, 0x500003, 17).2.2.1) = true ∧ (0, 0, 0x500003, 17).2.2.2 + (sGap.blk.grp 2).cycles < BitVec.toNat
      sGap.blk.cycle ∧ (sGap.blk.ctx p0.ctx).alive = true) ∧
    (((sPeer.blk.seat 3).st = SeatSt.bound ∨ (sPeer.blk.seat 3).st = SeatSt.running) ∧ (sPeer.blk.seat 3).since +
      (sPeer.blk.grp (sPeer.blk.seat 3).grp).cycles < BitVec.toNat sPeer.blk.cycle ∧ (sPeer.blk.ctx (sPeer.blk.seat
      3).ctx).alive = true) :=
  ⟨⟨(by decide +kernel), (by decide +kernel), (by decide +kernel), (by decide +kernel), (by decide +kernel)⟩,
    ⟨(by decide +kernel), (by decide +kernel), (by decide +kernel), (by decide +kernel), (by decide +kernel), (by decide),
    (by decide +kernel), (by decide +kernel)⟩, ⟨(by decide +kernel), (by decide +kernel), (by decide +kernel),
    (by decide +kernel), (by decide +kernel)⟩, ⟨(by decide +kernel), (by decide +kernel), (by decide +kernel)⟩⟩

theorem met_CometMessages_1 :
    ((cm 1).kind = 1 ∧ badComet (cm 1) = false ∧ (cm 1).dst = (sC [com0]).blk.self ∧ (sC [com0]).blk.entryOf (cm 1).id =
      some 2 ∧ (sC [com0]).blk.liveComet (cm 1).id = some com0 ∧ (sC [com0]).blk.cometMisfit com0 (cm 1) = none ∧ (sC
      [com0]).blk.cometWaits (cm 1) = false ∧ (∀ y ∈ (sC [com0]).blk.comets.early, y.id ≠ (cm 1).id) ∧ (cm 1).pass =
      com0.pass ∧ (cm 1).stage = 0 ∧ com0.acc = none ∧ findIdx (fun y => decide (y = (cm 1).src)) ((sC [com0]).blk.pkgRing
      com0.entry) = some 1 ∧ 0 < ((sC [com0]).blk.pkgRing com0.entry).length ∧ 0 ≠ 1) ∧
    (cdBad.kind = 1 ∧ badComet cdBad = false ∧ cdBad.dst = (sC [com0]).blk.self ∧ (sC [com0]).blk.entryOf cdBad.id = some
      2 ∧ (sC [com0]).blk.liveComet cdBad.id = some com0 ∧ (sC [com0]).blk.cometWaits cdBad = false ∧ (sC
      [com0]).blk.cometMisfit com0 cdBad = some 7 ∧ ((sC [com0]).blk.ctx com0.ctx).alive = true) ∧
    ((cm 1).kind = 1 ∧ badComet (cm 1) = false ∧ (cm 1).dst = sG.blk.self ∧ sG.blk.entryOf (cm 1).id = some 2 ∧
      sG.blk.liveComet (cm 1).id = none ∧ (seqBehind (sG.blk.fgroup 2).cometSeq (seqOf (cm 1).id) = 0 ∨ 2 ^ 19 < seqBehind
      (sG.blk.fgroup 2).cometSeq (seqOf (cm 1).id)) ∧ sG.blk.cometWaits (cm 1) = false) ∧
    (cabt.kind = 3 ∧ badComet cabt = false ∧ cabt.dst = (sC [com0]).blk.self ∧ (sC [com0]).blk.cometWaits cabt = false ∧
      (sC [com0]).blk.liveComet cabt.id = some com0 ∧ ((sC [com0]).blk.ctx com0.ctx).alive = true) ∧
    (cabt.kind = 3 ∧ badComet cabt = false ∧ cabt.dst = sG.blk.self ∧ sG.blk.liveComet cabt.id = none ∧ sG.blk.entryOf
      cabt.id = some 2 ∧ sG.blk.cometWaits cabt = false ∧ (sG.blk.fgroup 2).spent.length < 2 ^ 19 ∧ (seqBehind
      (sG.blk.fgroup 2).cometSeq (seqOf cabt.id) = 0 ∨ 2 ^ 19 < seqBehind (sG.blk.fgroup 2).cometSeq (seqOf cabt.id)) ∧
      (true, seqOf cabt.id) ∉ (sG.blk.fgroup 2).spent) ∧
    (List.find? (fun x => decide (x.id = 0x500000) && decide (x.ctx = p0.ctx)) sCt.blk.comets.live = some com0 ∧
      com0.since + (sCt.blk.grp com0.entry).cycles < BitVec.toNat sCt.blk.cycle ∧ (sCt.blk.ctx p0.ctx).alive = true) ∧
    (List.find? (fun x => decide (x.id = 0x500003) && decide (x.ctx = p0.ctx)) cdLate.blk.comets.live = none ∧ List.find?
      (fun y => decide (y.1 = p0.ctx) && decide (y.2.1 = p0.queue) && decide (y.2.2.1 = 0x500003))
      cdLate.blk.comets.starts = some (0, 0, 0x500003, 17) ∧ cdLate.blk.entryOf 0x500003 = some 2 ∧ isAhead
      (cdLate.blk.fgroup 2).cometSeq (seqOf 0x500003) = true ∧ (0, 0, 0x500003, 17).2.2.2 + (cdLate.blk.grp 2).cycles <
      BitVec.toNat cdLate.blk.cycle ∧ (cdLate.blk.ctx p0.ctx).alive = true) ∧
    (sHeldC.Seen ∧ badComet (cm 1) = false ∧ sHeldC.blk.cometWaits (cm 1) = true ∧ (1, Instr.cdataReceive (cm 1)) ∈ [(1,
      Instr.cdataReceive (cm 1)), (3, Instr.cabortReceive (cm 1))] ∧ (cm 1).kind = (1, Instr.cdataReceive (cm 1)).1) :=
  ⟨⟨(by decide +kernel), (by decide +kernel), (by decide +kernel), (by decide +kernel), (by decide +kernel),
    (by decide +kernel), (by decide +kernel), (by decide), (by decide +kernel), (by decide +kernel), (by decide +kernel),
    (by decide +kernel), (by decide), (by decide +kernel)⟩, ⟨(by decide +kernel), (by decide +kernel),
    (by decide +kernel), (by decide +kernel), (by decide +kernel), (by decide +kernel), (by decide +kernel),
    (by decide +kernel)⟩, ⟨(by decide +kernel), (by decide +kernel), (by decide +kernel), (by decide +kernel),
    (by decide +kernel), (by decide +kernel), (by decide +kernel)⟩, ⟨(by decide +kernel), (by decide +kernel),
    (by decide +kernel), (by decide +kernel), (by decide +kernel), (by decide +kernel)⟩, ⟨(by decide +kernel),
    (by decide +kernel), (by decide +kernel), (by decide +kernel), (by decide +kernel), (by decide +kernel), (by decide),
    (by decide +kernel), (by decide +kernel)⟩, ⟨(by decide +kernel), (by decide +kernel), (by decide +kernel)⟩,
    ⟨(by decide +kernel), (by decide +kernel), (by decide +kernel), (by decide +kernel), (by decide +kernel),
    (by decide +kernel)⟩, ⟨rfl, (by decide +kernel), (by decide +kernel), List.mem_cons_self, rfl⟩⟩

theorem met_CometMessages_2 :
    (sHeldC.Seen ∧ badComet cabt = false ∧ sHeldC.blk.cometWaits cabt = true ∧ (3, Instr.cabortReceive cabt) ∈ [(1,
      Instr.cdataReceive cabt), (3, Instr.cabortReceive cabt)] ∧ cabt.kind = (3, Instr.cabortReceive cabt).1) :=
  ⟨rfl, (by decide +kernel), (by decide +kernel), (List.mem_cons_of_mem _ List.mem_cons_self), rfl⟩

/-! ### Scheduling and contexts -/

def flT : Flight := { fl0 with issued := 17, word := encR 0x38 rz, units := [.outbound], job := .plain }

def slotOut : Slot := { Slot.reset with outgoing := some 0, incoming := some 5, switchFrom := 17 }

def sTile : State := { sF [flT] with blk := (bF [flT]).setSlot 0 slotOut }

def flY_2 : Flight := { flT with issued := 999990, tile := [64] }

def sTileY : State := sF [flY_2]

def cAsk : Ctx := { c0 with part := 1, queues := Bank.all 2 { q0 with waiting := true, base := 0xA00000 } }

def bTile3 : Blk := { (bF [flT]) with ctxs := (bF [flT]).ctxs ++ [(5, cAsk)], mem := { b1.mem with stack := memG.wrBytes 0xA00000 (toLe 8 (encR 0x38 rz).toNat) } }

def sTile3 : State := { s0 with blk := bTile3.setSlot 1 { Slot.reset with running := some 5 } }

def sTile2 : State := sF [flT]

def c5 : Ctx := { c0 with pass := 7 }

def bTwo : Blk := { (b0.modCtx 0 fun x => { x with pass := 9 }) with ctxs := [(0, { c0 with pass := 9 }), (5, c5)] }

def sTwo : State := { s0 with blk := bTwo.setSlot 0 { Slot.reset with running := some 0, charged := 65536 } }

def bIdle : Blk := { b0 with ctxs := [(0, { c0 with queues := Bank.all 2 Queue.reset }), (5, c5)] }

def sIdle : State := { s0 with blk := bIdle.setSlot 0 { Slot.reset with running := some 0, idleFrom := 17 } }

def sSw : State := { s0 with blk := bTwo.setSlot 0 slotOut }

def cOld : Ctx := { c5 with since := 0, queues := Bank.all 2 { q0 with pubs := [(20, 17)] } }

def bTr : Blk := { ({ b0 with cycle := 9000000, ctxs := [(0, c0), (5, cOld)] }).setSlot 0 { Slot.reset with running := some 0, lastTrump := some 17 } with health := b0.health }

def sTr : State := { s0 with blk := bTr }

def sBell : State := { s0 with blk := { b0 with bells := [⟨.host, 0, 0, 25, 90⟩, ⟨.mgmt, 0, 1, 30, 90⟩] } }

def sBellBad : State := { s0 with blk := { b0 with bells := [⟨.host, 9, 0, 25, 90⟩] } }

def sEarly : State := { s0 with blk := { b0 with start := { b0.start with stage := 3 } } }

def obs0 : Obs := { policy := 0x02000000, t := 4, k := 2, openIx := 0, demand := [(0, 5), (1, 3)], received := [(0, 5)], primary := [⟨0, 0, 0, 0⟩, ⟨1, 0, 1, 0⟩] }

def eph1 : Eph := { Eph.reset with steps := 1, md := [(0, 100), (1, 70000)], vd := [(0, 3)], observing := [obs0] }

def sObs : State := { s0 with blk := b1.setEph 0 0 eph1 }

def sObs0 : State := { s0 with blk := b1.setEph 0 0 { eph1 with steps := 0 } }

def sTorn : State := { sD with blk := (bD.modCtx 0 fun x => { x with queues := Bank.all 2 { q0 with dead := true } }) }

def imgB : List Byte := toLe 4 0x49585443 ++ [1, 0] ++ toLe 2 3 ++ toLe 4 0x80 ++ zeroBytes 4 ++ zeroBytes 32 ++ toLe 16 77

def frmB : List Byte := toLe 4 0x4D415246 ++ [1] ++ zeroBytes 155 ++ [1] ++ zeroBytes 3

def bOp : Blk := { (b1.setReg 0x028 0 0x80000000) with mem := { b1.mem with stack := (b1.mem.stack.wrBytes 0x200000 imgB).wrBytes 0x90000 frmB }, ctxs := [(0, c0)] }

def sOp (arg : Nat) : State := { s0 with blk := bOp.setReg 0x214 0 (BitVec.ofNat 32 arg) }

def op0 (op c arg : Nat) : CtxOp := { path := .host, op := op, part := 0, ctx := BitVec.ofNat 18 c, arg := BitVec.ofNat 32 arg, noKey := false }

def sOpC (o : CtxOp) : State := { s0 with blk := { bOp with ctxOp := some o } }

def sOpX : State := { s0 with blk := { bOp with ctxOp := some (op0 3 5 0xA0), ctxs := [(0, c0), (5, { c0 with frame := 0xA0 })] } }

def sKill : State := { s0 with blk := { bOp with ctxOp := some (op0 2 7 0) } }

def bRst : Blk := { bOp with mem := { bOp.mem with stack := Memory.wrBytes [] 0x90000 frmB } }

def sRst : State := { s0 with blk := bRst.setReg 0x214 0 0x90 }

def sRstC : State := { s0 with blk := { bRst with ctxOp := some (op0 4 6 0x90) } }

def sFree : State := { s0 with blk := { bOp with ctxs := [(0, { c0 with life := .dead })] } }

def imgC : List Byte := imgB

def frmC : List Byte := (bRst.bytesIn 0 0x90 4096 true).getD []

def x_apply : Bell := ⟨.host, 0, 0, 25, 90⟩

def x_applyBad : Bell := ⟨.host, 9, 0, 25, 90⟩

def s_createDone : State := sOpC (op0 1 6 0x01000000)

theorem met_TilesAndSwitches_1 :
    (sTile.blk.flightAt p0 0 = some flT ∧ sTile.blk.hasTile flT = true ∧ flT.tileCycles (flT.tiles + 1 - flT.tiles0) ≤
      flT.ran (BitVec.toNat sTile.blk.cycle) ∧ (sTile.blk.slot (sTile.blk.ctx flT.ctx).part).outgoing = some flT.ctx) ∧
    (sTile2.blk.flightAt p0 0 = some flT ∧ sTile2.blk.hasTile flT = true ∧ flT.tileCycles (flT.tiles + 1 - flT.tiles0) ≤
      flT.ran (BitVec.toNat sTile2.blk.cycle) ∧ (sTile2.blk.slot (sTile2.blk.ctx flT.ctx).part).outgoing ≠ some flT.ctx ∧
      sTile2.blk.dirWaiters (sTile2.blk.ctx flT.ctx).part (freedUnits (opcodeOf flT.word)) = []) ∧
    (sTileY.blk.flightAt p0 0 = some flY_2 ∧ sTileY.blk.hasTile flY_2 = true ∧ flY_2.ran (BitVec.toNat sTileY.blk.cycle) <
      flY_2.tileCycles (flY_2.tiles + 1 - flY_2.tiles0) ∧ sTileY.Seen) ∧
    (sTile3.blk.flightAt p0 0 = some flT ∧ sTile3.blk.hasTile flT = true ∧ flT.tileCycles (flT.tiles + 1 - flT.tiles0) ≤
      flT.ran (BitVec.toNat sTile3.blk.cycle) ∧ (sTile3.blk.slot (sTile3.blk.ctx flT.ctx).part).outgoing ≠ some flT.ctx ∧
      sTile3.blk.dirWaiters (sTile3.blk.ctx flT.ctx).part (freedUnits (opcodeOf flT.word)) ≠ []) ∧
    (sTwo.blk.maySwitch 0 = some 0 ∧ sTwo.blk.nextCtx 0 = some 5 ∧ sTwo.blk.quantum 0 ≤ (sTwo.blk.slot 0).charged ∧
      BitVec.toNat (sTwo.blk.ctx 5).pass < BitVec.toNat (sTwo.blk.ctx 0).pass) ∧
    (sIdle.blk.maySwitch 0 = some 0 ∧ sIdle.blk.nextCtx 0 = some 5 ∧ (sIdle.blk.slot 0).idleFrom + 64 ≤ BitVec.toNat
      sIdle.blk.cycle ∧ sIdle.blk.inFlight 0 = [] ∧ (∀ (q : BitVec 2), ((sIdle.blk.ctx 0).que q).issuable = false)) ∧
    ((sSw.blk.slot 0).incoming = some 5 ∧ (∀ (o : CtxId), (sSw.blk.slot 0).outgoing = some o → sSw.blk.tilesRun o = []) ∧
      (sSw.blk.slot 0).switchFrom + sSw.blk.switchTime 0 ≤ BitVec.toNat sSw.blk.cycle) ∧
    (sTr.blk.trumpNext 0 = some 5 ∧ sTr.blk.maySwitch 0 ≠ none ∧ (∀ (x : ℕ), (sTr.blk.slot 0).lastTrump = some x → x +
      0x3D0900 ≤ BitVec.toNat sTr.blk.cycle) ∧ (sTr.blk.ctx 5).part = 0) :=
  ⟨⟨(by decide +kernel), (by decide +kernel), (by decide +kernel), (by decide +kernel)⟩, ⟨(by decide +kernel),
    (by decide +kernel), (by decide +kernel), (by decide +kernel), (by decide +kernel)⟩, ⟨(by decide +kernel),
    (by decide +kernel), (by decide +kernel), rfl⟩, ⟨(by decide +kernel), (by decide +kernel), (by decide +kernel),
    (by decide +kernel), (by decide +kernel)⟩, ⟨(by decide +kernel), (by decide +kernel), (by decide +kernel),
    (by decide +kernel)⟩, ⟨(by decide +kernel), (by decide +kernel), (by decide +kernel), (by decide +kernel),
    (by decide +kernel)⟩, ⟨(by decide +kernel), (by intro o ho; obtain rfl := Option.some.inj ho; rfl),
    (by decide +kernel)⟩, ⟨(by decide +kernel), (by decide +kernel), (by decide +kernel), (by decide +kernel)⟩⟩

theorem met_TilesAndSwitches_2 :
    (sTr.blk.trumpNext 0 = some 5 ∧ sTr.blk.maySwitch 0 ≠ none ∧ (∀ (x : ℕ), (sTr.blk.slot 0).lastTrump = some x → x +
      0x3D0900 ≤ BitVec.toNat sTr.blk.cycle) ∧ (sTr.blk.slot 0).lastTrump ≠ none) :=
  ⟨(by decide +kernel), (by decide +kernel), (by decide +kernel), (by decide +kernel)⟩

theorem met_DoorbellsRing :
    (s0.Seen ∧ accessHeld Requester.host (0x400000 + 16 * BitVec.toNat p0.ctx + 4 * p0.queue.toNat) true (s0.aon, s0.blk)
      = false ∧ s0.blk.pathHeld (reqPath Requester.host) = false ∧ (¬(s0.blk.start.stage.toNat < 6 ∨ s0.aon.gov.sleep ≠
      Sleep.s2 ∧ reqPath Requester.host = Path.host ∧ s0.blk.start.regime = false)) ∧ s0.aon.gov.sleep ≠ Sleep.s2 ∧
      (s0.blk.bells.length < if reqPath Requester.host = Path.host then 64 else 63) ∧ s0.blk.heldBells = []) ∧
    (sEarly.Seen ∧ accessHeld Requester.host (0x400000 + 16 * BitVec.toNat p0.ctx + 4 * p0.queue.toNat) true (sEarly.aon,
      sEarly.blk) = false ∧ sEarly.blk.pathHeld (reqPath Requester.host) = false ∧ (sEarly.blk.start.stage.toNat < 6 ∨
      sEarly.aon.gov.sleep ≠ Sleep.s2 ∧ reqPath Requester.host = Path.host ∧ sEarly.blk.start.regime = false)) ∧
    (sBell.aon.gov.sleep ≠ Sleep.s2 ∧ sBell.aon.gov.sleep ≠ Sleep.s3 ∧ sBell.blk.bellAt ≤ BitVec.toNat sBell.blk.cycle ∧
      (x_apply.path = Path.mgmt → x_apply.at' < BitVec.toNat sBell.blk.cycle) ∧ sBell.blk.intact 19 = true ∧
      sBell.blk.bells = [x_apply, { path := Path.mgmt, ctx := 0, queue := 1, tail := 30, at' := 90 }] ∧
      sBell.blk.heldBells = [] ∧ sBell.blk.start.accesses = [] ∧ (sBell.blk.cache.contains x_apply.ctx = true ∨
      sBell.blk.cache.length < 4096) ∧ sBell.blk.bellOk x_apply = true) ∧
    (sBellBad.aon.gov.sleep ≠ Sleep.s2 ∧ sBellBad.aon.gov.sleep ≠ Sleep.s3 ∧ sBellBad.blk.bellAt ≤ BitVec.toNat
      sBellBad.blk.cycle ∧ (x_applyBad.path = Path.mgmt → x_applyBad.at' < BitVec.toNat sBellBad.blk.cycle) ∧
      sBellBad.blk.intact 19 = true ∧ sBellBad.blk.bells = [x_applyBad] ∧ sBellBad.blk.heldBells = [] ∧
      sBellBad.blk.start.accesses = [] ∧ (sBellBad.blk.cache.contains x_applyBad.ctx = true ∨ sBellBad.blk.cache.length <
      4096) ∧ sBellBad.blk.bellOk x_applyBad = false) :=
  ⟨⟨rfl, (by decide +kernel), (by decide +kernel), (by decide +kernel), (by decide +kernel), (by decide +kernel),
    (by decide +kernel)⟩, ⟨rfl, (by decide +kernel), (by decide +kernel), (by decide +kernel)⟩, ⟨(by decide +kernel),
    (by decide +kernel), (by decide +kernel), (by decide +kernel), (by decide +kernel), (by decide +kernel),
    (by decide +kernel), (by decide +kernel), (by decide +kernel), (by decide +kernel)⟩, ⟨(by decide +kernel),
    (by decide +kernel), (by decide +kernel), (by decide +kernel), (by decide +kernel), (by decide +kernel),
    (by decide +kernel), (by decide +kernel), (by decide +kernel), (by decide +kernel)⟩⟩

theorem met_ObservationsAndTeardowns :
    ((sObs.blk.eph 0 0).observing = [obs0]) ∧
    ((sObs0.blk.eph 0 0).observing = [obs0]) ∧
    ((sTorn.blk.ctx 0).torn = true ∧ (∀ f ∈ sTorn.blk.inFlight 0, f.tileEnded (BitVec.toNat sTorn.blk.cycle) = true) ∧
      sTorn.blk.mem.stack.wf = true) :=
  ⟨(by decide +kernel), (by decide +kernel), ⟨(by decide +kernel), (by decide +kernel), rfl⟩⟩

theorem met_ContextOpsStart_1 :
    ((1, Instr.create Requester.host 0 6) ∈ ctxOps Requester.host 0 6 ∧ accessHeld Requester.host 528 true ((sOp
      0x1000000).aon, (sOp 0x1000000).blk) = false ∧ (sOp 0x1000000).blk.ctxBusy = false ∧ ((sOp 0x1000000).blk.setReg 528
      (reqPath Requester.host).ix (setFld (setFld ((sOp 0x1000000).blk.reg 528 (reqPath Requester.host).ix) 23 21 0) 17 0
      6)).opCheck (1, Instr.create Requester.host 0 6).1 0 6 ((sOp 0x1000000).blk.reg 532 (reqPath Requester.host).ix) =
      none) ∧
    ((2, Instr.kill Requester.host 0 0) ∈ ctxOps Requester.host 0 0 ∧ accessHeld Requester.host 528 true ((sOp 0).aon,
      (sOp 0).blk) = false ∧ (sOp 0).blk.ctxBusy = false ∧ ((sOp 0).blk.setReg 528 (reqPath Requester.host).ix (setFld
      (setFld ((sOp 0).blk.reg 528 (reqPath Requester.host).ix) 23 21 0) 17 0 0)).opCheck (2, Instr.kill Requester.host 0
      0).1 0 0 ((sOp 0).blk.reg 532 (reqPath Requester.host).ix) = none) ∧
    ((3, Instr.exportCtx Requester.host 0 0) ∈ ctxOps Requester.host 0 0 ∧ accessHeld Requester.host 528 true ((sOp
      160).aon, (sOp 160).blk) = false ∧ (sOp 160).blk.ctxBusy = false ∧ ((sOp 160).blk.setReg 528 (reqPath
      Requester.host).ix (setFld (setFld ((sOp 160).blk.reg 528 (reqPath Requester.host).ix) 23 21 0) 17 0 0)).opCheck (3,
      Instr.exportCtx Requester.host 0 0).1 0 0 ((sOp 160).blk.reg 532 (reqPath Requester.host).ix) = none) ∧
    ((4, Instr.restore Requester.host 0 6) ∈ ctxOps Requester.host 0 6 ∧ accessHeld Requester.host 528 true (sRst.aon,
      sRst.blk) = false ∧ sRst.blk.ctxBusy = false ∧ (sRst.blk.setReg 528 (reqPath Requester.host).ix (setFld (setFld
      (sRst.blk.reg 528 (reqPath Requester.host).ix) 23 21 0) 17 0 6)).opCheck (4, Instr.restore Requester.host 0 6).1 0 6
      (sRst.blk.reg 532 (reqPath Requester.host).ix) = none) ∧
    ((5, Instr.free Requester.host 0 0) ∈ ctxOps Requester.host 0 0 ∧ accessHeld Requester.host 528 true (sFree.aon,
      sFree.blk) = false ∧ sFree.blk.ctxBusy = false ∧ (sFree.blk.setReg 528 (reqPath Requester.host).ix (setFld (setFld
      (sFree.blk.reg 528 (reqPath Requester.host).ix) 23 21 0) 17 0 0)).opCheck (5, Instr.free Requester.host 0 0).1 0 0
      (sFree.blk.reg 532 (reqPath Requester.host).ix) = none) ∧
    ((6, Instr.shares Requester.host 0 0) ∈ ctxOps Requester.host 0 0 ∧ accessHeld Requester.host 528 true ((sOp 9).aon,
      (sOp 9).blk) = false ∧ (sOp 9).blk.ctxBusy = false ∧ ((sOp 9).blk.setReg 528 (reqPath Requester.host).ix (setFld
      (setFld ((sOp 9).blk.reg 528 (reqPath Requester.host).ix) 23 21 0) 17 0 0)).opCheck (6, Instr.shares Requester.host
      0 0).1 0 0 ((sOp 9).blk.reg 532 (reqPath Requester.host).ix) = none) ∧
    ((1, Instr.create Requester.host 0 0) ∈ ctxOps Requester.host 0 0 ∧ accessHeld Requester.host 528 true ((sOp
      0x1000000).aon, (sOp 0x1000000).blk) = false ∧ (sOp 0x1000000).blk.ctxBusy = false ∧ ((sOp 0x1000000).blk.setReg 528
      (reqPath Requester.host).ix (setFld (setFld ((sOp 0x1000000).blk.reg 528 (reqPath Requester.host).ix) 23 21 0) 17 0
      0)).opCheck (1, Instr.create Requester.host 0 0).1 0 0 ((sOp 0x1000000).blk.reg 532 (reqPath Requester.host).ix) =
      some 2) ∧
    ((2, Instr.kill Requester.host 1 0) ∈ ctxOps Requester.host 1 0 ∧ accessHeld Requester.host 528 true ((sOp
      0x1000000).aon, (sOp 0x1000000).blk) = false ∧ (sOp 0x1000000).blk.ctxBusy = false ∧ ((sOp 0x1000000).blk.setReg 528
      (reqPath Requester.host).ix (setFld (setFld ((sOp 0x1000000).blk.reg 528 (reqPath Requester.host).ix) 23 21 1) 17 0
      0)).opCheck (2, Instr.kill Requester.host 1 0).1 1 0 ((sOp 0x1000000).blk.reg 532 (reqPath Requester.host).ix) =
      some 4) :=
  ⟨⟨(by simp [ctxOps]), (by decide +kernel), (by decide +kernel), (by decide +kernel)⟩, ⟨(by simp [ctxOps]),
    (by decide +kernel), (by decide +kernel), (by decide +kernel)⟩, ⟨(by simp [ctxOps]), (by decide +kernel),
    (by decide +kernel), (by decide +kernel)⟩, ⟨(by simp [ctxOps]), (by decide +kernel), (by decide +kernel), (by
    set_option maxRecDepth 1000000 in decide +kernel)⟩, ⟨(by simp [ctxOps]), (by decide +kernel), (by decide +kernel),
    (by decide +kernel)⟩, ⟨(by simp [ctxOps]), (by decide +kernel), (by decide +kernel), (by decide +kernel)⟩, ⟨(by simp
    [ctxOps]), (by decide +kernel), (by decide +kernel), (by decide +kernel)⟩, ⟨(by simp [ctxOps]), (by decide +kernel),
    (by decide +kernel), (by decide +kernel)⟩⟩

theorem met_ContextOpsStart_2 :
    ((6, Instr.shares Requester.host 0 0) ∈ ctxOps Requester.host 0 0 ∧ accessHeld Requester.host 528 true ((sOp
      0x1000000).aon, (sOp 0x1000000).blk) = false ∧ (sOp 0x1000000).blk.ctxBusy = false ∧ ((sOp 0x1000000).blk.setReg 528
      (reqPath Requester.host).ix (setFld (setFld ((sOp 0x1000000).blk.reg 528 (reqPath Requester.host).ix) 23 21 0) 17 0
      0)).opCheck (6, Instr.shares Requester.host 0 0).1 0 0 ((sOp 0x1000000).blk.reg 532 (reqPath Requester.host).ix) =
      some 3) :=
  ⟨(by simp [ctxOps]), (by decide +kernel), (by decide +kernel), (by decide +kernel)⟩

theorem met_ContextOpsComplete :
    (sKill.blk.ctxOp = some (op0 2 7 0) ∧ (op0 2 7 0).op = 2 ∧ (sKill.blk.ctx (op0 2 7 0).ctx).torn = false) ∧
    ((sOpC (op0 6 0 9)).blk.ctxOp = some (op0 6 0 9) ∧ ((op0 6 0 9).op = 5 ∨ (op0 6 0 9).op = 6)) ∧
    (s_createDone.blk.ctxOp = some (op0 1 6 0x1000000) ∧ (op0 1 6 0x1000000).op = 1 ∧ s_createDone.blk.bytesIn (op0 1 6
      0x1000000).part (op0 1 6 0x1000000).arg 64 false = some imgC ∧ s_createDone.blk.imageOk (op0 1 6 0x1000000).part
      imgC = true ∧ (op0 1 6 0x1000000).noKey = false) ∧
    (sOpX.blk.ctxOp = some (op0 3 5 160) ∧ (op0 3 5 160).op = 3 ∧ (sOpX.blk.ctx (op0 3 5 160).ctx).part = (op0 3 5
      160).part ∧ (sOpX.blk.slot (op0 3 5 160).part).running ≠ some (op0 3 5 160).ctx ∧ (sOpX.blk.slot (op0 3 5
      160).part).incoming ≠ some (op0 3 5 160).ctx ∧ sOpX.blk.stilled (op0 3 5 160).ctx = true) ∧
    (sRstC.blk.ctxOp = some (op0 4 6 144) ∧ (op0 4 6 144).op = 4 ∧ sRstC.blk.bytesIn (op0 4 6 144).part (op0 4 6 144).arg
      4096 true = some frmC ∧ sRstC.blk.frameOk (op0 4 6 144).part frmC = true) :=
  ⟨⟨rfl, rfl, (by decide +kernel)⟩, ⟨rfl, (by decide)⟩, ⟨rfl, rfl, (by decide +kernel), (by decide +kernel),
    (by decide +kernel)⟩, ⟨rfl, rfl, (by decide +kernel), (by decide +kernel), (by decide +kernel), (by decide +kernel)⟩,
    ⟨rfl, rfl, (by set_option maxRecDepth 1000000 in decide +kernel), (by set_option maxRecDepth 1000000
    in decide +kernel)⟩⟩

/-! ### Ephemeris and vault units -/

def ephB : List Byte := toLe 4 0x45504845 ++ [1, 0] ++ toLe 2 2 ++ toLe 2 0 ++ zeroBytes 18 ++ zeroBytes 36 ++ toLe 4 500 ++ toLe 4 3

def bEph : Blk := { (((bOp.setReg 0x028 0 0x80001000).setReg 0x34C 0 0x800000B0).setEph 0 0 eph1) with mem := { bOp.mem with stack := memG.wrBytes 0xB0000 ephB } }

def eop (n : Nat) : EphOp := ⟨.host, n, 0, true⟩

def sEph (n : Nat) : State := { s0 with blk := { bEph with ephOp := some (eop n) } }

def cSave : Blk := match (sEph 1).blk.wrStack 0xB0000 ((sEph 1).blk.ephImage 0 0) with
  | .ok c => c
  | .error _ => bEph

def vop (n a0 a1 : Nat) : VaultOp := ⟨.host, .operator, n, 0, BitVec.ofNat 32 a0, BitVec.ofNat 32 a1⟩

def sVo (o : VaultOp) : State := { s0 with blk := bEph, aon := { a0 with vaultOp := some o } }

def s_vault4 : State := sVo (vop 1 0x90 0x01000000)

theorem met_UnitOpsStart :
    ((1, Instr.save Requester.host) ∈ [(1, Instr.save Requester.host), (2, Instr.load Requester.host), (3, Instr.reset
      Requester.host)] ∧ accessHeld Requester.host 848 true (s0.aon, s0.blk) = false ∧ s0.blk.ephOp = none) ∧
    ((2, Instr.load Requester.host) ∈ [(1, Instr.save Requester.host), (2, Instr.load Requester.host), (3, Instr.reset
      Requester.host)] ∧ accessHeld Requester.host 848 true (s0.aon, s0.blk) = false ∧ s0.blk.ephOp = none) ∧
    ((3, Instr.reset (Requester.mgmt none)) ∈ [(1, Instr.save (Requester.mgmt none)), (2, Instr.load (Requester.mgmt
      none)), (3, Instr.reset (Requester.mgmt none))] ∧ accessHeld (Requester.mgmt none) 848 true (s0.aon, s0.blk) = false
      ∧ s0.blk.ephOp = none) ∧
    ((1, Instr.sealOut Requester.host 3) ∈ [(1, Instr.sealOut Requester.host 3), (2, Instr.sealIn Requester.host 3)] ∧
      accessHeld Requester.host 2060 true (s0.aon, s0.blk) = false ∧ s0.aon.vaultOp = none) ∧
    ((2, Instr.sealIn Requester.host 3) ∈ [(1, Instr.sealOut Requester.host 3), (2, Instr.sealIn Requester.host 3)] ∧
      accessHeld Requester.host 2060 true (s0.aon, s0.blk) = false ∧ s0.aon.vaultOp = none) :=
  ⟨⟨(by simp), (by decide +kernel), (by decide +kernel)⟩, ⟨(by simp), (by decide +kernel), (by decide +kernel)⟩, ⟨(by
    simp), (by decide +kernel), (by decide +kernel)⟩, ⟨(by simp), (by decide +kernel), (by decide +kernel)⟩, ⟨(by simp),
    (by decide +kernel), (by decide +kernel)⟩⟩

theorem met_UnitOpsComplete :
    ((sEph 3).blk.ephOp = some (eop 3) ∧ (eop 3).op = 3) ∧
    ((sEph 1).blk.ephOp = some (eop 1) ∧ (eop 1).op = 1 ∧ (sEph 1).blk.mem.stack.wf = true ∧ (sEph 1).blk.wrStack (fld
      ((sEph 1).blk.reg 844 (eop 1).key) 27 0 * 4096) ((sEph 1).blk.ephImage (BitVec.ofNat 3 ((eop 1).key / 256))
      (BitVec.ofNat 8 (eop 1).key)) = Except.ok cSave ∧ (fld ((sEph 1).blk.reg 844 (eop 1).key) 27 0 * 4096 + ((sEph
      1).blk.ephImage (BitVec.ofNat 3 ((eop 1).key / 256)) (BitVec.ofNat 8 (eop 1).key)).length ≤ (sEph 1).blk.storeAddr 0
      ∨ (sEph 1).blk.storeAddr 0 + 64 * 2 ^ 18 ≤ fld ((sEph 1).blk.reg 844 (eop 1).key) 27 0 * 4096)) ∧
    ((sEph 2).blk.ephOp = some (eop 2) ∧ (eop 2).op = 2 ∧ (ephLoad (eop 2) (BitVec.ofNat 3 ((eop 2).key / 256))
      (BitVec.ofNat 8 (eop 2).key) (fld ((sEph 2).blk.reg 844 (eop 2).key) 27 0 * 4096) ((sEph 2).aon, (sEph 2).blk)).2 =
      1) ∧
    ((sVo (vop 1 0xF00000 0)).Seen ∧ (sVo (vop 1 0xF00000 0)).aon.vaultOp = some (vop 1 0xF00000 0)) ∧
    (s_vault4.Seen ∧ s_vault4.aon.vaultOp = some (vop 1 144 0x1000000)) :=
  ⟨⟨rfl, rfl⟩, ⟨rfl, rfl, (by decide +kernel), (by decide +kernel), (by decide +kernel)⟩, ⟨rfl, rfl, (by decide +kernel)⟩,
    ⟨rfl, rfl⟩, ⟨rfl, rfl⟩⟩

/-! ### Register writes -/

def sHeldW : State := { sR with blk := { bR with start := { bR.start with stage := 3 } } }

/-- A value for each of the writers. -/
def writeVals : List Word :=
  [0x10008, 0x80000100, 0x400, 0xC0000100, 0xC0000100, 0x400, 0x400, 0x400, 0xC0000100, 0xC0000100, 0xFFFFFFFF, 0xFFFFFFFF, 0x10]

def x_arith : Instr × ℕ := (writers ri 0x80000100 1 1 true false).get ⟨1, by decide⟩

theorem met_PlainWrites :
    (x_arith ∈ writers ri 0x80000100 1 1 true false ∧ sR.Writes ri x_arith.2 0x80000100 (wRow sR ri 300).1 (wRow sR ri
      300).2 (wNew sR ri 300 0x80000100) ∧ (wRow sR ri 300).1.off ∉ ownEffect ∧ (wRow sR ri 300).1.aon = false) ∧
    (sR.Writes ri 260 0xC8000000 (wRow sR ri 260).1 (wRow sR ri 260).2 (wNew sR ri 260 0xC8000000) ∧ (wRow sR ri
      260).1.off ∉ ownEffect ∧ (wRow sR ri 260).1.aon = false) ∧
    (sR.Writes (Requester.mgmt (some 0)) 836 0x10008 (wRow sR ri 836).1 (wRow sR ri 836).2 (wNew sR ri 836 0x10008) ∧
      (wRow sR ri 836).1.off ∉ ownEffect ∧ (wRow sR ri 836).1.aon = false) ∧
    (sHeldW.Seen ∧ accessHeld Requester.host (260 / 4 * 4) true (sHeldW.aon, sHeldW.blk) = true) :=
  ⟨⟨(List.getElem_mem _), (writes_of_wOk sR ri 0x12C 0x80000100 (by decide +kernel)), (by decide +kernel),
    (by decide +kernel)⟩, ⟨(writes_of_wOk sR ri 0x104 0xC8000000 (by decide +kernel)), (by decide +kernel),
    (by decide +kernel)⟩, ⟨(writes_of_wOk sR ri 0x344 0x10008 (by decide +kernel)), (by decide +kernel),
    (by decide +kernel)⟩, ⟨rfl, (by decide +kernel)⟩⟩

/-! ### Writes that start something -/

def sMr : State := { sR with blk := { (bR.setReg 0x028 0 0x80001000) with start := { bR.start with stage := 6, regime := false } } }

def sGrp : State := { sR with blk := { (bR.setReg 0x408 1 0).setReg 0x40C 1 0x10 with regs := (((bR.setReg 0x400 1 1).setReg 0x408 1 0x10).setReg 0x40C 1 0x10).regs } }

def sGrpV : State := { sR with blk := (bR.setReg 0x404 0 0x80290001) }

def sRing_2 : State := { sR with blk := (((bR.setReg 0x904 0 7).setReg 0x908 0 9)) }

def sRC : State := { sMr with blk := { sMr.blk with start := { sMr.blk.start with regimeNext := some true } } }

def sSt : State := { s0 with blk := { (b0.setReg 0x028 0 0x80000001) with start := { b0.start with storeInit := some 17 }, mem := { b0.mem with stack := [(0x10, 5), (0x1005, 7), (0x1001000, 9)] } } }

def memL : Memory := Memory.wrBytes [] 0x10000 (toLe 2 0 ++ toLe 2 1)

def bChk : Blk := { ((b0.setReg 0x408 1 0x10).setReg 0x40C 1 0x10) with mem := { b0.mem with stack := memL }, folds := { b0.folds with groups := b0.folds.groups.wr 1 { FGroup.reset with checking := some (0x80290001, 17) } } }

def sChk : State := { s0 with blk := bChk }

def sChkBad : State := { s0 with blk := bChk.setReg 0x40C 1 0x300F }

def rec0 : Rec := { code := 0x80, event := true, ctx := some 0, queue := 0, word1 := 3, insn := 0, a := 7, b := 0, cycle := 44 }

def sCopy : State := { s0 with blk := { (b0.setReg 0x900 0 0x80000010) with evts := [rec0, { rec0 with a := 8 }] } }

def sCopyT : State := { s0 with blk := { (b0.setReg 0x910 0 0x80000010) with tels := [List.replicate 32 (7 : Byte), [1]] } }

def sTel : State := { s0 with blk := b0.setReg 0x91C 0 2, aon := { a0 with gov := { a0.gov with telCount := 2 } } }

def x_copy : List (List Byte) := [{ rec0 with a := 8 }.bytes]

def x_copyT : List Byte := List.replicate 32 (7 : Byte)

theorem met_WritesThatStart :
    (sMr.Writes ri 28 1 (wRow sMr ri 28).1 (wRow sMr ri 28).2 (wNew sMr ri 28 1) ∧ sMr.shows ri (wRow sMr ri 28).1 (wRow
      sMr ri 28).2 ≠ wNew sMr ri 28 1) ∧
    (sR.Writes ri 4096 5 (wRow sR ri 4096).1 (wRow sR ri 4096).2 (wNew sR ri 4096 5)) ∧
    (sR.Writes ri 40 0x80010000 (wRow sR ri 40).1 (wRow sR ri 40).2 (wNew sR ri 40 0x80010000)) ∧
    (sGrp.Writes ri 1028 0x80290001 (wRow sGrp ri 1028).1 (wRow sGrp ri 1028).2 (wNew sGrp ri 1028 0x80290001) ∧ (wRow
      sGrp ri 1028).2 < 16) ∧
    (sGrpV.Writes ri 1028 0 (wRow sGrpV ri 1028).1 (wRow sGrpV ri 1028).2 (wNew sGrpV ri 1028 0) ∧ (wRow sGrpV ri 1028).2
      < 16) ∧
    (sR.Seen ∧ sR.Writes ri 2052 1 (wRow sR ri 2052).1 (wRow sR ri 2052).2 (wNew sR ri 2052 1) ∧ sR.shows ri (wRow sR ri
      2052).1 (wRow sR ri 2052).2 ≠ wNew sR ri 2052 1) ∧
    (sRing_2.Writes ri (if false = true then 2320 else 2304) 0x80010000 (wRow sRing_2 ri 2304).1 (wRow sRing_2 ri 2304).2
      (wNew sRing_2 ri 2304 0x80010000) ∧ bit (BitVec.toNat (sRing_2.shows ri (wRow sRing_2 ri 2304).1 (wRow sRing_2 ri
      2304).2)) 31 = false ∧ bit (BitVec.toNat (wNew sRing_2 ri 2304 0x80010000)) 31 = true) ∧
    (sRing_2.Writes ri (if true = true then 2320 else 2304) 0x80010000 (wRow sRing_2 ri 2320).1 (wRow sRing_2 ri 2320).2
      (wNew sRing_2 ri 2320 0x80010000) ∧ bit (BitVec.toNat (sRing_2.shows ri (wRow sRing_2 ri 2320).1 (wRow sRing_2 ri
      2320).2)) 31 = false ∧ bit (BitVec.toNat (wNew sRing_2 ri 2320 0x80010000)) 31 = true) :=
  ⟨⟨(writes_of_wOk sMr ri 0x01C 1 (by decide +kernel)), (by decide +kernel)⟩, (writes_of_wOk sR ri 0x1000 5
    (by decide +kernel)), (writes_of_wOk sR ri 0x028 0x80010000 (by decide +kernel)), ⟨(writes_of_wOk sGrp ri 0x404
    0x80290001 (by decide +kernel)), (by decide +kernel)⟩, ⟨(writes_of_wOk sGrpV ri 0x404 0 (by decide +kernel)),
    (by decide +kernel)⟩, ⟨rfl, (writes_of_wOk sR ri 0x804 1 (by decide +kernel)), (by decide +kernel)⟩, ⟨(writes_of_wOk
    sRing_2 ri 0x900 0x80010000 (by decide +kernel)), (by decide +kernel), (by decide +kernel)⟩, ⟨(writes_of_wOk sRing_2
    ri 0x910 0x80010000 (by decide +kernel)), (by decide +kernel), (by decide +kernel)⟩⟩

theorem met_WritesComplete :
    (sRC.blk.start.regimeNext = some true ∧ sRC.blk.flights = [] ∧ sRC.blk.health.chipFailed = false) ∧
    (3 < 64) ∧
    (sSt.blk.start.storeInit = some 17 ∧ 17 ≤ BitVec.toNat sSt.blk.cycle) ∧
    ((sChk.blk.fgroup 1).checking = some (0x80290001, 17) ∧ (sChk.blk.setFgroup 1 { sChk.blk.fgroup 1 with checking :=
      none }).foldShapeOk 1 (GEntry.of 0x80290001 (sChk.blk.reg 1032 1) (sChk.blk.reg 1036 1)) = true ∧
      (sChk.blk.setFgroup 1 { sChk.blk.fgroup 1 with checking := none }).memberList (GEntry.of 0x80290001 (sChk.blk.reg
      1032 1) (sChk.blk.reg 1036 1)).base (GEntry.of 0x80290001 (sChk.blk.reg 1032 1) (sChk.blk.reg 1036 1)).n = some [0,
      1] ∧ (List.filter (fun x => decide (x = sChk.blk.self)) [0, 1]).length = 1 ∧ [0, 1].eraseDups.length = [0, 1].length
      ∧ ((GEntry.of 0x80290001 (sChk.blk.reg 1032 1) (sChk.blk.reg 1036 1)).tiered = false ∨ runsOk (GEntry.of 0x80290001
      (sChk.blk.reg 1032 1) (sChk.blk.reg 1036 1)).m [0, 1] = true)) ∧
    ((sChkBad.blk.fgroup 1).checking = some (0x80290001, 17) ∧ (sChkBad.blk.setFgroup 1 { sChkBad.blk.fgroup 1 with
      checking := none }).foldShapeOk 1 (GEntry.of 0x80290001 (sChkBad.blk.reg 1032 1) (sChkBad.blk.reg 1036 1)) = false) ∧
    (sCopy.Seen ∧ sCopy.blk.mem.stack.wf = true ∧ bit (BitVec.toNat (sCopy.blk.reg (if false = true then 2320 else 2304)))
      31 = true ∧ BitVec.toNat (sCopy.blk.reg ((if false = true then 2320 else 2304) + 8) - sCopy.blk.reg ((if false =
      true then 2320 else 2304) + 4)) ≠ 2 ^ (7 + fld (sCopy.blk.reg (if false = true then 2320 else 2304)) 30 28) ∧ (if
      false = true then sCopy.blk.tels else List.map Rec.bytes sCopy.blk.evts) = rec0.bytes :: x_copy) ∧
    (sCopyT.Seen ∧ sCopyT.blk.mem.stack.wf = true ∧ bit (BitVec.toNat (sCopyT.blk.reg (if true = true then 2320 else
      2304))) 31 = true ∧ BitVec.toNat (sCopyT.blk.reg ((if true = true then 2320 else 2304) + 8) - sCopyT.blk.reg ((if
      true = true then 2320 else 2304) + 4)) ≠ 2 ^ (7 + fld (sCopyT.blk.reg (if true = true then 2320 else 2304)) 30 28) ∧
      (if true = true then sCopyT.blk.tels else List.map Rec.bytes sCopyT.blk.evts) = [x_copyT, [1]]) ∧
    (fld (sTel.blk.reg 2332) 7 0 ≠ 0 ∧ fld (sTel.blk.reg 2332) 7 0 ≤ sTel.aon.gov.telCount ∧ sTel.blk.tels.length < 1024) :=
  ⟨⟨rfl, rfl, rfl⟩, (by decide), ⟨rfl, (by decide +kernel)⟩, ⟨(by decide +kernel), (by decide +kernel),
    (by decide +kernel), (by decide +kernel), (by decide +kernel), (by decide +kernel)⟩, ⟨(by decide +kernel),
    (by decide +kernel)⟩, ⟨rfl, (by decide +kernel), (by decide +kernel), (by decide +kernel), (by decide +kernel)⟩, ⟨rfl,
    (by decide +kernel), (by decide +kernel), (by decide +kernel), (by decide +kernel)⟩, ⟨(by decide +kernel),
    (by decide +kernel), (by decide +kernel)⟩⟩

/-! ### Reads -/

def sLat : State := sb fun b => { b with latch := b.latch.put Path.host.ix (12, 77) }

theorem met_ReadsReturn :
    (s0.Seen ∧ accessHeld (Requester.mgmt none) (256 / 4 * 4) false (s0.aon, s0.blk) = false ∧ s0.blk.latch.find
      Path.mgmt.ix = none) ∧
    (s0.Seen ∧ accessHeld Requester.host (8 / 4 * 4) false (s0.aon, s0.blk) = false ∧ s0.blk.latch.find Path.host.ix =
      none ∧ Blk.highOf s0.aon s0.blk Requester.host (8 / 4 * 4) = some (12, 0)) ∧
    (s0.Seen ∧ accessHeld Requester.host (4352 / 4 * 4) false (s0.aon, s0.blk) = false ∧ s0.blk.latch.find Path.host.ix =
      none ∧ Blk.highOf s0.aon s0.blk Requester.host (4352 / 4 * 4) = some (4356, 0)) ∧
    (sLat.Seen ∧ accessHeld Requester.host (12 / 4 * 4) false (sLat.aon, sLat.blk) = false ∧ sLat.blk.latch.find
      Path.host.ix = some (12 / 4 * 4, 77) ∧ Blk.highOf sLat.aon sLat.blk Requester.host (12 / 4 * 4) = none) :=
  ⟨⟨rfl, (by decide +kernel), (by decide +kernel)⟩, ⟨rfl, (by decide +kernel), (by decide +kernel), (by decide +kernel)⟩,
    ⟨rfl, (by decide +kernel), (by decide +kernel), (by decide +kernel)⟩, ⟨rfl, (by decide +kernel), (by decide +kernel),
    (by decide +kernel)⟩⟩

/-! ### Links -/

def pl8 : List Byte := [1, 2, 3, 4, 5, 6, 7, 8]

/-- A flit with its CRC. -/
def fliW (kind seq len : Nat) (payload : List Byte) : Flit :=
  let k : Flit := { kind := BitVec.ofNat 2 kind, vc := 2, len := BitVec.ofNat 7 len, seq := BitVec.ofNat 10 seq, ack := 0x3FF, payload := payload, crc := 0, slice := 0, creditVc := 2, credit := 9, nak := false, nakSeq := 0, fec := [], place := 0, flips := [] }
  { k with crc := flitCrc k.hdr k.payload }

def fli0 (i : Nat) (seq : Nat) : Flit := fliW 1 seq 2 (fillTo (payloadBytes (BitVec.ofNat 4 i)) pl8)

def lu : Link := { Link.reset with st := .up, expect := 3, replay := [⟨0, 0, [], none, []⟩] }

def sL (i : Nat) (l : Link) : State := { sR with blk := bR.setLink (BitVec.ofNat 4 i) l }

def lo : Link := { lu with owed := true, nakSince := 17, naks := 1 }

def lo3 : Link := { lo with naks := 3 }

def ct0 : Ctrl := { flags := 0, nakSeq := 0, credits := [1, 2, 3, 4, 5, 6, 7, 8], block := 0, tag := [], mapActive := 0, mapRetired := 0, mapGroup := 0, nonce := [], rekeyAt := 0 }

def ct2 : Ctrl := { ct0 with flags := 2, tag := List.replicate 16 (0 : Byte) }

def fliC (x : Ctrl) : Flit := fliW 2 3 62 (ctrlPayload x)

def luA : Link := { lu with auth := [fli0 2 2], tagFailed := none, openBlock := [⟨0, 0, fillTo 248 pl8, none, []⟩] }

/-- A link that opens an empty block under a key of zeros. -/
def luG : Link := { lu with session := { Session'.reset with rxKey := List.replicate 32 0, rxSalt := List.replicate 4 0 } }

/-- A SEAL with the tag that is published for AES-256-GCM with a key and an IV of zeros and no text. -/
def ctG : Ctrl := { ct2 with tag := [0x53, 0x0F, 0x8A, 0xFB, 0xC7, 0x45, 0x36, 0xB9, 0xA9, 0x63, 0xB4, 0xF1, 0xC4, 0xCB, 0x73, 0x8B] }

def luB : Link := { luA with tagFailed := some 0 }

def luR : Link := { lu with rx := ⟨0xFF, 0x300, 0, [], 0, 0⟩, tx := ⟨0xFF, 0, 0, [], 0, 0⟩ }

def luN : Link := { lu with rx := ⟨0xFF, 0, 0, [(0x7F, 0x80, 5)], 0, 0⟩, tx := ⟨0xFF, 0, 0, [(0x7F, 0x80, 5)], 0, 0⟩ }

def luM : Link := { luN with tx := { luN.tx with next := [(0x7F, 0x80, 0xFFFFF)] } }

def luK : Link := { lu with session := { Session'.reset with rekeyAt := some 4, txBlock := 4, nextTx := [9], nextSalt := [8] } }

def luW : Link := { lu with session := { Session'.reset with txBlock := 0x100000000 } }

def ld : Link := Link.reset

def luE : Link := { lu with enable := true }

def lst (st : LinkSt) : Link := { Link.reset with st := st, enable := true, since := 17, rx := ⟨0, 0, 0, [], 0, 0⟩, session := { Session'.reset with confirmed := true } }

def sRec : State := sL 2 { lst .recover with wait := [{ ctx := none, vc := 0, size := 32, left := List.replicate 32 0, far := true, hurt := [], out := .packet .here ⟨hd 4 0 8, []⟩ }] }

def late9 (s : State) : State := { s with blk := { s.blk with cycle := 300000000 } }

def sKey (i : Nat) (l : Link) : State := { sL i l with aon := { aI with vault := { aI.vault with fuses := { aI.vault.fuses with lifecycle := .provisioned }, linkKeys := Bank.all 3 (some [7]) } } }

def sOwn (i : Nat) (l : Link) : State := { sKey i l with aon := { aI with vault := { (sKey i l).aon.vault with fuses := { aI.vault.fuses with lifecycle := .owned } } } }

def s_toTrain : State := late9 (sL 2 (lst .train))

def s_toAlign : State := late9 (sL 2 (lst .align))

def s_toRec : State := late9 (sL 2 (lst .recover))

def s_toTrainP : State := late9 (sL 8 (lst .train))

def s_toRecP : State := late9 (sL 8 (lst .recover))

theorem met_LinkFlits_1 :
    (isPort 8 = true ∧ ((sL 8 lu).blk.link 8).st = LinkSt.up ∧ (fli0 8 3).decoded.bad (isFar 8) = false ∧ hurtLost (fli0 8
      3).flips = false ∧ ((sL 8 lu).blk.edge (linkEdge 8 false (fli0 8 3).slice.toNat)).items = [] ∧ ((fli0 8
      3).decoded.read (fli0 8 3).decoded.item).kind = 1 ∧ (isFar 8 = false → ((fli0 8 3).decoded.read (fli0 8
      3).decoded.item).nak = false) ∧ ((sL 8 lu).blk.link 8).wait = [] ∧ ((fli0 8 3).decoded.read (fli0 8
      3).decoded.item).seq = ((sL 8 lu).blk.link 8).expect) ∧
    (isPort 2 = true ∧ ((sL 2 lu).blk.link 2).st = LinkSt.up ∧ (fli0 2 3).decoded.bad (isFar 2) = false ∧ hurtLost (fli0 2
      3).flips = false ∧ ((sL 2 lu).blk.edge (linkEdge 2 false (fli0 2 3).slice.toNat)).items = [] ∧ ((fli0 2
      3).decoded.read (fli0 2 3).decoded.item).kind = 1 ∧ (isFar 2 = false → ((fli0 2 3).decoded.read (fli0 2
      3).decoded.item).nak = false) ∧ ((sL 2 lu).blk.link 2).wait = [] ∧ ((fli0 2 3).decoded.read (fli0 2
      3).decoded.item).seq = ((sL 2 lu).blk.link 2).expect) ∧
    (isPort 8 = true ∧ ((sL 8 lu).blk.link 8).st = LinkSt.up ∧ (fli0 8 5).decoded.bad (isFar 8) = false ∧ hurtLost (fli0 8
      5).flips = false ∧ ((sL 8 lu).blk.edge (linkEdge 8 false (fli0 8 5).slice.toNat)).items = [] ∧ ((fli0 8
      5).decoded.read (fli0 8 5).decoded.item).kind = 1 ∧ (isFar 8 = false → ((fli0 8 5).decoded.read (fli0 8
      5).decoded.item).nak = false) ∧ ((sL 8 lu).blk.link 8).wait = [] ∧ ((fli0 8 5).decoded.read (fli0 8
      5).decoded.item).seq ≠ ((sL 8 lu).blk.link 8).expect ∧ ((sL 8 lu).blk.link 8).owed = false ∧ ((sL 8 lu).blk.link
      8).withhold = false) ∧
    (isPort 8 = true ∧ ((sL 8 lo).blk.link 8).st = LinkSt.up ∧ ((sL 8 lo).blk.link 8).owed = true ∧ ((sL 8 lo).blk.link
      8).withhold = false ∧ ((((sL 8 lo).blk.link 8).nakSince + if isFar 8 = true then 1024 else 256) ≤ BitVec.toNat (sL 8
      lo).blk.cycle)) ∧
    (isPort 8 = true ∧ ((sL 8 lo3).blk.link 8).st = LinkSt.up ∧ ((sL 8 lo3).blk.link 8).owed = true ∧ ((sL 8 lo3).blk.link
      8).withhold = false ∧ ((((sL 8 lo3).blk.link 8).nakSince + if isFar 8 = true then 1024 else 256) ≤ BitVec.toNat (sL
      8 lo3).blk.cycle)) ∧
    (isFar 2 = true ∧ ((sL 2 lu).blk.link 2).st = LinkSt.up ∧ (fliC ct0).decoded.bad true = false ∧ hurtLost (fliC
      ct0).flips = false ∧ ((sL 2 lu).blk.edge (linkEdge 2 false (fliC ct0).slice.toNat)).items = [] ∧ ((fliC
      ct0).decoded.read (fliC ct0).decoded.item).kind = 2 ∧ ((sL 2 lu).blk.link 2).wait = [] ∧ (∀ f ∈ ((sL 2 lu).blk.link
      2).auth, hurtLost f.flips = false) ∧ (ctrlOfBytes ((fliC ct0).decoded.read (fliC ct0).decoded.item).payload).flags =
      0) ∧
    (isFar 2 = true ∧ ((sL 2 luA).blk.link 2).st = LinkSt.up ∧ (fliC ct2).decoded.bad true = false ∧ hurtLost (fliC
      ct2).flips = false ∧ ((sL 2 luA).blk.edge (linkEdge 2 false (fliC ct2).slice.toNat)).items = [] ∧ ((fliC
      ct2).decoded.read (fliC ct2).decoded.item).kind = 2 ∧ ((sL 2 luA).blk.link 2).wait = [] ∧ (∀ f ∈ ((sL 2
      luA).blk.link 2).auth, hurtLost f.flips = false) ∧ (ctrlOfBytes ((fliC ct2).decoded.read (fliC
      ct2).decoded.item).payload).flags = 2 ∧ ((fliC ct2).decoded.read (fliC ct2).decoded.item).seq = ((sL 2 luA).blk.link
      2).expect ∧ (ctrlOfBytes ((fliC ct2).decoded.read (fliC ct2).decoded.item).payload).block = ((sL 2 luA).blk.link
      2).session.rxBlock) ∧
    (isFar 2 = true ∧ ((sL 2 luG).blk.link 2).st = LinkSt.up ∧ (fliC ctG).decoded.bad true = false ∧ hurtLost (fliC
      ctG).flips = false ∧ ((sL 2 luG).blk.edge (linkEdge 2 false (fliC ctG).slice.toNat)).items = [] ∧ ((fliC
      ctG).decoded.read (fliC ctG).decoded.item).kind = 2 ∧ ((sL 2 luG).blk.link 2).wait = [] ∧ (∀ f ∈ ((sL 2
      luG).blk.link 2).auth, hurtLost f.flips = false) ∧ (ctrlOfBytes ((fliC ctG).decoded.read (fliC
      ctG).decoded.item).payload).flags = 2 ∧ ((fliC ctG).decoded.read (fliC ctG).decoded.item).seq = ((sL 2 luG).blk.link
      2).expect ∧ (ctrlOfBytes ((fliC ctG).decoded.read (fliC ctG).decoded.item).payload).block = ((sL 2 luG).blk.link
      2).session.rxBlock ∧ (gcmOpen (((sL 2 luG).blk.link 2).session.rxAt (ctrlOfBytes ((fliC ctG).decoded.read (fliC
      ctG).decoded.item).payload).block).1 (blockIv (((sL 2 luG).blk.link 2).session.rxAt (ctrlOfBytes ((fliC
      ctG).decoded.read (fliC ctG).decoded.item).payload).block).2 (ctrlOfBytes ((fliC ctG).decoded.read (fliC
      ctG).decoded.item).payload).block) (bareHdrs (List.map Flit.hdr ((sL 2 luG).blk.link 2).authFlits)) (List.flatMap
      (fun x => x.payload) ((sL 2 luG).blk.link 2).authFlits ++ (ctrlOfBytes ((fliC ctG).decoded.read (fliC
      ctG).decoded.item).payload).tag)).isSome = true) :=
  ⟨⟨rfl, rfl, (by decide +kernel), rfl, rfl, rfl, (fun _ => rfl), rfl, rfl⟩, ⟨rfl, rfl, (by decide +kernel), rfl, rfl,
    rfl, (fun _ => rfl), rfl, rfl⟩, ⟨rfl, rfl, (by decide +kernel), rfl, rfl, rfl, (fun _ => rfl), rfl, (by decide), rfl,
    rfl⟩, ⟨rfl, rfl, rfl, rfl, (by decide +kernel)⟩, ⟨rfl, rfl, rfl, rfl, (by decide +kernel)⟩, ⟨rfl, rfl,
    (by decide +kernel), rfl, rfl, rfl, rfl, (by decide), (by decide +kernel)⟩, ⟨rfl, rfl, (by decide +kernel), rfl, rfl,
    rfl, rfl, (by decide), (by decide +kernel), rfl, (by decide +kernel)⟩, ⟨rfl, rfl, (by decide +kernel), rfl, rfl, rfl,
    rfl, (by decide), (by decide +kernel), rfl, (by decide +kernel), (by decide +kernel)⟩⟩

theorem met_LinkFlits_2 :
    (isFar 2 = true ∧ ((sL 2 luB).blk.link 2).st = LinkSt.up ∧ (fliC ct2).decoded.bad true = false ∧ hurtLost (fliC
      ct2).flips = false ∧ ((sL 2 luB).blk.edge (linkEdge 2 false (fliC ct2).slice.toNat)).items = [] ∧ ((fliC
      ct2).decoded.read (fliC ct2).decoded.item).kind = 2 ∧ ((sL 2 luB).blk.link 2).wait = [] ∧ (∀ f ∈ ((sL 2
      luB).blk.link 2).auth, hurtLost f.flips = false) ∧ (ctrlOfBytes ((fliC ct2).decoded.read (fliC
      ct2).decoded.item).payload).flags = 2 ∧ ((fliC ct2).decoded.read (fliC ct2).decoded.item).seq = ((sL 2 luB).blk.link
      2).expect ∧ (ctrlOfBytes ((fliC ct2).decoded.read (fliC ct2).decoded.item).payload).block = ((sL 2 luB).blk.link
      2).session.rxBlock) ∧
    (isFar 2 = true ∧ ((sL 2 luA).blk.link 2).st = LinkSt.up) :=
  ⟨⟨rfl, rfl, (by decide +kernel), rfl, rfl, rfl, rfl, (by decide), (by decide +kernel), rfl, (by decide +kernel)⟩, ⟨rfl,
    rfl⟩⟩

theorem met_LanesAndKeys_1 :
    (isFar 2 = true ∧ ((sL 2 luR).blk.link 2).st = LinkSt.up ∧ bit ((sL 2 luR).blk.link 2).rx.coming.toNat 3 = true ∧ 7 ≤
      ((sL 2 luR).blk.link 2).rxGood) ∧
    (isFar 2 = true ∧ ((sL 2 luN).blk.link 2).st = LinkSt.up ∧ bit ((sL 2 luN).blk.link 2).rx.coming.toNat 3 = true ∧ 7 ≤
      ((sL 2 luN).blk.link 2).rxGood) ∧
    (isFar 2 = true ∧ bit ((sL 2 luR).blk.link 2).rx.spare.toNat 9 = true) ∧
    (isFar 2 = true ∧ ((sL 2 luN).blk.link 2).st = LinkSt.up ∧ (if false = true then ((sL 2 luN).blk.link 2).tx else ((sL
      2 luN).blk.link 2).rx).next = [(127, 128, 5)] ∧ (if false = true then ((sL 2 luN).blk.link 2).tx else ((sL 2
      luN).blk.link 2).rx).come (BitVec.toNat (sL 2 luN).blk.cycle) 5 = true) ∧
    (isFar 2 = true ∧ ((sL 2 luN).blk.link 2).st = LinkSt.up ∧ (if true = true then ((sL 2 luN).blk.link 2).tx else ((sL 2
      luN).blk.link 2).rx).next = [(127, 128, 5)] ∧ (if true = true then ((sL 2 luN).blk.link 2).tx else ((sL 2
      luN).blk.link 2).rx).come (BitVec.toNat (sL 2 luN).blk.cycle) 5 = true) ∧
    (isFar 2 = true ∧ ((sL 2 luM).blk.link 2).st = LinkSt.up ∧ (if true = true then ((sL 2 luM).blk.link 2).tx else ((sL 2
      luM).blk.link 2).rx).next = [(127, 128, 0xFFFFF)] ∧ (if true = true then ((sL 2 luM).blk.link 2).tx else ((sL 2
      luM).blk.link 2).rx).come (BitVec.toNat (sL 2 luM).blk.cycle) 0xFFFFF = false) ∧
    (accessHeld Requester.host 1284 true ((sL 0 lu).aon, (sL 0 lu).blk) = false ∧ fld ((sL 0 lu).blk.reg 1280 (reqPath
      Requester.host).ix) 3 0 < 6 ∧ ((sL 0 lu).blk.link (BitVec.ofNat 4 (fld ((sL 0 lu).blk.reg 1280 (reqPath
      Requester.host).ix) 3 0))).st = LinkSt.up ∧ ((sL 0 lu).blk.link (BitVec.ofNat 4 (fld ((sL 0 lu).blk.reg 1280
      (reqPath Requester.host).ix) 3 0))).session.newLocal = [] ∧ ((sL 0 lu).blk.link (BitVec.ofNat 4 (fld ((sL 0
      lu).blk.reg 1280 (reqPath Requester.host).ix) 3 0))).session.rekeyAt = none) ∧
    (isFar 0 = true ∧ ((sL 0 luW).blk.link 0).st = LinkSt.up ∧ ((sL 0 luW).blk.link 0).session.newLocal = [] ∧ ((sL 0
      luW).blk.link 0).session.rekeyAt = none ∧ (2 ^ 32 ≤ BitVec.toNat ((sL 0 luW).blk.link 0).session.txBlock ∨ 2 ^ 32 ≤
      BitVec.toNat ((sL 0 luW).blk.link 0).session.rxBlock)) :=
  ⟨⟨rfl, rfl, (by decide +kernel), (by decide +kernel)⟩, ⟨rfl, rfl, (by decide +kernel), (by decide +kernel)⟩, ⟨rfl, rfl⟩,
    ⟨rfl, rfl, rfl, (by decide +kernel)⟩, ⟨rfl, rfl, rfl, (by decide +kernel)⟩, ⟨rfl, rfl, rfl, (by decide +kernel)⟩,
    ⟨(by decide +kernel), (by decide +kernel), (by decide +kernel), (by decide +kernel), (by decide +kernel)⟩, ⟨rfl, rfl,
    rfl, rfl, (by decide +kernel)⟩⟩

theorem met_LanesAndKeys_2 :
    (isFar 2 = true ∧ ((sL 2 luK).blk.link 2).session.rekeyAt = some 4 ∧ 4 ≤ BitVec.toNat ((sL 2 luK).blk.link
      2).session.txBlock ∧ ((sL 2 luK).blk.link 2).session.nextTx ≠ []) :=
  ⟨rfl, rfl, (by decide +kernel), (by decide +kernel)⟩

theorem met_LinkStates_1 :
    ((sL 0 ld).Writes ri 1284 (BitVec.ofNat 32 (b01 true)) (wRow (sL 0 ld) ri 1284).1 (wRow (sL 0 ld) ri 1284).2 (wNew (sL
      0 ld) ri 1284 (BitVec.ofNat 32 (b01 true))) ∧ (wRow (sL 0 ld) ri 1284).2 < 11) ∧
    ((sL 0 luE).Writes ri 1284 (BitVec.ofNat 32 (b01 false)) (wRow (sL 0 luE) ri 1284).1 (wRow (sL 0 luE) ri 1284).2 (wNew
      (sL 0 luE) ri 1284 (BitVec.ofNat 32 (b01 false))) ∧ (wRow (sL 0 luE) ri 1284).2 < 11) ∧
    (accessHeld Requester.host 1284 true ((sL 0 lu).aon, (sL 0 lu).blk) = false ∧ fld ((sL 0 lu).blk.reg 1280 (reqPath
      Requester.host).ix) 3 0 < 11 ∧ ((sL 0 lu).blk.link (BitVec.ofNat 4 (fld ((sL 0 lu).blk.reg 1280 (reqPath
      Requester.host).ix) 3 0))).st = LinkSt.up) ∧
    (isFar 2 = true ∧ ((sL 2 (lst LinkSt.detect)).blk.link 2).st = LinkSt.detect ∧ 6 ≤ popCount 10 63) ∧
    (isFar 2 = true ∧ ((sL 2 (lst LinkSt.train)).blk.link 2).st = LinkSt.train ∧ popCount 10 (((sL 2 (lst
      LinkSt.train)).blk.link 2).rx.retired ||| ~~~63).toNat ≤ 4) ∧
    (isFar 2 = true ∧ ((sL 2 (lst LinkSt.train)).blk.link 2).st = LinkSt.train ∧ 4 < popCount 10 (((sL 2 (lst
      LinkSt.train)).blk.link 2).rx.retired ||| ~~~31).toNat) ∧
    (isFar 2 = true ∧ ((sL 2 (lst LinkSt.map)).blk.link 2).st = LinkSt.map ∧ posOf 8 = posOf (sL 2 (lst
      LinkSt.map)).blk.self ∧ pkgOf 8 ≠ pkgOf (sL 2 (lst LinkSt.map)).blk.self) ∧
    (isFar 2 = true ∧ ((sL 2 (lst LinkSt.map)).blk.link 2).st = LinkSt.map ∧ posOf 0 = posOf (sL 2 (lst
      LinkSt.map)).blk.self ∧ pkgOf 0 = pkgOf (sL 2 (lst LinkSt.map)).blk.self) :=
  ⟨⟨(writes_of_wOk (sL 0 ld) ri 0x504 (BitVec.ofNat 32 (b01 true)) (by decide +kernel)), (by decide +kernel)⟩,
    ⟨(writes_of_wOk (sL 0 luE) ri 0x504 (BitVec.ofNat 32 (b01 false)) (by decide +kernel)), (by decide +kernel)⟩,
    ⟨(by decide +kernel), (by decide +kernel), (by decide +kernel)⟩, ⟨rfl, rfl, (by decide +kernel)⟩, ⟨rfl, rfl,
    (by decide +kernel)⟩, ⟨rfl, rfl, (by decide +kernel)⟩, ⟨rfl, rfl, (by decide +kernel), (by decide +kernel)⟩, ⟨rfl,
    rfl, (by decide +kernel), (by decide +kernel)⟩⟩

theorem met_LinkStates_2 :
    (isFar 2 = true ∧ ((sL 2 (lst LinkSt.map)).blk.link 2).st = LinkSt.map ∧ posOf 9 ≠ posOf (sL 2 (lst
      LinkSt.map)).blk.self) ∧
    (isFar 2 = true ∧ ((sL 2 (lst LinkSt.align)).blk.link 2).st = LinkSt.align) ∧
    (isFar 2 = true ∧ ((sL 2 (lst LinkSt.secure)).blk.link 2).st = LinkSt.secure ∧ ((sL 2 (lst LinkSt.secure)).blk.link
      2).session.confirmed = true ∧ (sL 2 (lst LinkSt.secure)).aon.vault.linkKeys.rd 2#3 = none) ∧
    (isFar 2 = true ∧ ((sKey 2 (lst LinkSt.secure)).blk.link 2).st = LinkSt.secure ∧ ((sKey 2 (lst
      LinkSt.secure)).blk.link 2).session.confirmed = true ∧ (sKey 2 (lst LinkSt.secure)).aon.vault.linkKeys.rd 2#3 ≠
      none) ∧
    (isFar 2 = true ∧ ((sOwn 2 (lst LinkSt.secure)).blk.link 2).st = LinkSt.secure ∧ ((sOwn 2 (lst
      LinkSt.secure)).blk.link 2).session.confirmed = true ∧ (sOwn 2 (lst LinkSt.secure)).aon.vault.linkKeys.rd 2#3 ≠
      none) ∧
    (isFar 2 = true ∧ (sRec.blk.link 2).st = LinkSt.recover ∧ (∀ p ∈ (sRec.blk.link 2).wait, p.hurt = []) ∧ (∀ f ∈
      (sRec.blk.link 2).replay, f.hurt = [])) ∧
    (isFar 2 = true ∧ ((sL 2 (lst LinkSt.up)).blk.link 2).st = LinkSt.up) ∧
    (isPort 2 = true ∧ stateLimit (isFar 2) (s_toTrain.blk.link 2).st = some (0x1312D00, 2) ∧ ((s_toTrain.blk.link 2).st =
      LinkSt.secure → s_toTrain.aon.vault.linkKeys.rd 2#3 ≠ none) ∧ (s_toTrain.blk.link 2).since + (0x1312D00, 2).1 <
      BitVec.toNat s_toTrain.blk.cycle) :=
  ⟨⟨rfl, rfl, (by decide +kernel)⟩, ⟨rfl, rfl⟩, ⟨rfl, rfl, rfl, (by decide +kernel)⟩, ⟨rfl, rfl, rfl,
    (by decide +kernel)⟩, ⟨rfl, rfl, rfl, (by decide +kernel)⟩, ⟨rfl, rfl, (by decide +kernel), (by decide +kernel)⟩,
    ⟨rfl, rfl⟩, ⟨rfl, rfl, (by decide +kernel), (by decide +kernel)⟩⟩

theorem met_LinkStates_3 :
    (isPort 2 = true ∧ stateLimit (isFar 2) ((late9 (sL 2 (lst LinkSt.map))).blk.link 2).st = some (0x186A0, 3) ∧ (((late9
      (sL 2 (lst LinkSt.map))).blk.link 2).st = LinkSt.secure → (late9 (sL 2 (lst LinkSt.map))).aon.vault.linkKeys.rd 2#3
      ≠ none) ∧ ((late9 (sL 2 (lst LinkSt.map))).blk.link 2).since + (0x186A0, 3).1 < BitVec.toNat (late9 (sL 2 (lst
      LinkSt.map))).blk.cycle) ∧
    (isPort 2 = true ∧ stateLimit (isFar 2) (s_toAlign.blk.link 2).st = some (0xF4240, 4) ∧ ((s_toAlign.blk.link 2).st =
      LinkSt.secure → s_toAlign.aon.vault.linkKeys.rd 2#3 ≠ none) ∧ (s_toAlign.blk.link 2).since + (0xF4240, 4).1 <
      BitVec.toNat s_toAlign.blk.cycle) ∧
    (isPort 2 = true ∧ stateLimit (isFar 2) (s_toRec.blk.link 2).st = some (0x1E8480, 7) ∧ ((s_toRec.blk.link 2).st =
      LinkSt.secure → s_toRec.aon.vault.linkKeys.rd 2#3 ≠ none) ∧ (s_toRec.blk.link 2).since + (0x1E8480, 7).1 <
      BitVec.toNat s_toRec.blk.cycle) ∧
    (isPort 8 = true ∧ stateLimit (isFar 8) (s_toTrainP.blk.link 8).st = some (0x186A0, 2) ∧ ((s_toTrainP.blk.link 8).st =
      LinkSt.secure → s_toTrainP.aon.vault.linkKeys.rd 8#3 ≠ none) ∧ (s_toTrainP.blk.link 8).since + (0x186A0, 2).1 <
      BitVec.toNat s_toTrainP.blk.cycle) ∧
    (isPort 8 = true ∧ stateLimit (isFar 8) (s_toRecP.blk.link 8).st = some (0x30D40, 2) ∧ ((s_toRecP.blk.link 8).st =
      LinkSt.secure → s_toRecP.aon.vault.linkKeys.rd 8#3 ≠ none) ∧ (s_toRecP.blk.link 8).since + (0x30D40, 2).1 <
      BitVec.toNat s_toRecP.blk.cycle) ∧
    (isPort 2 = true ∧ ((late9 (sL 2 (lst LinkSt.down))).blk.link 2).st = LinkSt.down ∧ ((late9 (sL 2 (lst
      LinkSt.down))).blk.link 2).enable = true ∧ ((late9 (sL 2 (lst LinkSt.down))).blk.link 2).since + 0x5F5E100 ≤
      BitVec.toNat (late9 (sL 2 (lst LinkSt.down))).blk.cycle) ∧
    (isPort 8 = true ∧ ((late9 (sL 8 (lst LinkSt.down))).blk.link 8).st = LinkSt.down ∧ ((late9 (sL 8 (lst
      LinkSt.down))).blk.link 8).enable = true ∧ ((late9 (sL 8 (lst LinkSt.down))).blk.link 8).since + 0x5F5E100 ≤
      BitVec.toNat (late9 (sL 8 (lst LinkSt.down))).blk.cycle) ∧
    (isPort 8 = true ∧ isFar 8 = false ∧ ((sL 8 (lst LinkSt.train)).blk.link 8).st = LinkSt.train) :=
  ⟨⟨rfl, rfl, (by decide +kernel), (by decide +kernel)⟩, ⟨rfl, rfl, (by decide +kernel), (by decide +kernel)⟩, ⟨rfl, rfl,
    (by decide +kernel), (by decide +kernel)⟩, ⟨rfl, rfl, (by decide +kernel), (by decide +kernel)⟩, ⟨rfl, rfl,
    (by decide +kernel), (by decide +kernel)⟩, ⟨rfl, rfl, rfl, (by decide +kernel)⟩, ⟨rfl, rfl, rfl, (by decide +kernel)⟩,
    ⟨rfl, rfl, rfl⟩⟩

/-! ### Wear, noise, governor -/

def sHp (f : Health → Health) : State := { sR with blk := { bR with health := f bR.health } }

def sWear (u : Nat) (w : Wear) : State := sHp fun h => { h with units := [(u, w)] }

def sNo (f : Noise → Noise) : State := { sR with aon := { aI with noise := f aI.noise } }

def sFailN : State := sNo fun n => { n with st := .failed }

def sGv (f : Gov → Gov) : State := { sR with aon := { aI with gov := f aI.gov } }

def sDam : State := { sR with blk := { bR with mem := { bR.mem with flips := [(33, 4)], scratch := [(132, 7)] } } }

def flFail : Flight := { fl0 with word := encR 0x60 rz }

def sFail : State := { sD with blk := { bF [flFail] with health := { bD.health with chipFailed := true, writeout := true } } }

def cfReg : Config' := { digest := [1, 2], seq := 5, pubs := [none, none, none, none], regulators := [0x0112] }

/-- The management plane with one regulator of the memory domain, which bus 1 answers. -/
def aReg : Aon := { aI with vault := { aI.vault with config := some cfReg }, regBus := [some 1] }

def paceB (r : Nat) : List Byte := toLe 4 r ++ toLe 2 1 ++ toLe 2 500 ++ toLe 2 100 ++ toLe 2 400 ++ zeroBytes 4

def kPace (src r : Nat) : CometMsg :=
  { kind := 2, ttl := 1, op := 0, int := false, mode := false, pass := false, stage := 0, step := 0, rsv := 0, rsv8 := 0, len := 16, id := 0, src := BitVec.ofNat 12 src, dst := BitVec.ofNat 12 (1 - src), part := 0, check := 0, crc := BitVec.ofNat 16 (crc32c (paceB r)).toNat, payload := paceB r }

def sPk1 : State := { sR with blk := (bR.setReg 0x004 0 1) }

def sPkW : State := { sPk1 with blk := { sPk1.blk with comets := { sPk1.blk.comets with held := [kPace 0 8] } } }

def sWin : State := { sWear 3 { Wear.reset with window := 9, errRows := [4] } with blk := { (sWear 3 { Wear.reset with window := 9, errRows := [4] }).blk with cycle := 0x80000000 } }

def sPk (me : Nat) : State := { sR with blk := (bR.setReg 0x004 0 (BitVec.ofNat 32 me)) }

def s_swap : State := sHp fun h => { h with outStages := { h.outStages with waiting := some 4 } }

def s_swapIn : State := sHp fun h => { h with inStages := { h.inStages with waiting := some 4 } }

def s_swapDone : State := sHp fun h => { h with outStages := { h.outStages with swapEnd := some 4 } }

def s_retest : State := sWear 25 { Wear.reset with due := [7, 8] }

def s_retestD : State := sWear 25 { Wear.reset with retest := some (7, 17), failing := [7], due := [7] }

def s_retestL : State := sWear 23 { Wear.reset with retest := some (7, 17), failing := [7], due := [7] }

def s_window : State := sWear 3 { Wear.reset with window := 9, errRows := [4] }

def s_rowCopy : State := sWear 3 { Wear.reset with copies := [(9, 17)] }

def s_bank : State := sHp fun h => { h with bankCopy := some (4, 17) }

def s_quad : State := sHp fun h => { h with quadDue := [5] }

def s_sampleOk : State := sNo fun n => { n with st := .ok }

def s_sampleRct : State := sNo fun n => { n with st := .ok, last := true, runLen := 40 }

def s_sampleRct3 : State := sNo fun n => { n with st := .ok, last := true, runLen := 40, retries := 2 }

def s_startE : State := sNo fun n => { n with st := .startup, testPos := 1024, seen0 := true, seen1 := true }

def s_startE2 : State := sNo fun n => { n with st := .retry, testPos := 1024, seen0 := true, seen1 := false, retries := 2 }

def s_cond : State := sNo fun n => { n with st := .ok, block := List.replicate 1024 true, instantiated := true }

def s_cond2 : State := sNo fun n => { n with st := .ok, block := List.replicate 1024 true, instantiated := false, ready := [[1]] }

def s_reseed : State := sNo fun n => { n with instantiated := true, ready := [[1]], reseedDue := true }

def s_gen : State := sNo fun n => { n with st := .ok, instantiated := true, waiting := [some (p0, 5)] }

def s_kat : State := sa fun a => { a with vault := { a.vault with kat := none } }

def s_periodA : State := sGv fun g => { g with alerts := 1 }

def s_govR : State := { sR with blk := bR.setLink 9 { Link.reset with st := .up } }

def x_pmapN : Aon := { aReg with regBus := [] }

theorem met_WearEvents_1 :
    ((s_swap.blk.health.stages false).waiting = some 4 ∧ (s_swap.blk.health.stages false).swapEnd = none ∧
      s_swap.blk.unitIdle (if false = true then 29 else 28) = true ∧ s_swap.blk.health.chipFailed = false ∧ popCount 19
      ((s_swap.blk.health.stages false).retired ||| BitVec.ofNat 19 (2 ^ 4)).toNat ≤ 2 ∧ 6 ≤ s_swap.blk.start.stage.toNat) ∧
    ((s_swapIn.blk.health.stages true).waiting = some 4 ∧ (s_swapIn.blk.health.stages true).swapEnd = none ∧
      s_swapIn.blk.unitIdle (if true = true then 29 else 28) = true ∧ s_swapIn.blk.health.chipFailed = false ∧ popCount 19
      ((s_swapIn.blk.health.stages true).retired ||| BitVec.ofNat 19 (2 ^ 4)).toNat ≤ 2 ∧ 6 ≤
      s_swapIn.blk.start.stage.toNat) ∧
    ((s_swapDone.blk.health.stages false).swapEnd = some 4 ∧ 4 ≤ BitVec.toNat s_swapDone.blk.cycle) ∧
    ((s_retest.blk.wear 25).due = [7, 8] ∧ (s_retest.blk.wear 25).retest = none ∧ s_retest.blk.unitIdle 25 = true) ∧
    ((s_retestD.blk.wear 25).retest = some (7, 17) ∧ 17 ≤ BitVec.toNat s_retestD.blk.cycle) ∧
    ((s_retestL.blk.wear 23).retest = some (7, 17) ∧ 17 ≤ BitVec.toNat s_retestL.blk.cycle) ∧
    (BitVec.toNat s_window.blk.cycle < s_window.blk.health.windowAt + 2 ^ 30) ∧
    (sWin.blk.health.windowAt + 2 ^ 30 ≤ BitVec.toNat sWin.blk.cycle) :=
  ⟨⟨rfl, rfl, rfl, rfl, (by decide), (by decide +kernel)⟩, ⟨rfl, rfl, rfl, rfl, (by decide), (by decide +kernel)⟩, ⟨rfl,
    (by decide)⟩, ⟨rfl, rfl, rfl⟩, ⟨rfl, (by decide)⟩, ⟨rfl, (by decide)⟩, (by decide), (by decide)⟩

theorem met_WearEvents_2 :
    (List.find? (fun c => decide (c.1 = 9)) (s_rowCopy.blk.wear 3).copies = some (9, 17) ∧ 17 ≤ BitVec.toNat
      s_rowCopy.blk.cycle) ∧
    (sDam.blk.bankIn 0 = some 0 ∧ (∀ f ∈ sDam.blk.flights, bit (f.bankRd ||| f.bankWr).toNat 0 = false) ∧ (0, 1) ∉
      sDam.blk.health.scrubbed ∧ 33 ∈ sDam.blk.damaged 0 1 ∧ (sDam.blk.mem.word 33).isSome = true) ∧
    (s_bank.blk.health.bankCopy = some (4, 17) ∧ 17 ≤ BitVec.toNat s_bank.blk.cycle) ∧
    (s_quad.blk.health.quadDue = [5] ∧ s_quad.blk.unitIdle 23 = true) ∧
    (sFail.blk.health.chipFailed = true ∧ sFail.blk.health.writeout = true) :=
  ⟨⟨rfl, (by decide)⟩, ⟨rfl, (by decide +kernel), (by decide), (by decide +kernel), (by decide +kernel)⟩, ⟨rfl, (by
    decide)⟩, ⟨rfl, rfl⟩, ⟨rfl, rfl⟩⟩

theorem met_NoiseSource_1 :
    (s_sampleOk.aon.noise.st = NoiseSt.ok ∧ (s_sampleOk.aon.noise.test true).2 = none ∧ s_sampleOk.aon.noise.block.length
      < 1024) ∧
    (s_sampleRct.aon.noise.st ≠ NoiseSt.failed ∧ s_sampleRct.aon.noise.last = true ∧ 40 ≤ s_sampleRct.aon.noise.runLen) ∧
    (s_sampleRct3.aon.noise.st ≠ NoiseSt.failed ∧ s_sampleRct3.aon.noise.last = true ∧ 40 ≤ s_sampleRct3.aon.noise.runLen) ∧
    ((s_startE.aon.noise.st = NoiseSt.startup ∨ s_startE.aon.noise.st = NoiseSt.retry) ∧ 1024 ≤
      s_startE.aon.noise.testPos) ∧
    ((s_startE2.aon.noise.st = NoiseSt.startup ∨ s_startE2.aon.noise.st = NoiseSt.retry) ∧ 1024 ≤
      s_startE2.aon.noise.testPos) ∧
    (s_cond.aon.noise.st = NoiseSt.ok ∧ 1024 ≤ s_cond.aon.noise.block.length) ∧
    (s_cond2.aon.noise.st = NoiseSt.ok ∧ 1024 ≤ s_cond2.aon.noise.block.length) ∧
    (s_reseed.aon.noise.instantiated = true ∧ s_reseed.aon.noise.ready = [[1]] ∧ (s_reseed.aon.noise.reseedDue = true ∨ 2
      ^ 20 - 2 ^ 10 ≤ s_reseed.aon.noise.requests)) :=
  ⟨⟨rfl, rfl, (by decide)⟩, ⟨(by decide), rfl, (by decide)⟩, ⟨(by decide), rfl, (by decide)⟩, ⟨(by decide), (by decide)⟩,
    ⟨(by decide), (by decide)⟩, ⟨rfl, (by decide +kernel)⟩, ⟨rfl, (by decide +kernel)⟩, ⟨rfl, rfl, (by decide)⟩⟩

theorem met_NoiseSource_2 :
    (s_gen.aon.noise.waiting = [some (p0, 5)] ∧ s_gen.aon.noise.st = NoiseSt.ok ∧ s_gen.aon.noise.instantiated = true ∧
      s_gen.aon.noise.reseedDue = false ∧ s_gen.aon.noise.blockDue = false) ∧
    (sFailN.Writes ri 1860 1 (wRow sFailN ri 1860).1 (wRow sFailN ri 1860).2 (wNew sFailN ri 1860 1) ∧ bit (BitVec.toNat
      (wNew sFailN ri 1860 1)) 0 = true ∧ sFailN.aon.noise.st = NoiseSt.failed) ∧
    (s_kat.aon.vault.kat = none) :=
  ⟨⟨rfl, rfl, rfl, rfl, rfl⟩, ⟨(writes_of_wOk sFailN ri 0x744 1 (by decide +kernel)), (by decide +kernel), rfl⟩, rfl⟩

theorem met_GovernorPeriods_1 :
    (sR.aon.vault.boot ≠ Boot.restart) ∧
    (s_periodA.aon.vault.boot ≠ Boot.restart) ∧
    (1 ≠ 3 ∧ (s_govR.blk.link (Port.k 1).ix).st = LinkSt.up) ∧
    (aReg.vault.config = some cfReg ∧ cfReg.regulators = [274] ∧ 274 ≠ 0 ∧ [100] = [100] ∧ 1 < 3) ∧
    (x_pmapN.vault.config = some cfReg ∧ cfReg.regulators = [274] ∧ 274 ≠ 0 ∧ [100] = [100] ∧ 1 < 3) ∧
    (aReg.vault.config = some cfReg ∧ cfReg.regulators = [274] ∧ 274 ≠ 0 ∧ [100] = [100] ∧ 2 < 3) ∧
    (sR.aon.vault.boot ≠ Boot.restart ∧ ((BitVec.toNat sR.aon.gov.roundFrom + if sR.aon.gov.leader (posOf sR.blk.self) =
      posOf sR.blk.self then 2500 else 2560) ≤ BitVec.toNat sR.aon.count)) ∧
    (badPace (sPk 0).blk (kPace 1 0) = false ∧ (sPk 0).blk.cometWaits (kPace 1 0) = false ∧ (kPace 1 0).dst = (sPk
      0).blk.self ∧ (sPk 0).aon.vault.boot ≠ Boot.restart ∧ (∀ (l : Word), (sPk 0).aon.gov.heard.find (posOf (kPace 1
      0).src) = some l → notAfter l (Pace.ofBytes (kPace 1 0).payload).round = true) ∧ (Pace.ofBytes (kPace 1
      0).payload).round = (sPk 0).aon.gov.round) :=
  ⟨(by decide), (by decide), ⟨(by decide), rfl⟩, ⟨rfl, rfl, (by decide), rfl, (by decide)⟩, ⟨rfl, rfl, (by decide), rfl,
    (by decide)⟩, ⟨rfl, rfl, (by decide), rfl, (by decide)⟩, ⟨(by decide), (by decide +kernel)⟩, ⟨(by decide +kernel),
    (by decide +kernel), (by decide +kernel), (by decide), (by intro l hl; cases hl), (by decide +kernel)⟩⟩

theorem met_GovernorPeriods_2 :
    (badPace sPk1.blk (kPace 0 1) = false ∧ sPk1.blk.cometWaits (kPace 0 1) = false ∧ (kPace 0 1).dst = sPk1.blk.self ∧
      sPk1.aon.vault.boot ≠ Boot.restart ∧ (∀ (l : Word), sPk1.aon.gov.heard.find (posOf (kPace 0 1).src) = some l →
      notAfter l (Pace.ofBytes (kPace 0 1).payload).round = true) ∧ (Pace.ofBytes (kPace 0 1).payload).round =
      sPk1.aon.gov.round + 1 ∧ (sPk1.aon.gov.keepPace (posOf (kPace 0 1).src) (Pace.ofBytes (kPace 0 1).payload)).leader
      (posOf sPk1.blk.self) = posOf (kPace 0 1).src) ∧
    (badPace sPk1.blk (kPace 0 9) = false ∧ sPk1.blk.cometWaits (kPace 0 9) = false ∧ (kPace 0 9).dst = sPk1.blk.self ∧
      sPk1.aon.vault.boot ≠ Boot.restart ∧ (Pace.ofBytes (kPace 0 9).payload).round ≠ sPk1.aon.gov.round ∧ (Pace.ofBytes
      (kPace 0 9).payload).round ≠ sPk1.aon.gov.round + 1 ∧ (Pace.ofBytes (kPace 0 9).payload).round + 1 ≠
      sPk1.aon.gov.round ∧ ((sPk1.aon.gov.renumber ((Pace.ofBytes (kPace 0 9).payload).round - 1)).keepPace (posOf (kPace
      0 9).src) (Pace.ofBytes (kPace 0 9).payload)).leader (posOf sPk1.blk.self) = posOf (kPace 0 9).src) ∧
    (badPace sPkW.blk (kPace 0 9) = false ∧ sPkW.blk.cometWaits (kPace 0 9) = true ∧ sPkW.Seen ∧ (List.filter (fun y =>
      decide (sPkW.blk.cometPort y = sPkW.blk.cometPort (kPace 0 9))) sPkW.blk.comets.held).length < 32) :=
  ⟨⟨(by decide +kernel), (by decide +kernel), (by decide +kernel), (by decide), (by intro l hl; cases hl),
    (by decide +kernel), (by decide +kernel)⟩, ⟨(by decide +kernel), (by decide +kernel), (by decide +kernel), (by
    decide), (by decide +kernel), (by decide +kernel), (by decide +kernel), (by decide +kernel)⟩, ⟨(by decide +kernel),
    (by decide +kernel), rfl, (by decide +kernel)⟩⟩

/-! ### Supplies -/

def sGb (f : Gov → Gov) (g : Blk → Blk) : State := { sR with aon := { aI with gov := f aI.gov }, blk := g bR }

def s_warnHold : State := sGv fun g => { g with hold := .hold 1 5 none }

def s_warnHoldN : State := sGv fun g => { g with hold := .hold 1 5 (some 9), nearNow := 4 }

def s_alertEnd : State := sGv fun g => { g with alerts := 4, op := 0 }

def s_holdEnd : State := sGv fun g => { g with hold := .hold 2 5 (some 100) }

def s_stepUp : State := sGb (fun g => { g with hold := .ramp 2 5, dieOp := Bank.all 2 0 }) fun b => b.setReg 0x11C 0 3

def s_opStep : State := sGv fun g => { g with opNext := some 4, opSince := 7 }

def s_opStepS : State := sGv fun g => { g with opNext := some 4, opSince := 1999999 }

theorem met_SuppliesAndAlerts_1 :
    ((1 = 1 ∨ 1 = 2)) ∧
    ((2 = 1 ∨ 2 = 2)) ∧
    ((0 = 0 ∨ 0 = 3 ∨ 0 = 4 ∨ 0 = 5)) ∧
    (4 < 6 ∧ RailLevel.good ≠ RailLevel.below) ∧
    (4 < 6 ∧ RailLevel.near ≠ RailLevel.below) ∧
    (((1, 2) = (1, 2) ∨ (1, 2) = (2, 1)) ∧ s_warnHold.aon.gov.hold = Hold.hold 1 5 none) ∧
    (((1, 2) = (1, 2) ∨ (1, 2) = (2, 1)) ∧ s_warnHoldN.aon.gov.hold = Hold.hold 1 5 (some 9)) ∧
    (sR.aon.gov.alerts = 0 ∧ sR.aon.gov.critNow = 0) :=
  ⟨(by decide), (by decide), (by decide), ⟨(by decide), (by decide)⟩, ⟨(by decide), (by decide)⟩, ⟨(by decide), rfl⟩, ⟨(by
    decide), rfl⟩, ⟨rfl, rfl⟩⟩

theorem met_SuppliesAndAlerts_2 :
    (s_alertEnd.aon.gov.alerts = BitVec.ofNat 4 (2 ^ 2) ∧ s_alertEnd.aon.gov.critNow = 0) ∧
    ((sF [fl0]).Seen) ∧
    (1 ≠ 3) ∧
    (s_holdEnd.aon.gov.hold = Hold.hold 2 5 (some 100) ∧ 100 + 1250 ≤ BitVec.toNat s_holdEnd.aon.count) ∧
    (s_stepUp.aon.gov.hold = Hold.ramp 2 5 ∧ 5 + 1250 ≤ BitVec.toNat s_stepUp.aon.count ∧ s_stepUp.aon.gov.release =
      Hold.none ∧ s_stepUp.aon.gov.alerted = false ∧ 2 ∈ [1, 2, 3] ∧ s_stepUp.aon.gov.opOf 2 < goalOp s_stepUp.aon
      s_stepUp.blk 2 ∧ s_stepUp.aon.gov.opOf 2 < 7) ∧
    (s_opStep.aon.gov.opNext = some 4 ∧ BitVec.toNat s_opStep.aon.gov.opSince + 500 ≤ BitVec.toNat s_opStep.aon.count) ∧
    (s_opStepS.aon.gov.opNext = some 4 ∧ BitVec.toNat s_opStepS.aon.count < BitVec.toNat s_opStepS.aon.gov.opSince + 500 ∧
      s_opStepS.Seen) ∧
    (0 = 0) :=
  ⟨⟨rfl, rfl⟩, rfl, (by decide), ⟨rfl, (by decide +kernel)⟩, ⟨rfl, (by decide +kernel), rfl, rfl, (by decide),
    (by decide +kernel), (by decide +kernel)⟩, ⟨rfl, (by decide +kernel)⟩, ⟨rfl, (by decide +kernel), rfl⟩, rfl⟩

theorem met_SuppliesAndAlerts_3 :
    (3 = 3) ∧
    ((4 = 4 ∨ 4 = 5)) :=
  ⟨(by decide), (by decide)⟩

/-! ### Sleep, resets, bring-up -/

def sR3 : State := sGb (fun g => { g with sleep := .s3 }) id

def sStage_2 (n : Nat) : State := { sR with blk := { bR with start := { bR.start with stage := BitVec.ofNat 4 n } } }

def upAll (b : Blk) : Blk := ([8, 9, 10] : List (BitVec 4)).foldl (fun b i => b.modLink i fun l => { l with st := .up }) b

def s_s1 : State := sGb (fun g => { g with idle := 100000000 }) id

def s_s1w : State := sGb (fun g => { g with sleep := .s1, idle := 7, s1Event := some 17 }) id

def s_s1n : State := sGb (fun g => { g with sleep := .s1, idle := 7, s1Event := some 999999 }) id

def x_s2 : Word := wNew sR ri 0x604 (setFld (sR.aon.reg 0x604) 1 0 2)

def x_s3 : Word := wNew sR ri 0x604 (setFld (sR.aon.reg 0x604) 1 0 3)

def x_s3again : Word := wNew sR3 ri 0x604 (setFld (sR.aon.reg 0x604) 1 0 2)

def s_s2busy : State := { sR with blk := { bR with flights := [fl0] } }

def s_s0 : State := sGb (fun g => { g with sleep := .s2 }) id

def x_s0 : Word := wNew (sGb (fun g => { g with sleep := .s2 }) id) ri 0x604 (setFld (sR.aon.reg 0x604) 1 0 0)

def s_s03 : State := sGb (fun g => { g with sleep := .s3 }) id

def x_s03 : Word := wNew (sGb (fun g => { g with sleep := .s3 }) id) ri 0x604 (setFld (sR.aon.reg 0x604) 1 0 0)

def s_w2 : State := sGb (fun g => { g with sleep := .s2, wakeFrom := some 5 }) fun b => (b.modLink 8 fun l => { l with enable := true }).modLink 0 fun l => { l with enable := true }

def s_w3 : State := sGb (fun g => { g with sleep := .s3, wakeFrom := some 5 }) id

def s_w3h : State := sGb (fun g => { g with sleep := .s3, wakeFrom := some 5 }) fun b => { b with start := { b.start with accesses := [(.host, 0x104, some 3)] } }

def s_aon : State := { sR with blk := { b1 with flights := [fl0] } }

def s_rel : State := { sR with aon := { aI with held := true } }

def s_brel : State := { sStage_2 0 with aon := { aI with held := false } }

def s_rep : State := { sStage_2 3 with blk := { (sStage_2 3).blk with health := { (sStage_2 3).blk.health with bad := [⟨3, 4⟩, ⟨0, 1⟩, ⟨22, 1⟩] } } }

def s_repF : State := { sStage_2 3 with blk := { (sStage_2 3).blk with health := { (sStage_2 3).blk.health with bad := [⟨19, 0⟩, ⟨20, 0⟩] } } }

def s_trn : State := { sR with blk := upAll (sStage_2 5).blk }

theorem met_SleepAndWake_1 :
    (s1Ready s_s1.aon s_s1.blk = true ∧ fld (s_s1.aon.reg 1540) 15 8 * 64 ≤ s_s1.aon.gov.idle) ∧
    (s_s1w.aon.gov.sleep = Sleep.s1 ∧ s_s1w.aon.gov.s1Event = some 17 ∧ 17 + 40 ≤ BitVec.toNat s_s1w.blk.cycle) ∧
    (s_s1n.aon.gov.sleep = Sleep.s1 ∧ s_s1n.aon.gov.s1Event = some 0xF423F ∧ BitVec.toNat s_s1n.blk.cycle < 0xF423F + 40) ∧
    (sR.aon.roleOf ri ≠ Role.operator ∧ (2, Sleep.s2, Instr.requestS2 ri) ∈ [(2, Sleep.s2, Instr.requestS2 ri), (3,
      Sleep.s3, Instr.requestS3 ri)] ∧ sR.Writes ri 1540 (setFld (sR.aon.reg 1540) 1 0 (2, Sleep.s2, Instr.requestS2
      ri).1) (wRow sR ri 1540).1 (wRow sR ri 1540).2 x_s2 ∧ sR.aon.gov.sleep ≠ Sleep.s3 ∧ sR.blk.mayRest = true) ∧
    (sR.aon.roleOf ri ≠ Role.operator ∧ (3, Sleep.s3, Instr.requestS3 ri) ∈ [(2, Sleep.s2, Instr.requestS2 ri), (3,
      Sleep.s3, Instr.requestS3 ri)] ∧ sR.Writes ri 1540 (setFld (sR.aon.reg 1540) 1 0 (3, Sleep.s3, Instr.requestS3
      ri).1) (wRow sR ri 1540).1 (wRow sR ri 1540).2 x_s3 ∧ sR.aon.gov.sleep ≠ Sleep.s3 ∧ sR.blk.mayRest = true) ∧
    (sR3.aon.roleOf ri ≠ Role.operator ∧ (2, Sleep.s2, Instr.requestS2 ri) ∈ [(2, Sleep.s2, Instr.requestS2 ri), (3,
      Sleep.s3, Instr.requestS3 ri)] ∧ sR3.Writes ri 1540 (setFld (sR3.aon.reg 1540) 1 0 (2, Sleep.s2, Instr.requestS2
      ri).1) (wRow sR3 ri 1540).1 (wRow sR3 ri 1540).2 x_s3again ∧ sR3.aon.gov.sleep = Sleep.s3) ∧
    (s_s2busy.aon.roleOf ri ≠ Role.operator ∧ (2, Sleep.s2, Instr.requestS2 ri) ∈ [(2, Sleep.s2, Instr.requestS2 ri), (3,
      Sleep.s3, Instr.requestS3 ri)] ∧ s_s2busy.Writes ri 1540 (setFld (s_s2busy.aon.reg 1540) 1 0 (2, Sleep.s2,
      Instr.requestS2 ri).1) (wRow sR ri 1540).1 (wRow sR ri 1540).2 x_s2 ∧ s_s2busy.aon.gov.sleep ≠ Sleep.s3 ∧
      s_s2busy.blk.mayRest = false) ∧
    (s_s2busy.aon.roleOf ri ≠ Role.operator ∧ (3, Sleep.s3, Instr.requestS3 ri) ∈ [(2, Sleep.s2, Instr.requestS2 ri), (3,
      Sleep.s3, Instr.requestS3 ri)] ∧ s_s2busy.Writes ri 1540 (setFld (s_s2busy.aon.reg 1540) 1 0 (3, Sleep.s3,
      Instr.requestS3 ri).1) (wRow sR ri 1540).1 (wRow sR ri 1540).2 x_s3 ∧ s_s2busy.aon.gov.sleep ≠ Sleep.s3 ∧
      s_s2busy.blk.mayRest = false) :=
  ⟨⟨(by decide +kernel), (by decide +kernel)⟩, ⟨rfl, rfl, (by decide)⟩, ⟨rfl, rfl, (by decide)⟩, ⟨(by decide +kernel), (by
    simp), (writes_of_wOk _ _ _ _ (by decide +kernel)), (by decide +kernel), (by decide +kernel)⟩, ⟨(by decide +kernel),
    (by simp), (writes_of_wOk _ _ _ _ (by decide +kernel)), (by decide +kernel), (by decide +kernel)⟩,
    ⟨(by decide +kernel), (by simp), (writes_of_wOk _ _ _ _ (by decide +kernel)), (by decide +kernel)⟩,
    ⟨(by decide +kernel), (by simp), (writes_of_wOk _ _ _ _ (by decide +kernel)), (by decide +kernel),
    (by decide +kernel)⟩, ⟨(by decide +kernel), (by simp), (writes_of_wOk _ _ _ _ (by decide +kernel)),
    (by decide +kernel), (by decide +kernel)⟩⟩

theorem met_SleepAndWake_2 :
    (s_s0.aon.roleOf ri ≠ Role.operator ∧ s_s0.Writes ri 1540 (setFld (s_s0.aon.reg 1540) 1 0 0) (wRow sR ri 1540).1 (wRow
      sR ri 1540).2 x_s0 ∧ s_s0.aon.gov.wakeFrom = none ∧ (s_s0.aon.gov.sleep = Sleep.s2 ∨ s_s0.aon.gov.sleep = Sleep.s3)) ∧
    (s_s03.aon.roleOf ri ≠ Role.operator ∧ s_s03.Writes ri 1540 (setFld (s_s03.aon.reg 1540) 1 0 0) (wRow sR ri 1540).1
      (wRow sR ri 1540).2 x_s03 ∧ s_s03.aon.gov.wakeFrom = none ∧ (s_s03.aon.gov.sleep = Sleep.s2 ∨ s_s03.aon.gov.sleep =
      Sleep.s3)) ∧
    (s_w2.aon.gov.sleep = Sleep.s2 ∧ s_w2.aon.gov.wakeFrom = some 5 ∧ 5 + 300 ≤ BitVec.toNat s_w2.aon.count ∧
      s_w2.blk.start.accesses = []) ∧
    (s_w3.aon.gov.sleep = Sleep.s3 ∧ s_w3.aon.gov.wakeFrom = some 5 ∧ 5 + 50000 ≤ BitVec.toNat s_w3.aon.count ∧
      s_w3.aon.gov.orderHold = false) ∧
    (s_w3h.aon.gov.sleep = Sleep.s3 ∧ s_w3h.aon.gov.wakeFrom = some 5 ∧ 5 + 50000 ≤ BitVec.toNat s_w3h.aon.count ∧
      s_w3h.aon.gov.orderHold = false) :=
  ⟨⟨(by decide +kernel), (writes_of_wOk _ _ _ _ (by decide +kernel)), rfl, (Or.inl rfl)⟩, ⟨(by decide +kernel),
    (writes_of_wOk _ _ _ _ (by decide +kernel)), rfl, (Or.inr rfl)⟩, ⟨rfl, rfl, (by decide +kernel), rfl⟩, ⟨rfl, rfl,
    (by decide +kernel), rfl⟩, ⟨rfl, rfl, (by decide +kernel), rfl⟩⟩

theorem met_ResetsAndBringup_1 :
    (s_aon.Seen ∧ s_aon.blk.health.recordDue = []) ∧
    ((s_rel.aon.held = true ∨ s_rel.aon.vault.bootNonce = [])) ∧
    (sR.Writes ri 20 1 (wRow sR ri 20).1 (wRow sR ri 20).2 (wNew sR ri 20 1) ∧ bit (BitVec.toNat (wNew sR ri 20 1)) 0 =
      true) ∧
    (s_brel.blk.start.stage = 0 ∧ s_brel.aon.held = false ∧ s_brel.aon.gov.orderHold = false ∧ s_brel.aon.gov.sleep ≠
      Sleep.s3 ∧ BitVec.toNat s_brel.blk.start.heldSince + 64 ≤ BitVec.toNat s_brel.aon.count) ∧
    ((sStage_2 1).blk.start.stage = 1) ∧
    ((sStage_2 2).blk.start.stage = 2) ∧
    (s_rep.blk.start.stage = 3 ∧ s_rep.blk.start.accesses = []) ∧
    ((sStage_2 3).blk.start.stage = 3 ∧ (sStage_2 3).blk.start.accesses = []) :=
  ⟨⟨rfl, rfl⟩, (Or.inl rfl), ⟨(writes_of_wOk _ _ _ _ (by decide +kernel)), (by decide +kernel)⟩, ⟨rfl, rfl, rfl, (by
    decide), (by decide +kernel)⟩, rfl, rfl, ⟨rfl, rfl⟩, ⟨rfl, rfl⟩⟩

theorem met_ResetsAndBringup_2 :
    (s_repF.blk.start.stage = 3 ∧ s_repF.blk.start.accesses = []) ∧
    ((sStage_2 4).blk.start.stage = 4) ∧
    (s_trn.blk.start.stage = 5 ∧ s_trn.blk.start.accesses = [] ∧ s_trn.blk.health.chipFailed = false ∧ (∀ i ∈ [8, 9, 10],
      (s_trn.blk.link i).st = LinkSt.up)) ∧
    ((sStage_2 5).blk.start.stage = 5 ∧ (sStage_2 5).blk.start.accesses = [] ∧ (sStage_2 5).blk.health.chipFailed = false
      ∧ (∃ i ∈ [8, 9, 10], ((sStage_2 5).blk.link i).st ≠ LinkSt.up)) :=
  ⟨⟨rfl, rfl⟩, rfl, ⟨rfl, rfl, rfl, (by decide)⟩, ⟨rfl, rfl, rfl, (by decide)⟩⟩

/-! ### Firmware update -/

def sVa (f : Vault → Vault) : State := { sR with aon := { aI with vault := f aI.vault } }

def up0 : Update := { count := 2, passed := [1], current := none, size := 0, data := [], transferred := false, verified := false, firm := none, config := none, step := 1 }

def up2 : Update := { up0 with passed := [1, 2], step := 2 }

def up3 : Update := { up2 with current := some 1, size := 40, data := zeroBytes 32, step := 3 }

def up4 : Update := { up3 with data := zeroBytes 40, transferred := true, step := 4 }

def cf0 : Config' := { digest := [1, 2], seq := 5, pubs := [none, none, none, none], regulators := [] }

def cf1 : Config' := { cf0 with regulators := [0x0112] }

def sU (u : Update) : State := sVa fun v => { v with update := some u, config := some cf0 }

def sess (r : Role) : Secured := { finished := true, bothAuth := true, chain := [1], role := r, lastBeat := 2000000, keyNo := 0 }

def s_reqB : State := sVa fun v => { v with boot := .receive }

def s_pass3 : State := sU { up0 with passed := [] }

def x_pass3 : Update := { up0 with passed := [] }

def s_data0 : State := sU { up3 with data := [] }

def x_data0 : Update := { up3 with data := [] }

def s_tr : State := sU { up4 with step := 3, transferred := false }

def x_tr : Update := { up4 with step := 3, transferred := false }

def s_ver2 : State := sU { up4 with current := some 2 }

def x_ver2 : Update := { up4 with current := some 2 }

def s_app1 : State := sU { up4 with step := 5 }

def x_app1 : Update := { up4 with step := 5 }

def s_app2 : State := sU { up4 with step := 5, current := some 2 }

def x_app2 : Update := { up4 with step := 5, current := some 2 }

def s_act : State := sU { up2 with firm := some ⟨[9], 4⟩ }

def x_act : Activation := ⟨some 0, []⟩

def x_act3 : Update := { up2 with firm := some ⟨[9], 4⟩ }

def s_actC : State := sU { up2 with config := some cf1 }

def x_actC : Activation := ⟨some 0, [2]⟩

def x_actC3 : Update := { up2 with config := some cf1 }

def s_rest : State := sVa fun v => { v with boot := .restart, update := some { up2 with firm := some ⟨[9], 4⟩ } }

def x_rest : Firm := ⟨[9], 4⟩

def s_restC : State := sVa fun v => { v with boot := .restart, update := some { up2 with config := some cf0 } }

def x_restC : Firm := ⟨[7], 3⟩

theorem met_FirmwareUpdate_1 :
    (sR.serves ∧ sR.aon.mayUpdate (some 0) = true ∧ sR.aon.vault.update = none ∧ 2 ≠ 0) ∧
    (sR.serves ∧ sR.aon.mayUpdate none = false) ∧
    (s_reqB.serves ∧ s_reqB.aon.mayUpdate none = true ∧ s_reqB.aon.vault.update = none ∧ 2 ≠ 0) ∧
    ((sU up0).serves ∧ (sU up0).aon.vault.update = some up0 ∧ up0.step = 1) ∧
    (s_pass3.serves ∧ s_pass3.aon.vault.update = some x_pass3 ∧ x_pass3.step = 1) ∧
    ((sU up2).serves ∧ (sU up2).aon.vault.update = some up2 ∧ up2.step = 2 ∧ (1 = 1 ∨ 1 = 2) ∧ 1 ∈ up2.passed ∧ 40 ≠ 0 ∧
      (1 = 1 → 40 ≤ 2 ^ 20)) ∧
    ((sU up2).serves ∧ (sU up2).aon.vault.update = some up2 ∧ up2.step = 2 ∧ (2 = 1 ∨ 2 = 2) ∧ 2 ∈ up2.passed ∧ 0xFFFFFFFF
      ≠ 0 ∧ (2 = 1 → 0xFFFFFFFF ≤ 2 ^ 20)) ∧
    ((sU up2).serves ∧ (sU up2).aon.vault.update = some up2 ∧ up2.step = 2 ∧ (1 = 1 ∨ 1 = 2) ∧ 1 ∈ up2.passed ∧ 0x100000 ≠
      0 ∧ (1 = 1 → 0x100000 ≤ 2 ^ 20)) :=
  ⟨⟨⟨rfl, rfl⟩, (by decide +kernel), rfl, (by decide)⟩, ⟨⟨rfl, rfl⟩, (by decide +kernel)⟩, ⟨⟨rfl, rfl⟩,
    (by decide +kernel), rfl, (by decide)⟩, ⟨⟨rfl, rfl⟩, rfl, rfl⟩, ⟨⟨rfl, rfl⟩, rfl, rfl⟩, ⟨⟨rfl, rfl⟩, rfl, rfl, (by
    decide), (by decide), (by decide), (by decide)⟩, ⟨⟨rfl, rfl⟩, rfl, rfl, (by decide), (by decide), (by decide), (by
    decide)⟩, ⟨⟨rfl, rfl⟩, rfl, rfl, (by decide), (by decide), (by decide), (by decide)⟩⟩

theorem met_FirmwareUpdate_2 :
    ((sU up3).serves ∧ (sU up3).aon.vault.update = some up3 ∧ up3.step = 3 ∧ 32 = up3.data.length ∧ up3.data.length <
      up3.size ∧ (zeroBytes 8).length = Nat.min 32 (up3.size - up3.data.length)) ∧
    (s_data0.serves ∧ s_data0.aon.vault.update = some x_data0 ∧ x_data0.step = 3 ∧ 0 = x_data0.data.length ∧
      x_data0.data.length < x_data0.size ∧ (zeroBytes 32).length = Nat.min 32 (x_data0.size - x_data0.data.length)) ∧
    (s_tr.serves ∧ s_tr.aon.vault.update = some x_tr ∧ x_tr.step = 3 ∧ x_tr.data.length = x_tr.size) ∧
    ((sU up4).serves ∧ (sU up4).aon.vault.update = some up4 ∧ up4.step = 4 ∧ up4.current = some 1 ∧ (1 = 1 ∨ 1 = 2)) ∧
    (s_ver2.serves ∧ s_ver2.aon.vault.update = some x_ver2 ∧ x_ver2.step = 4 ∧ x_ver2.current = some 2 ∧ (2 = 1 ∨ 2 = 2)) ∧
    (s_app1.serves ∧ s_app1.aon.vault.update = some x_app1 ∧ x_app1.step = 5 ∧ x_app1.current = some 1) ∧
    (s_app2.serves ∧ s_app2.aon.vault.update = some x_app2 ∧ x_app2.step = 5 ∧ x_app2.current = some 2) ∧
    (s_act.serves ∧ s_act.aon.vault.update = some x_act3 ∧ x_act3.step = 2 ∧ s_act.aon.mayUpdate x_act.session = true ∧
      (x_act3.firm ≠ none ∨ x_act3.config ≠ none)) :=
  ⟨⟨⟨rfl, rfl⟩, rfl, rfl, (by decide), (by decide), (by decide)⟩, ⟨⟨rfl, rfl⟩, rfl, rfl, (by decide), (by decide), (by
    decide)⟩, ⟨⟨rfl, rfl⟩, rfl, rfl, (by decide)⟩, ⟨⟨rfl, rfl⟩, rfl, rfl, rfl, (by decide)⟩, ⟨⟨rfl, rfl⟩, rfl, rfl, rfl,
    (by decide)⟩, ⟨⟨rfl, rfl⟩, rfl, rfl, rfl⟩, ⟨⟨rfl, rfl⟩, rfl, rfl, rfl⟩, ⟨⟨rfl, rfl⟩, rfl, rfl, (by decide +kernel),
    (Or.inl (by decide))⟩⟩

theorem met_FirmwareUpdate_3 :
    (s_actC.serves ∧ s_actC.aon.vault.update = some x_actC3 ∧ x_actC3.step = 2 ∧ s_actC.aon.mayUpdate x_actC.session =
      true ∧ (x_actC3.firm ≠ none ∨ x_actC3.config ≠ none)) ∧
    (s_rest.serves ∧ s_rest.aon.vault.boot = Boot.restart ∧ (s_rest.aon.vault.update.bind fun x => x.firm).or
      s_rest.aon.vault.firm = some x_rest) ∧
    (s_restC.serves ∧ s_restC.aon.vault.boot = Boot.restart ∧ (s_restC.aon.vault.update.bind fun x => x.firm).or
      s_restC.aon.vault.firm = some x_restC) ∧
    ((sU up3).serves ∧ (sU up3).aon.vault.update = some up3) ∧
    ((sU up3).serves ∧ (sU up3).aon.vault.update = some up3 ∧ 3 ≤ up3.step.toNat) ∧
    ((sU up3).serves ∧ (sU up3).aon.vault.update = some up3 ∧ (sU up3).aon.vault.boot ≠ Boot.restart) ∧
    (sR.serves) ∧
    ((sU up3).serves ∧ (sU up3).aon.vault.firm = some x_restC ∧ (sU up3).aon.vault.config = some cf0) :=
  ⟨⟨⟨rfl, rfl⟩, rfl, rfl, (by decide +kernel), (Or.inr (by decide))⟩, ⟨⟨rfl, rfl⟩, rfl, rfl⟩, ⟨⟨rfl, rfl⟩, rfl, rfl⟩,
    ⟨⟨rfl, rfl⟩, rfl⟩, ⟨⟨rfl, rfl⟩, rfl, (by decide)⟩, ⟨⟨rfl, rfl⟩, rfl, (by decide)⟩, ⟨rfl, rfl⟩, ⟨⟨rfl, rfl⟩, rfl, rfl⟩⟩

/-! ### Keys, platform, SPDM -/

def own (r : Role) (l : Life') : State := sVa fun v => { v with fuses := { v.fuses with lifecycle := l, owners := [[5]] }, sessions := v.sessions.wr 0 (some (sess r)) }

def sMaker : State := { own .maker .owned with blk := (b1.setReg 0x204 1 0xA0000200) }

def sSp (neg : Bool) (x : Option Secured) : State := sVa fun v => { v with negotiated := neg, sessions := v.sessions.wr 0 x }

def sCert : State := sVa fun v => { v with negotiated := true, fuses := { v.fuses with certs := [1, 2, 3] } }

theorem chain0_long : BitVec.toNat (1 : BitVec 16) < sCert.aon.vault.chain0.length := by
  show 1 < ([1, 2, 3] ++ Config.aliasCert [7] []).length
  rw [List.length_append]; exact Nat.lt_of_lt_of_le (by decide) (Nat.le_add_right 3 _)

def open0 : Secured := { sess .operator with finished := false, chain := [] }

def x_svn : Firm := ⟨[7], 3⟩

def s_svn2 : State := sVa fun v => { v with fuses := { v.fuses with lifecycle := .owned, svn := 9 } }

def s_ppoll : State := sVa fun v => { v with events := [⟨0x8A, true, none, 0, 0, 0, 3, 4, 9⟩] }

def x_ppoll : Rec := ⟨0x8A, true, none, 0, 0, 0, 3, 4, 9⟩

def x_qmeas : List Byte := (measurement (sSp true none).aon (sSp true none).blk 4).getD []

def s_qkx1 : State := sSp true (some (sess .maker))

def s_qkx2 : State := sVa fun v => { v with negotiated := true, sessions := Bank.all 1 (some (sess .maker)) }

def s_qfinH : State := sSp true (some { open0 with chain := [1] })

def x_qfinH : Secured := { open0 with chain := [1] }

def s_qmiss : State := { (sSp true (some (sess .maker))) with aon := { (sSp true (some (sess .maker))).aon with count := 800000000 } }

theorem met_KeysAndAudit_1 :
    (sR.serves ∧ sR.aon.roleOf (Requester.mgmt (some 0)) = Role.installer ∧ sR.aon.vaultFail = false ∧ (zeroBytes
      32).length = 32 ∧ 5 < 6) ∧
    (sR.serves ∧ sR.aon.roleOf (Requester.mgmt (some 0)) = Role.installer ∧ sR.aon.vaultFail = false ∧ (zeroBytes
      32).length = 32) ∧
    (sR.serves ∧ sR.aon.roleOf (Requester.mgmt none) ≠ Role.installer ∧ (KeyKind.link 3, 0) ∈ [(KeyKind.link 3, 0),
      (KeyKind.fleet, 1)]) ∧
    (sR.serves ∧ sR.aon.roleOf (Requester.mgmt none) ≠ Role.installer ∧ (KeyKind.fleet, 1) ∈ [(KeyKind.link 3, 0),
      (KeyKind.fleet, 1)]) ∧
    ((own Role.maker Life'.provisioned).serves ∧ (own Role.maker Life'.provisioned).aon.vault.fuses.lifecycle =
      Life'.provisioned ∧ (own Role.maker Life'.provisioned).aon.vaultFail = false ∧ (own Role.maker
      Life'.provisioned).aon.session (some 0) = some (sess Role.maker)) ∧
    ((own Role.installer Life'.owned).serves ∧ (own Role.installer Life'.owned).aon.vault.fuses.lifecycle = Life'.owned ∧
      (own Role.installer Life'.owned).aon.vaultFail = false ∧ (own Role.installer Life'.owned).aon.roleOf (Requester.mgmt
      (some 0)) = Role.installer) ∧
    (sMaker.serves ∧ sMaker.aon.roleOf (Requester.mgmt (some 0)) = Role.maker ∧ sMaker.aon.vault.fuses.lifecycle =
      Life'.owned) ∧
    ((own Role.installer Life'.owned).serves ∧ (own Role.installer Life'.owned).aon.vault.firm = some x_svn ∧ BitVec.toNat
      x_svn.svn ≤ 64 ∧ (own Role.installer Life'.owned).aon.roleOf (Requester.mgmt (some 0)) = Role.installer) :=
  ⟨⟨⟨rfl, rfl⟩, (by decide +kernel), rfl, (by decide), (by decide)⟩, ⟨⟨rfl, rfl⟩, (by decide +kernel), rfl, (by decide)⟩,
    ⟨⟨rfl, rfl⟩, (by decide +kernel), (by simp)⟩, ⟨⟨rfl, rfl⟩, (by decide +kernel), (by simp)⟩, ⟨⟨rfl, rfl⟩, rfl, rfl,
    rfl⟩, ⟨⟨rfl, rfl⟩, rfl, rfl, (by decide +kernel)⟩, ⟨⟨rfl, rfl⟩, (by decide +kernel), rfl⟩, ⟨⟨rfl, rfl⟩, rfl, (by
    decide), (by decide +kernel)⟩⟩

theorem met_KeysAndAudit_2 :
    (s_svn2.serves ∧ s_svn2.aon.vault.firm = some x_svn ∧ BitVec.toNat x_svn.svn ≤ 64 ∧ s_svn2.aon.roleOf (Requester.mgmt
      (some 0)) = Role.installer) ∧
    (sR.serves) ∧
    (sR.serves ∧ (zeroBytes 32).length = 32 ∧ sR.aon.vault.firm ≠ none ∧ sR.aon.vault.fuses.lifecycle ≠ Life'.rma) :=
  ⟨⟨⟨rfl, rfl⟩, rfl, (by decide), (by decide +kernel)⟩, ⟨rfl, rfl⟩, ⟨⟨rfl, rfl⟩, (by decide), (by decide), (by decide)⟩⟩

theorem met_PlatformReplies_1 :
    (sR.serves) ∧
    (sR.serves ∧ Blk.sensor sR.aon sR.blk 7 = some (toLe 2 0)) ∧
    (sR.serves ∧ Blk.sensor sR.aon sR.blk 11 = some [0]) ∧
    (sR.serves ∧ 1 ≤ 1 ∧ 1 ≤ 16) ∧
    (sR.serves ∧ 1 ≤ 14 ∧ 14 ≤ 16) ∧
    (sR.serves ∧ 1 ≤ 15 ∧ 15 ≤ 16) ∧
    (sR.serves ∧ 1 ≤ 16 ∧ 16 ≤ 16) ∧
    (s_ppoll.serves ∧ s_ppoll.aon.vault.events = [x_ppoll]) :=
  ⟨⟨rfl, rfl⟩, ⟨⟨rfl, rfl⟩, rfl⟩, ⟨⟨rfl, rfl⟩, (by decide +kernel)⟩, ⟨⟨rfl, rfl⟩, (by decide), (by decide)⟩, ⟨⟨rfl, rfl⟩,
    (by decide), (by decide)⟩, ⟨⟨rfl, rfl⟩, (by decide), (by decide)⟩, ⟨⟨rfl, rfl⟩, (by decide), (by decide)⟩, ⟨⟨rfl,
    rfl⟩, rfl⟩⟩

theorem met_PlatformReplies_2 :
    (sR.serves ∧ 9 ≠ 0 ∧ 9 ≠ 255) ∧
    (sR.serves ∧ 2 ∈ [0, 2, 5, 63] ∧ (Instr.getPldmVersion 2, 4) ∈ [(Instr.getPldmVersion 2, 4), (Instr.getPldmCommands 2,
      32)]) ∧
    (sR.serves ∧ 63 ∈ [0, 2, 5, 63] ∧ (Instr.getPldmCommands 63, 32) ∈ [(Instr.getPldmVersion 63, 4),
      (Instr.getPldmCommands 63, 32)]) :=
  ⟨⟨⟨rfl, rfl⟩, (by decide), (by decide)⟩, ⟨⟨rfl, rfl⟩, (by decide), (by simp)⟩, ⟨⟨rfl, rfl⟩, (by decide), (by simp)⟩⟩

theorem met_SpdmSessions_1 :
    (sR.serves) ∧
    ((sSp true none).serves ∧ ((sSp true none).aon.vault.negotiated = true ∧ (sSp true none).aon.vault.fuses.lifecycle ≠
      Life'.rma)) ∧
    ((sSp true none).serves ∧ ((sSp true none).aon.vault.negotiated = true ∧ (sSp true none).aon.vault.fuses.lifecycle ≠
      Life'.rma) ∧ 1 ≠ 0) ∧
    (sCert.serves ∧ (sCert.aon.vault.negotiated = true ∧ sCert.aon.vault.fuses.lifecycle ≠ Life'.rma) ∧ 1 <
      sCert.aon.vault.chain0.length) ∧
    ((sSp true none).serves ∧ ((sSp true none).aon.vault.negotiated = true ∧ (sSp true none).aon.vault.fuses.lifecycle ≠
      Life'.rma) ∧ 4 ≠ 255 ∧ measurement (sSp true none).aon (sSp true none).blk 4 = some x_qmeas) ∧
    ((sSp true none).serves ∧ ((sSp true none).aon.vault.negotiated = true ∧ (sSp true none).aon.vault.fuses.lifecycle ≠
      Life'.rma) ∧ (sSp true none).aon.vault.sessions.rd 0 = none ∧ (0 = 0 ∨ (sSp true none).aon.vault.sessions.rd 0 ≠
      none)) ∧
    (s_qkx1.serves ∧ (s_qkx1.aon.vault.negotiated = true ∧ s_qkx1.aon.vault.fuses.lifecycle ≠ Life'.rma) ∧
      s_qkx1.aon.vault.sessions.rd 1 = none ∧ (1 = 0 ∨ s_qkx1.aon.vault.sessions.rd 0 ≠ none)) ∧
    (s_qkx2.serves ∧ (s_qkx2.aon.vault.negotiated = true ∧ s_qkx2.aon.vault.fuses.lifecycle ≠ Life'.rma) ∧
      s_qkx2.aon.vault.sessions.rd 0 ≠ none ∧ s_qkx2.aon.vault.sessions.rd 1 ≠ none) :=
  ⟨⟨rfl, rfl⟩, ⟨⟨rfl, rfl⟩, ⟨rfl, by decide⟩⟩, ⟨⟨rfl, rfl⟩, ⟨rfl, by decide⟩, (by decide)⟩, ⟨⟨rfl, rfl⟩, ⟨rfl, by decide⟩,
    chain0_long⟩, ⟨⟨rfl, rfl⟩, ⟨rfl, by decide⟩, (by decide), (by rfl)⟩, ⟨⟨rfl, rfl⟩, ⟨rfl, by decide⟩, rfl, (Or.inl
    rfl)⟩, ⟨⟨rfl, rfl⟩, ⟨rfl, by decide⟩, rfl, (Or.inr (by decide +kernel))⟩, ⟨⟨rfl, rfl⟩, ⟨rfl, by decide⟩,
    (by decide +kernel), (by decide +kernel)⟩⟩

theorem met_SpdmSessions_2 :
    ((sSp true (some open0)).serves ∧ (sSp true (some open0)).aon.vault.sessions.rd 0 = some open0 ∧ open0.finished =
      false ∧ open0.bothAuth = true) ∧
    ((sSp true (some open0)).serves ∧ (sSp true (some open0)).aon.vault.sessions.rd 0 = some open0 ∧ open0.finished =
      false) ∧
    (s_qfinH.serves ∧ s_qfinH.aon.vault.sessions.rd 0 = some x_qfinH ∧ x_qfinH.finished = false) ∧
    (s_qkx1.serves ∧ s_qkx1.aon.session (some 0) = some (sess Role.maker)) ∧
    (s_qkx1.serves ∧ s_qkx1.aon.session (some 0) = some (sess Role.maker) ∧ BitVec.toNat s_qkx1.aon.count < BitVec.toNat
      (sess Role.maker).lastBeat + 0x2CB41780) ∧
    (s_qmiss.serves ∧ s_qmiss.aon.session (some 0) = some (sess Role.maker) ∧ BitVec.toNat (sess Role.maker).lastBeat +
      0x2CB41780 ≤ BitVec.toNat s_qmiss.aon.count) :=
  ⟨⟨⟨rfl, rfl⟩, rfl, rfl, rfl⟩, ⟨⟨rfl, rfl⟩, rfl, rfl⟩, ⟨⟨rfl, rfl⟩, rfl, rfl⟩, ⟨⟨rfl, rfl⟩, rfl⟩, ⟨⟨rfl, rfl⟩, rfl,
    (by decide +kernel)⟩, ⟨⟨rfl, rfl⟩, rfl, (by decide +kernel)⟩⟩

/-! ### The whole machine -/

def tTid : State := { s0 with blk := s0.blk.reply [s0.aon.vault.tid] }

def sChain : State := { s0 with aon := { a0 with vault := (State.reset.aon.audit 1 0 0 false 0).vault } }

def cWait : Instr := .wait p0 { iz with imm := 2 }

theorem met_StepRunsFront :
    (s0.pending = []) :=
  rfl

theorem met_MemoryStaysCanonical :
    (st1.blk.mem.stack.wf = true ∧ st1.blk.mem.scratch.wf = true ∧ step st1 = Host.Outcome.next (tick st1)) :=
  ⟨(by decide +kernel), (by decide +kernel), rfl⟩

theorem met_AuditLogStaysChained :
    (sChain.aon.vault.Chained ∧ step sChain = Host.Outcome.next (tick sChain)) ∧
    (Instr.getTid ≠ Instr.aonRstN ∧ Instr.getTid ≠ Instr.aonResetRelease ∧ Instr.getTid ≠ Instr.railReset 0 ∧ exec
      Instr.getTid s0 = Host.Outcome.next tTid) :=
  ⟨⟨⟨by decide, ⟨rfl, rfl, trivial⟩, rfl⟩, rfl⟩, ⟨(by decide), (by decide), (by decide), rfl⟩⟩

theorem met_FusesOnlyBlow :
    (step s0 = Host.Outcome.next (tick s0)) :=
  rfl

theorem met_BrodipRoundTrip :
    (encodeBrodip cWait = some 0x1800000000000002 ∧ (∀ (p : Site) (x : Quad), cWait ≠ Instr.reservedOpcode p x)) :=
  ⟨rfl, (by intro p x; simp [cWait])⟩

/-! ### Statements over lists of forms -/

/-- The scalar instructions, on a queue whose registers all differ. -/
theorem met_ScalarResults_ops :
    s1.Seen ∧ (scalarOps.all fun e => s1.blk.quickGoes s1.aon p0 (scalar2Quick p0 e.2.1 r1 e.2.2)) = true :=
  ⟨rfl, by decide +kernel⟩

/-- Every starter of `CommandsStart` goes at some state: `tset`, the array, lane, function and sampling commands in `sD`,
the combines at a dispatch whose group has ended. -/
theorem met_CommandsStart : (startWits.all fun w => goesAt sD w.1 w.2) = true := by decide +kernel

theorem met_CommandsStart_tset : goesAt sD 0x11 rz = true := by decide +kernel

theorem met_CommandsStart_combine : (goesAt sReady 0x40 rz && goesAt sReady 0x41 rz && goesAt sReady 0x42 rz) = true := by
  decide +kernel

/-- Each of the register writers is carried out on some value. -/
theorem met_PlainWrites_each : ((List.range 13).all fun k =>
    ((writers ri (writeVals.getD k 0) 1 1 true false)[k]?).any fun x =>
      wOk sR ri x.2 (writeVals.getD k 0) && !ownEffect.contains (wRow sR ri x.2).1.off && !(wRow sR ri x.2).1.aon) = true := by
  decide +kernel

/-! ### Encodings of R327 and R330, written out bit by bit -/

/-- `epoch.bind e0, 12`: opcode 0x1A, format I. -/
theorem test_word_epochBind : decodeBrodip p0 0x1A0000000000000C 0 = .epochBind p0 { iz with imm := 12 } := by decide +kernel

/-- `score.ofp8 t0, e0, s2`: A = 16, B = 0, C = 2. -/
theorem test_word_score : decodeBrodip p0 0x2201000800000000 7 = .scoreOfp8 p0 { rz with a := 16, b := 0, c := 2 } 7 := by
  decide +kernel

/-- `select.k6` with FIRST and done predicate 1: A = 5, B = 1, C = 18, M = 1. -/
theorem test_word_select :
    decodeBrodip p0 0x280250C800000001 0 = .select p0 { rz with g := ⟨false, 0, 1⟩, a := 5, b := 1, c := 18, m := 1 } := by
  decide +kernel

/-- `wait p1`. -/
theorem test_word_wait : decodeBrodip p0 0x1800000000000002 0 = .wait p0 { iz with imm := 2 } := by decide +kernel

/-- Opcode 0x00 is reserved (R323). -/
theorem test_word_reserved : decodeBrodip p0 0 0 = .reservedOpcode p0 0 := by decide +kernel

/-! ### Worked values of the spec -/

/-- The check value of R168. -/
theorem test_crc32c : crc32c [0x31, 0x32, 0x33, 0x34, 0x35, 0x36, 0x37, 0x38, 0x39] = 0xE3069283 := by decide +kernel

/-- R431: the primitive polynomial x^10 + x^3 + 1. -/
theorem test_alpha10 : Sym.power 2 10 = 9 := by decide +kernel

/-- R431: a codeword, shortened, is decoded with one symbol in error. -/
theorem test_fec : fecDecode ((fecEncode [1, 2, 3]).set 1 7) = some (fecEncode [1, 2, 3], 1) := by decide +kernel

/-- R2, R548: the part number of an ND-832 stands in IDCODE bits [27:12], and bit 0 is 1. -/
theorem test_idcode : let f := { State.reset.aon.vault.fuses with variant := 0x02 }
    fld f.idcode 27 12 = 0x0832 ∧ fld f.idcode 0 0 = 1 := by decide +kernel

/-- The check value of R422. -/
theorem test_crc32 : crc32 [0x31, 0x32, 0x33, 0x34, 0x35, 0x36, 0x37, 0x38, 0x39] = 0xCBF43926 := by decide +kernel

/-- FIPS 180-4: the digest of "abc" begins CB00753F45A35E8B. -/
theorem test_sha384 : (sha384 [0x61, 0x62, 0x63]).take 8 = [0xCB, 0x00, 0x75, 0x3F, 0x45, 0xA3, 0x5E, 0x8B] := by decide +kernel

/-- R54, R55: one bit is corrected, two are not. -/
theorem test_ecc : (List.range 39).all (fun i => hurtRead (2 ^ i) == some 0) = true ∧ hurtRead 3 = none := by decide +kernel

/-- 02, "Per-half costs": the gate ledger of 4,096 OFP8 tokens against 640 experts at d = 5,120. -/
theorem test_gate_ledger :
    ScoreIn.ledger { layer := 0, hash := false, op := 2, t := 4096, tokens := { Desc.zero with n0 := 5120 }, idx := none, g0 := 0,
                     binding := ⟨0, 1, false, 1⟩, table := .error fBadShape, e := 640 } 6 = 409648 := by decide +kernel

/-- 02, "One Larkspan-A layer": C = 96 at T_d = 8,192, k = 6, 640 slots and capacity factor 80/64. -/
theorem test_capacity : capacity 8192 6 640 80 = 96 := by decide +kernel

/-- R287, R528: right after reset the block is in RESET and DIRECT, and R523's cause is the AON reset. -/
theorem test_reset : State.reset.blk.start.stage = 0 ∧ State.reset.blk.start.regime = false ∧ State.reset.aon.reg 0x010 = 1 := by
  decide +kernel

/-! ### WellFormed: a term for each check that it refuses -/

/-- A payload shorter than its header says. -/
def shortPkt : Packet := ⟨{ PktHdr.zero with bytes := 3 }, [1]⟩

theorem test_wf_packet :
    ([Instr.dealReceive, .fetchReceive, .returnReceive, .splitPartialReceive 0, .openReceive, .endReceive, .claimReceive,
      .grantReceive, .readyReceive, .bounceReceive, .abortReceive, .packetForward].all fun c => !(c shortPkt).wf) = true := by
  decide +kernel

theorem test_wf_fold : ([Instr.fdataReceive, .freadyReceive, .fnakReceive, .fexpReceive, .fabortReceive].all fun c =>
    !(c ⟨fh 1, [], 0, 0⟩).wf) = true := by decide +kernel

theorem test_wf_comet :
    ([Instr.cdataReceive, .cabortReceive, .cpaceReceive].all fun c => !(c { cm 1 with payload := [] }).wf) = true := by
  decide +kernel

theorem test_wf_flit : ([{ fli0 8 3 with payload := [] }, { fli0 8 3 with place := 10 }, { fli0 8 3 with fec := [[]] }, fli0 0 3].all
    fun k => !(Instr.flitReceive 8 k).wf) = true ∧ (Instr.flitReceive 11 (fli0 8 3)).wf = false := by decide +kernel

theorem test_wf_ctrl : ((Instr.ctrlFlitReceive 0 { fliC ct0 with payload := [] } ct0).wf || (Instr.ctrlFlitReceive 0 (fliC ct0) ct2).wf
    || (Instr.ctrlFlitReceive 11 (fliC ct0) (ctrlOfBytes (fliC ct0).payload)).wf) = false := by decide +kernel

theorem test_wf_port : ([Instr.nakRepeat, (.ctrlFlitInterval · false), (.laneLost · 0), (.weakLane · 0), (.spareLaneRetire · 0),
    (.mapGroupSwitch · false), .blockCounterWrap, .rekeyAt, (.detectLock · 0), (.trainDone · 0), (.mapDone · 0 0), .alignDone,
    .secureDone, .recoverDone, .linkStateTimeout, .signalLoss, .downRetry, (.portTrainDone · true)].all fun c => !(c 11).wf)
      = true := by decide +kernel

theorem test_wf_die : ([(Instr.computed · 0 ⟨0, 0, 0, 0⟩), (.discarded · 0 ⟨0, 0, 0, 0⟩), (.swapped · 0 0), (.written · 0 0 0 0),
    (.shadowPush · 0), .kDroop, (.gov · 0 0 0)].all fun c =>
    !(c 3).wf) = true := by decide +kernel

/-- The same messages with what they lack are well formed. -/
theorem test_wf_good : ((Instr.dealReceive ⟨{ PktHdr.zero with bytes := 3 }, [1, 2, 3]⟩).wf && (Instr.cdataReceive (cm 1)).wf
    && (Instr.flitReceive 8 (fli0 8 3)).wf
    && (Instr.ctrlFlitReceive 0 (fliC ct0) (ctrlOfBytes (fliC ct0).payload)).wf && (Instr.fdataReceive pkF).wf && (Instr.kDroop 2).wf) = true := by decide +kernel

end Sys2Proof.Tests
end

/-! PROOF. Select: what the `select` of a pair does when it issues (04 R87, R89, R98, R99). -/

namespace Sys2Proof.Machine

/-! ### Reference counts and reader marks -/

/-- Of a block, only its tables and its fold seats may differ: what counting a binding and marking a read touch. -/
def Blk.marksOnly (b c : Blk) : Prop := c = { b with refresh := c.refresh, folds := c.folds }

theorem Blk.marksOnly_trans {b c d : Blk} (h : b.marksOnly c) (h' : c.marksOnly d) : b.marksOnly d := by
  unfold Blk.marksOnly at *
  rw [h', h]

theorem Blk.marksOnly_foldl {α : Type} {f : Blk → α → Blk} (h : ∀ (b : Blk) (x : α), b.marksOnly (f b x)) (l : List α)
    (b : Blk) : b.marksOnly (l.foldl f b) := by
  induction l generalizing b with
  | nil => exact rfl
  | cons x l ih => exact Blk.marksOnly_trans (h b x) (ih _)

theorem Blk.takeRef_marksOnly (b : Blk) (x : Binding) : b.marksOnly (b.takeRef x) := by
  unfold Blk.takeRef
  split <;> rfl

theorem Blk.dropRef_marksOnly (b : Blk) (x : Binding) : b.marksOnly (b.dropRef x) := by
  unfold Blk.dropRef
  split <;> rfl

theorem Blk.marksOnly_ite {b c : Blk} {q : Bool} (h : b.marksOnly c) : b.marksOnly (if q then b else c) := by
  split
  · rfl
  · exact h

theorem Blk.markReads_marksOnly (b : Blk) (c : CtxId) (reads : List Range) : b.marksOnly (b.markReads c reads) :=
  Blk.marksOnly_foldl (fun b n => by dsimp only; exact Blk.marksOnly_ite (by rfl)) _ _

/-! ### A command that starts and draws a free value -/

section
variable {b : Blk} {p : Site} {w : Quad} {g : Guard} {k : Cls} {n : Plan} (hact : n.act = Blk.draw)
include hact

/-- A command starts: of its block, its tables and seats aside, only its charge, its queue, its done predicate, the
commands in flight and the count of free values change. -/
theorem Blk.start'_draw : ∃ r y, b.start' p w g k n =
    ({ (((b.charge p n.ledger).modQue p fun u => (u.runNext k n.ledger).goto (u.pc + 1)).modCtx p.ctx
        fun x => x.clearPred b.cycle.toNat g.dp) with
      refresh := r, folds := y, flights := b.flights ++ [n.flight b p (b.que p).pc w g.dp] } : Blk).draw := by
  have hbinds := Blk.marksOnly_foldl Blk.takeRef_marksOnly n.binds (b.charge p n.ledger)
  unfold Blk.start'
  rw [hact]
  dsimp only
  rw [Blk.markReads_marksOnly, hbinds]
  exact ⟨_, _, rfl⟩

theorem Blk.start'_flights :
    (b.start' p w g k n).flights = b.flights ++ [n.flight b p (b.que p).pc w g.dp] := by
  obtain ⟨r, y, h⟩ := Blk.start'_draw (b := b) (p := p) (w := w) (g := g) (k := k) hact
  rw [h]; rfl

theorem Blk.start'_disps : (b.start' p w g k n).disps = b.disps := by
  obtain ⟨r, y, h⟩ := Blk.start'_draw (b := b) (p := p) (w := w) (g := g) (k := k) hact
  rw [h]; rfl

theorem Blk.start'_ephs : (b.start' p w g k n).ephs = b.ephs := by
  obtain ⟨r, y, h⟩ := Blk.start'_draw (b := b) (p := p) (w := w) (g := g) (k := k) hact
  rw [h]; rfl

theorem Blk.start'_pc : ((b.start' p w g k n).que p).pc = (b.que p).pc + 1 := by
  obtain ⟨r, y, h⟩ := Blk.start'_draw (b := b) (p := p) (w := w) (g := g) (k := k) hact
  have hque : (b.start' p w g k n).que p = ((((b.charge p n.ledger).modQue p fun u =>
      (u.runNext k n.ledger).goto (u.pc + 1)).modCtx p.ctx fun x => x.clearPred b.cycle.toNat g.dp).que p) := by
    rw [h]; rfl
  rw [hque, Blk.modCtx_que _ _ _ (by rw [Ctx.clearPred_preds]), Blk.que_modQue_same, Blk.charge_que]
  rfl

end

/-! ### The open dispatch of a context and layer -/

/-- A search meets the same element after a sweep that keeps and leaves alone whatever the search looks for. -/
theorem find?_map_filter {α : Type} {P k : α → Bool} {g : α → α} (hk : ∀ x, P x = true → k x = true)
    (hg : ∀ x, P x = true → g x = x) (hP : ∀ x, P (g x) = P x) (l : List α) :
    ((l.filter k).map g).find? P = l.find? P := by
  have hcomp : P ∘ g = P := funext hP
  rw [List.find?_map, hcomp, List.find?_filter]
  have hand : (fun x => decide (k x = true ∧ P x = true)) = P := by
    funext x
    by_cases h : P x = true <;> simp [h, hk]
  rw [hand]
  cases h : l.find? P with
  | none => rfl
  | some x => rw [Option.map_some, hg x (List.find?_some h)]

/-- A search after its first match was replaced by a match meets the replacement. -/
theorem find?_modFirst {α : Type} {P : α → Bool} {v : α} (hv : P v = true) (l : List α) :
    (modFirst P (fun _ => v) l).find? P = (l.find? P).map fun _ => v := by
  induction l with
  | nil => rfl
  | cons x l ih => by_cases h : P x = true <;> simp [modFirst, h, hv, ih]

theorem Blk.openDisp_spec {b : Blk} {c : CtxId} {l : Layer} {d : Dispatch} (h : b.openDisp c l = some d) :
    d.ctx = c ∧ d.layer = l ∧ d.isOpen = true := by
  simpa [and_assoc] using List.find?_some h

theorem Blk.openDisp_of_disps {b c : Blk} (h : c.disps = b.disps) (x : CtxId) (l : Layer) :
    c.openDisp x l = b.openDisp x l := by
  rw [Blk.openDisp, Blk.openDisp, h]

theorem Blk.que_of_ctxs {b c : Blk} (h : c.ctxs = b.ctxs) (p : Site) : c.que p = b.que p := by
  rw [Blk.que, Blk.que, Blk.ctx, Blk.ctx, h]

theorem Blk.eph_of_ephs {b c : Blk} (h : c.ephs = b.ephs) (n : PartId) (l : Layer) : c.eph n l = b.eph n l := by
  rw [Blk.eph, Blk.eph, h]

theorem Blk.setEph_disps (b : Blk) (n : PartId) (l : Layer) (x : Eph) : (b.setEph n l x).disps = b.disps := rfl

theorem Blk.eph_setEph_same (b : Blk) (n : PartId) (l : Layer) (x : Eph) : (b.setEph n l x).eph n l = x :=
  Tab.get_put_same _ _ _ _

/-- Retiring dispatches changes dispatches and tables alone. -/
theorem Blk.retireDisps_frame (b : Blk) :
    b.retireDisps = { b with refresh := b.retireDisps.refresh, folds := b.retireDisps.folds,
                             disps := b.retireDisps.disps } := by
  unfold Blk.retireDisps
  dsimp only
  rw [Blk.marksOnly_foldl Blk.dropRef_marksOnly]

/-- Retiring takes closed dispatches only: the open one stays (R87, R115). -/
theorem Blk.openDisp_retireDisps (b : Blk) (x : CtxId) (l : Layer) : b.retireDisps.openDisp x l = b.openDisp x l := by
  unfold Blk.retireDisps Blk.openDisp
  dsimp only
  rw [Blk.marksOnly_foldl Blk.dropRef_marksOnly]
  refine find?_map_filter (fun d hd => ?kept) (fun d hd => ?alone) (fun d => ?sameMatch) _
  case kept => simp_all
  case alone => simp_all
  case sameMatch => split <;> rfl

/-! ### Opening a dispatch (R87, R89) -/

/-- The dispatch that a FIRST or ONLY `select` finds once it has opened it: no tokens yet, the ephemeris' next number and
the capacity of R89. -/
def Dispatch.opensAs (d : Dispatch) (b : Blk) (n : PartId) (l : Layer) (s : SelIn) : Prop :=
  d.tokens = 0 ∧ d.k = s.k ∧ d.td = s.td ∧ d.seq = (b.eph n l).seq
    ∧ d.cap = capacity s.td s.k (d.experts + d.moons.length) (polCf s.policy)

section
variable {a : Aon} {b : Blk} {c : CtxId} {l : Layer} {s : SelIn} {bs : List Byte}

/-- Opening a dispatch changes dispatches, ephemerides and tables alone. -/
theorem Blk.openDispatch_frame : ∃ r y e ds, b.openDispatch a c l s bs =
    { b with refresh := r, folds := y, ephs := e, disps := ds } := by
  unfold Blk.openDispatch
  dsimp only
  rw [Blk.retireDisps_frame, Blk.takeRef_marksOnly b]
  exact ⟨_, _, _, _, rfl⟩

theorem Blk.openDispatch_flights : (b.openDispatch a c l s bs).flights = b.flights := by
  obtain ⟨r, y, e, ds, h⟩ := Blk.openDispatch_frame (a := a) (b := b) (c := c) (l := l) (s := s) (bs := bs)
  rw [h]

theorem Blk.openDispatch_que (p : Site) : (b.openDispatch a c l s bs).que p = b.que p := by
  obtain ⟨r, y, e, ds, h⟩ := Blk.openDispatch_frame (a := a) (b := b) (c := c) (l := l) (s := s) (bs := bs)
  rw [h]
  rfl

/-- Opening a dispatch consumes the ephemeris' next sequence number (R87). -/
theorem Blk.openDispatch_seq :
    ((b.openDispatch a c l s bs).eph (b.ctx c).part l).seq = (b.eph (b.ctx c).part l).seq + 1 := by
  unfold Blk.openDispatch
  dsimp only
  rw [Blk.eph_of_ephs (congrArg Blk.ephs (Blk.retireDisps_frame _))]
  exact congrArg Eph.seq (Blk.eph_setEph_same _ _ _ _)

/-- The dispatch that was opened is the open one of its context and layer, where none was open before. -/
theorem Blk.openDispatch_openDisp (h : b.openDisp c l = none) :
    ∃ d, (b.openDispatch a c l s bs).openDisp c l = some d ∧ d.opensAs b (b.ctx c).part l s := by
  unfold Blk.openDispatch
  dsimp only
  rw [Blk.openDisp_retireDisps, Blk.takeRef_marksOnly b]
  unfold Blk.openDisp at *
  rw [Blk.setEph_disps, List.find?_append, h]
  simp only [Option.none_or, List.find?_cons, decide_true, Bool.and_self]
  exact ⟨_, rfl, rfl, rfl, rfl, rfl, rfl⟩

end

/-! ### Serving tokens (R103) -/

/-- A dispatch took tokens: only what serving them changes differs. -/
def Dispatch.took (d d' : Dispatch) (n : Nat) : Prop :=
  d' = { d with counts := d'.counts, demand := d'.demand, tokens := d.tokens + n, lastGidx := d'.lastGidx,
                queued := d'.queued, served := d'.served, selectsLeft := d'.selectsLeft }

/-- Serving tokens changes a dispatch's counters and demand alone. -/
theorem Dispatch.serveAll_frame (d : Dispatch) (ts : List Token) :
    ∃ c m, (d.serveAll ts).1 = { d with counts := c, demand := m } := by
  have key : ∀ st : Dispatch × List Served, ∃ c m,
      (ts.foldl (fun st t => ((st.1.serve t).1, st.2 ++ [(st.1.serve t).2])) st).1 = { st.1 with counts := c, demand := m } := by
    induction ts with
    | nil => exact fun st => ⟨st.1.counts, st.1.demand, rfl⟩
    | cons t ts ih => exact fun st => ih _
  exact key (d, [])

theorem Dispatch.took_serveAll (d : Dispatch) (ts : List Token) {m n : Nat} (hm : m = d.tokens + n)
    (g : Option Word) (q : List Token) (r : List Served) (k : Nat) :
    d.took { (d.serveAll ts).1 with tokens := m, lastGidx := g, queued := q, served := r, selectsLeft := k } n := by
  obtain ⟨c, y, h⟩ := d.serveAll_frame ts
  rw [h, hm]
  rfl

/-! ### The `select` of a pair -/

/-- The block in which a `select` takes its tokens: a FIRST or ONLY has opened its dispatch there (R87). -/
def Blk.selOpens (a : Aon) (b : Blk) (c : CtxId) (l : Layer) (s : SelIn) (b' : Blk) : Prop :=
  if s.first then ∃ bs, b' = b.openDispatch a c l s bs else b' = b

/-- No fault at issue: a FIRST or ONLY has its SLOT image and meets no open dispatch, and another phase meets one
(R87, R91). -/
theorem Blk.selFaults_nil {b : Blk} {x : Ctx} {s : SelIn} {l : Layer} {t e : Nat} (h : b.selFaults x s l t e = []) :
    s.first = s.disp.isNone ∧ (s.first = true → ∃ bs, b.bound (b.bindNow l 1) = .ok bs) := by
  simp only [Blk.selFaults, List.append_eq_nil_iff] at h
  obtain ⟨⟨-, hdisp⟩, hslot⟩ := h
  refine ⟨?_, fun hfirst => ?_⟩
  · cases hf : s.first <;> cases hd : s.disp <;> simp_all
  · simp only [Blk.selSlot, hfirst, if_true] at hslot
    cases hb : b.bound (b.bindNow l 1) with
    | ok bs => exact ⟨bs, rfl⟩
    | error e =>
      simp only [hb] at hslot
      by_cases he : (b.bindNow l 1).epoch = 0 <;> simp only [he, if_true, if_false] at hslot <;>
        exact absurd hslot (List.cons_ne_nil _ _)

/-- The block with another record for the open dispatch of a context and layer. -/
def Blk.putOpen (b : Blk) (c : CtxId) (l : Layer) (d : Dispatch) : Blk :=
  { b with disps := modFirst (fun x => x.ctx = c && x.layer = l && x.isOpen) (fun _ => d) b.disps }

/-- The dispatch that has taken tokens is the open one. -/
theorem Blk.openDisp_putOpen {b : Blk} {c : CtxId} {l : Layer} {d d' : Dispatch} {n : Nat}
    (hd : b.openDisp c l = some d) (ht : d.took d' n) : (b.putOpen c l d').openDisp c l = some d' := by
  obtain ⟨hctx, hlayer, hopen⟩ := Blk.openDisp_spec hd
  unfold Blk.putOpen Blk.openDisp at *
  rw [find?_modFirst (by rw [ht]; simp [hctx, hlayer, hopen]), hd]
  rfl

/-- A `select` that neither waits nor faults starts its command from the block in which its dispatch has taken the
pair's tokens, in the cycle of its pair, and closes the pair (R98, R99). -/
theorem Blk.issueSelect_goes {a : Aon} {b : Blk} {p : Site} {f : RFields} {sc : Scoring} {at' : Nat}
    (hw : b.selWaits (b.ctx p.ctx) (b.selIn (b.ctx p.ctx) p sc.layer f) sc.layer = false)
    (hf : b.selFaults (b.ctx p.ctx) (b.selIn (b.ctx p.ctx) p sc.layer f) sc.layer sc.tokens.length sc.e = []) :
    ∃ c, b.selOpens a p.ctx sc.layer (b.selIn (b.ctx p.ctx) p sc.layer f) c ∧
      ∀ d, c.openDisp p.ctx sc.layer = some d → ∃ d' n, d.took d' sc.tokens.length
        ∧ n.ledger = (b.selIn (b.ctx p.ctx) p sc.layer f).ledger sc.hash sc.e ∧ n.at' = some at' ∧ n.act = Blk.draw
        ∧ b.issueSelect a p f sc at' =
            ((c.putOpen p.ctx sc.layer d').start' p (encR 0x28 f) f.g .other n).modQue p fun v => { v with pairOpen := false } := by
  obtain ⟨-, hslot⟩ := Blk.selFaults_nil hf
  unfold Blk.issueSelect Blk.selOpens
  dsimp only
  generalize b.selIn (b.ctx p.ctx) p sc.layer f = s at *
  simp only [hw, hf, lowest_nil, Bool.false_eq_true, if_false]
  cases hfirst : s.first with
  | true =>
    obtain ⟨bs, hbs⟩ := hslot hfirst
    simp only [hbs, if_true]
    refine ⟨_, ⟨bs, rfl⟩, fun d hd => ?_⟩
    simp only [hd]
    exact ⟨_, _, d.took_serveAll _ (by simp) _ _ _ _, rfl, rfl, rfl, rfl⟩
  | false =>
    simp only [Bool.false_eq_true, if_false]
    refine ⟨_, rfl, fun d hd => ?_⟩
    simp only [hd]
    exact ⟨_, _, d.took_serveAll _ (by simp) _ _ _ _, rfl, rfl, rfl, rfl⟩

/-- What stands open for a `select` that neither waits nor faults: the dispatch it has opened, or the one that was open
(R87). -/
theorem Blk.selOpens_spec {a : Aon} {b c : Blk} {p : Site} {l : Layer} {s : SelIn}
    (h : b.selOpens a p.ctx l s c) (hdisp : s.disp = b.openDisp p.ctx l) (hnone : s.first = s.disp.isNone) :
    c.flights = b.flights ∧ c.que p = b.que p ∧ ∃ d, c.openDisp p.ctx l = some d
      ∧ (s.first = true → d.opensAs b (b.ctx p.ctx).part l s
          ∧ (c.eph (b.ctx p.ctx).part l).seq = (b.eph (b.ctx p.ctx).part l).seq + 1)
      ∧ (s.first = false → s.disp = some d) := by
  unfold Blk.selOpens at h
  cases hfirst : s.first with
  | true =>
    obtain ⟨bs, rfl⟩ : ∃ bs, c = b.openDispatch a p.ctx l s bs := by simpa [hfirst] using h
    have hclosed : b.openDisp p.ctx l = none := by simpa [hfirst, hdisp] using hnone
    obtain ⟨d, hd, hopens⟩ := Blk.openDispatch_openDisp (a := a) (s := s) (bs := bs) hclosed
    exact ⟨Blk.openDispatch_flights, Blk.openDispatch_que p, d, hd, fun _ => ⟨hopens, Blk.openDispatch_seq⟩, nofun⟩
  | false =>
    obtain rfl : c = b := by simpa [hfirst] using h
    obtain ⟨d, hd⟩ : ∃ d, s.disp = some d := Option.isSome_iff_exists.1 (by simpa [hfirst] using hnone)
    exact ⟨rfl, rfl, d, hdisp ▸ hd, nofun, fun _ => hd⟩

/-- The tokens and the policy of a FIRST or ONLY `select` are its operand and ND_HAND_CFG (R87, R94). -/
theorem Blk.selIn_first {b : Blk} {x : Ctx} {p : Site} {l : Layer} {f : RFields} (h : (b.selIn x p l f).first = true) :
    (b.selIn x p l f).td = (x.s p.queue f.b).toNat ∧ (b.selIn x p l f).policy = b.handCfg x.part l := by
  have hphase : f.m.toNat % 4 ≤ 1 := of_decide_eq_true h
  simp [Blk.selIn, hphase]

/-- A `select` behind its pair takes that pair's tokens, in the cycle of the pair; what the management plane then sees of
it leaves contexts, commands in flight, dispatches and ephemerides alone. -/
theorem execSelect_pair {s : State} {p : Site} {f : RFields} {fl : Flight} {sc : Scoring}
    (hopen : s.blk.open s.aon p = true) (hpair : (s.blk.que p).pairOpen = true) (hmate : s.blk.pairMate p = some fl)
    (hjob : fl.job = .score sc) :
    ∃ t, exec (.select p f) s = .next t ∧ t.blk.ctxs = (s.blk.issueSelect s.aon p f sc fl.issued).ctxs
      ∧ t.blk.flights = (s.blk.issueSelect s.aon p f sc fl.issued).flights
      ∧ t.blk.disps = (s.blk.issueSelect s.aon p f sc fl.issued).disps
      ∧ t.blk.ephs = (s.blk.issueSelect s.aon p f sc fl.issued).ephs := by
  obtain ⟨o, ho⟩ := seePosted_blk (s.aon, s.blk.issueSelect s.aon p f sc fl.issued)
  refine ⟨{ s with aon := (seePosted (s.aon, s.blk.issueSelect s.aon p f sc fl.issued)).1,
                   blk := (seePosted (s.aon, s.blk.issueSelect s.aon p f sc fl.issued)).2 }, ?_, ?_⟩
  · show execSelect p f s = _
    simp only [execSelect, State.block, hopen, hpair, hmate, hjob, Bool.not_true, Bool.false_eq_true, if_false]
  · dsimp only
    rw [ho]
    exact ⟨rfl, rfl, rfl, rfl⟩

/-- Settles O11: from the block in which the dispatch is open, the pair's tokens are taken and the command starts. -/
theorem selectStarts : Obligations.SelectStarts := by
  unfold Obligations.SelectStarts
  intro s p f fl sc hopen hpair hmate hjob
  dsimp only
  intro hw hf
  obtain ⟨hnone, -⟩ := Blk.selFaults_nil hf
  obtain ⟨c, hc, hgoes⟩ := Blk.issueSelect_goes (a := s.aon) (at' := fl.issued) hw hf
  obtain ⟨hflights, hque, d, hd, hfirst, hlater⟩ := Blk.selOpens_spec hc rfl hnone
  obtain ⟨d', n, htook, hledger, hat, hact, hsel⟩ := hgoes d hd
  obtain ⟨t, hexec, htc, htf, htd, hte⟩ := execSelect_pair (f := f) hopen hpair hmate hjob
  rw [hsel] at htc htf htd hte
  replace htf := htf.trans (Blk.start'_flights hact)
  replace htd := htd.trans (Blk.start'_disps hact)
  replace hte : t.blk.ephs = c.ephs := hte.trans (Blk.start'_ephs hact)
  have htq := (Blk.que_of_ctxs htc p).trans (Blk.que_modQue_same _ p _)
  refine ⟨t, hexec, ⟨_, hflights ▸ htf, rfl, rfl, congrArg Queue.pc hque, rfl, rfl, ?_, hledger⟩, ?_, ?_, d', ?_, ?_,
    fun hf1 => ?_⟩
  · simp [Plan.flight, hat]
  · rw [htq, ← hque]
    exact Blk.start'_pc hact
  · rw [htq]
  · rw [Blk.openDisp_of_disps htd, Blk.openDisp_putOpen hd htook]
  · rw [htook]
    cases hf1 : (s.blk.selIn (s.blk.ctx p.ctx) p sc.layer f).first with
    | true => simp [(hfirst hf1).1.1]
    | false => simp [hlater hf1]
  · obtain ⟨⟨-, hk, hdtd, hseq, hcap⟩, hnext⟩ := hfirst hf1
    obtain ⟨htd', hpol⟩ := Blk.selIn_first hf1
    rw [htook]
    refine ⟨hk, hdtd.trans htd', hseq, ?_, ?_⟩
    · rw [Blk.eph_of_ephs hte, hnext]
    · rw [← hpol]
      dsimp only
      rw [hdtd, hk]
      exact hcap

end Sys2Proof.Machine

/-! PROOF. Scalar: what the scalar and predicate instructions do when they go (13 R331, R332; 12 R304, R316). -/

namespace Sys2Proof.Machine

/-! ### An instruction that completes as it issues -/

/-- What `quickGoes` says of the instruction itself: the queue stands clear, nothing waits, no field breaks its rule and
nothing faults. -/
theorem Blk.quickGoes_spec {a : Aon} {b : Blk} {p : Site} {q : Quick} (h : b.quickGoes a p q = true) :
    q.bad = false ∧ (q.now b (b.ctx p.ctx) (b.que p)).faults = [] := by
  simp only [Blk.quickGoes, Bool.and_eq_true, Bool.not_eq_true', List.isEmpty_iff] at h
  obtain ⟨⟨⟨⟨-, -⟩, hbad⟩, hfaults⟩, -⟩ := h
  exact ⟨hbad, hfaults⟩

/-- An instruction that goes and posts nothing runs: what holds of its effect on the charged block holds after it. -/
theorem Runs.of_quick {c : Instr} {s : State} {p : Site} {q : Quick} {n : Now} {Q : State → Prop}
    (hc : exec c s = s.block fun a b => b.issueQuick a p q) (hgo : s.blk.quickGoes s.aon p q = true)
    (hn : q.now s.blk (s.blk.ctx p.ctx) (s.blk.que p) = n)
    (hposted : (n.act (s.blk.passNow p q.g q.k n.ledger)).posted = [])
    (hQ : Q { s with blk := n.act (s.blk.passNow p q.g q.k n.ledger) }) : Runs c s Q := by
  subst hn
  exact Runs.of_block _ hc (Blk.issueQuick_goes hgo) hposted hQ

/-- A state reached by changing the context of an instruction that issued, within its queue, predicates and what was
written in this cycle, differs in nothing else. -/
theorem State.onlyQueue_modCtx (s : State) (p : Site) (g : Guard) (k : Cls) (n : Nat) (f : Ctx → Ctx)
    (hf : ((s.blk.passNow p g k n).ctx p.ctx).sameBut (f ((s.blk.passNow p g k n).ctx p.ctx)) p.queue) :
    s.onlyQueue { s with blk := (s.blk.passNow p g k n).modCtx p.ctx f } p := by
  obtain ⟨hother, hown⟩ := Blk.oneCtx_trans (Blk.passNow_oneCtx s.blk p g k n) (Blk.modCtx_oneCtx _ p f hf)
  exact ⟨rfl, rfl, Blk.sameBut_trans (Blk.passNow_sameBut _ _ _ _ _) (Blk.modCtx_sameBut _ _ _), hother, hown⟩

/-- An instruction that issued leaves its scalars alone. -/
theorem Blk.passNow_s (b : Blk) (p : Site) (g : Guard) (k : Cls) (n : Nat) (r : BitVec 5) :
    ((b.passNow p g k n).ctx p.ctx).s p.queue r = (b.ctx p.ctx).s p.queue r := by
  obtain ⟨-, hsregs, -⟩ := Blk.passNow_que b p g k n
  exact congrArg (Bank.rd · r) hsregs

/-- An instruction without a done predicate leaves its predicates alone as it issues. -/
theorem Blk.passNow_preds_noDone (b : Blk) (p : Site) {g : Guard} (k : Cls) (n : Nat) (hdp : g.dp = 0) :
    ((b.passNow p g k n).ctx p.ctx).preds = (b.ctx p.ctx).preds := by
  rw [Blk.passNow_preds, if_pos hdp]

theorem Blk.passNow_pred (b : Blk) (p : Site) {g : Guard} (k : Cls) (n : Nat) (hdp : g.dp = 0) (m : BitVec 3) :
    ((b.passNow p g k n).ctx p.ctx).pred m = (b.ctx p.ctx).pred m := by
  rw [Ctx.pred, Ctx.pred, Blk.passNow_preds_noDone b p k n hdp]

theorem Blk.passNow_cycle (b : Blk) (p : Site) (g : Guard) (k : Cls) (n : Nat) : (b.passNow p g k n).cycle = b.cycle :=
  Blk.sameBut_cycle (Blk.passNow_sameBut b p g k n)

/-- What commands and instructions wrote in this cycle stands as it did (R304). -/
def Ctx.marksKept (x y : Ctx) : Prop :=
  y.doneAt = x.doneAt ∧ y.doneSet = x.doneSet ∧ y.wroteAt = x.wroteAt ∧ y.wrote = x.wrote

theorem Ctx.marksKept_trans {x y z : Ctx} (h : x.marksKept y) (h' : y.marksKept z) : x.marksKept z := by
  obtain ⟨h1, h2, h3, h4⟩ := h
  obtain ⟨k1, k2, k3, k4⟩ := h'
  exact ⟨k1.trans h1, k2.trans h2, k3.trans h3, k4.trans h4⟩

theorem Ctx.marksKept_overruled {x y : Ctx} (h : x.marksKept y) (now q r : Nat) :
    y.overruled now q r = x.overruled now q r := by
  obtain ⟨h1, h2, h3, h4⟩ := h
  simp only [Ctx.overruled, h1, h2, h3, h4]

theorem Blk.modCtx_marksKept (b : Blk) (c : CtxId) (f : Ctx → Ctx) (h : (b.ctx c).marksKept (f (b.ctx c))) :
    (b.ctx c).marksKept ((b.modCtx c f).ctx c) := by
  rwa [Blk.ctx_modCtx_same]

theorem Blk.modQue_marksKept (b : Blk) (p : Site) (f : Queue → Queue) :
    (b.ctx p.ctx).marksKept ((b.modQue p f).ctx p.ctx) :=
  Blk.modCtx_marksKept b p.ctx _ ⟨rfl, rfl, rfl, rfl⟩

theorem Blk.passNow_marksKept (b : Blk) (p : Site) (g : Guard) (k : Cls) (n : Nat) :
    (b.ctx p.ctx).marksKept ((b.passNow p g k n).ctx p.ctx) := by
  have hslot : ∀ c : Blk, (c.ctx p.ctx).marksKept ((if n = 0 then c else c.takeSlot p 1).ctx p.ctx) := fun c => by
    split
    · exact ⟨rfl, rfl, rfl, rfl⟩
    · exact Blk.modQue_marksKept c p fun u => { u with nextAt := c.cycle.toNat + 1 }
  have hgone := Ctx.marksKept_trans (Ctx.marksKept_trans (Blk.passTime_ctx b p n).2 (hslot (b.passTime p n)))
    (Blk.modQue_marksKept _ p fun u => (u.runNext k n).goto (u.pc + 1))
  unfold Blk.passNow
  dsimp only
  split
  · exact hgone
  · refine Ctx.marksKept_trans hgone (Blk.modCtx_marksKept _ p.ctx _ ?_)
    rw [Ctx.clearPred_preds]
    exact ⟨rfl, rfl, rfl, rfl⟩

/-- What R304 puts above an instruction's result is as it was when the instruction has issued. -/
theorem Blk.passNow_overruled (b : Blk) (p : Site) (g : Guard) (k : Cls) (n now q r : Nat) :
    ((b.passNow p g k n).ctx p.ctx).overruled now q r = (b.ctx p.ctx).overruled now q r :=
  Ctx.marksKept_overruled (Blk.passNow_marksKept b p g k n) now q r

/-! ### Scalars -/

theorem Ctx.que_setS (x : Ctx) (q : BitVec 2) (r : BitVec 5) (v : Word) :
    (x.setS q r v).que q = { x.que q with sregs := (x.que q).sregs.wr r v } := Ctx.que_setQue_same _ _ _

theorem Ctx.s_setS_same (x : Ctx) (q : BitVec 2) (r : BitVec 5) (v : Word) : (x.setS q r v).s q r = v := by
  rw [Ctx.s, Ctx.que_setS]
  exact Bank.rd_wr_same _ _ _

theorem Ctx.s_setS_other (x : Ctx) (q : BitVec 2) {r r' : BitVec 5} (v : Word) (h : r' ≠ r) :
    (x.setS q r v).s q r' = x.s q r' := by
  rw [Ctx.s, Ctx.que_setS]
  exact Bank.rd_wr_other _ _ h

theorem Ctx.setS_sameBut (x : Ctx) (q : BitVec 2) (r : BitVec 5) (v : Word) : x.sameBut (x.setS q r v) q :=
  ⟨rfl, fun _ hr => Ctx.que_setQue_other _ _ hr⟩

/-- A scalar took a value: its queue went on by one entry at one ledger cycle, and nothing else changed (R316, R331). -/
def State.tookScalar (s t : State) (p : Site) (r : BitVec 5) (v : Word) : Prop :=
  (t.blk.ctx p.ctx).s p.queue r = v ∧ (∀ r', r' ≠ r → (t.blk.ctx p.ctx).s p.queue r' = (s.blk.ctx p.ctx).s p.queue r')
    ∧ (t.blk.que p).pc = (s.blk.que p).pc + 1
    ∧ (t.blk.ctx p.ctx).counters.get Cnt.ledger 0 = (s.blk.ctx p.ctx).counters.get Cnt.ledger 0 + 1
    ∧ (t.blk.ctx p.ctx).preds = (s.blk.ctx p.ctx).preds ∧ s.onlyQueue t p

/-- An instruction without a done predicate whose effect is to set a scalar sets it and does nothing else. -/
theorem Runs.of_setS {c : Instr} {s : State} {p : Site} {q : Quick} {r : BitVec 5} {v : Ctx → Word}
    (hc : exec c s = s.block fun a b => b.issueQuick a p q) (hseen : s.Seen) (hgo : s.blk.quickGoes s.aon p q = true)
    (hdp : q.bad = false → q.g.dp = 0)
    (hn : q.now s.blk (s.blk.ctx p.ctx) (s.blk.que p) = { act := fun b => b.modCtx p.ctx fun x => x.setS p.queue r (v x) })
    (hv : ∀ x, (∀ r', x.s p.queue r' = (s.blk.ctx p.ctx).s p.queue r') → v x = v (s.blk.ctx p.ctx)) :
    Runs c s fun t => s.tookScalar t p r (v (s.blk.ctx p.ctx)) := by
  refine Runs.of_quick hc hgo hn ((Blk.passNow_posted _ _ _ _ _).trans hseen) ?_
  dsimp only
  have hs := Blk.passNow_s s.blk p q.g q.k 1
  have hv := hv _ hs
  obtain ⟨hpc, -⟩ := Blk.passNow_que s.blk p q.g q.k 1
  refine ⟨?_, fun r' hr' => ?_, ?_, ?_, ?_, State.onlyQueue_modCtx s p q.g q.k 1 _ (Ctx.setS_sameBut _ _ _ _)⟩
  · rw [Blk.ctx_modCtx_same, Ctx.s_setS_same, hv]
  · rw [Blk.ctx_modCtx_same, Ctx.s_setS_other _ _ _ hr', hs]
  · rw [Blk.que, Blk.ctx_modCtx_same, Ctx.que_setS]
    exact hpc
  · rw [Blk.ctx_modCtx_same]
    exact Blk.passNow_ledger s.blk p q.g q.k 1
  · rw [Blk.ctx_modCtx_same]
    exact Blk.passNow_preds_noDone s.blk p q.k 1 (hdp (Blk.quickGoes_spec hgo).1)

/-- The instruction of each row of `scalarOps` issues with the function of that row: the operators of R331 are the sums,
differences, products and shifts of the values. -/
theorem exec_scalarOps {e : (Site → RFields → Instr) × Nat × (Word → Word → Word)} (he : e ∈ scalarOps) (s : State)
    (p : Site) (f : RFields) : exec (e.1 p f) s = s.block fun a b => b.issueQuick a p (scalar2Quick p e.2.1 f e.2.2) := by
  have hadd : (fun x y : Word => BitVec.ofNat 32 (x.toNat + y.toNat)) = (· + ·) := by
    funext x y; exact BitVec.eq_of_toNat_eq (by simp)
  have hsub : (fun x y : Word => BitVec.ofInt 32 ((x.toNat : Int) - y.toNat)) = (· - ·) := by
    funext x y
    have hx : x.toNat < 2 ^ 32 := x.isLt
    have hy : y.toNat < 2 ^ 32 := y.isLt
    refine BitVec.eq_of_toNat_eq ?_
    simp only [BitVec.toNat_ofInt, BitVec.toNat_sub]
    omega
  have hmul : (fun x y : Word => BitVec.ofNat 32 (x.toNat * y.toNat)) = (· * ·) := by
    funext x y; exact BitVec.eq_of_toNat_eq (by simp)
  have hshl : (fun x y : Word => BitVec.ofNat 32 (x.toNat * 2 ^ (y.toNat % 32))) = shlW := by
    funext x y; exact BitVec.eq_of_toNat_eq (by simp [shlW, Nat.shiftLeft_eq])
  have hshr : (fun x y : Word => BitVec.ofNat 32 (x.toNat / 2 ^ (y.toNat % 32))) = shrW := by
    funext x y
    refine BitVec.eq_of_toNat_eq ?_
    have hx : x.toNat / 2 ^ (y.toNat % 32) < 2 ^ 32 := (Nat.div_le_self _ _).trans_lt x.isLt
    rw [shrW, BitVec.toNat_ushiftRight, BitVec.toNat_ofNat, Nat.mod_eq_of_lt hx, Nat.shiftRight_eq_div_pow]
  rw [scalarOps, hadd, hsub, hmul, hshl, hshr] at he
  simp only [List.mem_cons, List.not_mem_nil, or_false] at he
  rcases he with rfl | rfl | rfl | rfl | rfl | rfl | rfl | rfl <;> rfl

/-! ### Predicates -/

/-- A predicate write sets the predicate it names, but for p0 (R301). -/
theorem Ctx.pred_setPred (x : Ctx) (n m : BitVec 3) (v : Bool) :
    (x.setPred n v).pred m = if m = n ∧ n ≠ 0 then v else x.pred m := by
  have hbit : ∀ y : Byte, bit y.toNat m.toNat = y.getLsbD m.toNat := fun _ => rfl
  have hm : m.toNat < 8 := m.isLt
  have hpow : (BitVec.ofNat 8 (2 ^ n.toNat)).getLsbD m.toNat = decide (n = m) := by
    rw [BitVec.getLsbD_ofNat, Nat.testBit_two_pow]
    simp only [hm, decide_true, Bool.true_and, BitVec.toNat_inj]
  by_cases hn : n = 0
  · simp [Ctx.setPred, hn]
  · have hset : (x.setPred n v).pred m = (decide (m = 0) ||
        if v then x.preds.getLsbD m.toNat || decide (n = m) else x.preds.getLsbD m.toNat && !decide (n = m)) := by
      cases v <;> simp only [Ctx.setPred, if_neg hn, Ctx.pred, hbit, Bool.false_eq_true, if_false, if_true,
        BitVec.getLsbD_or, BitVec.getLsbD_and, BitVec.getLsbD_not, hpow, hm, decide_true, Bool.true_and]
    rw [hset, Ctx.pred, hbit]
    by_cases hmn : n = m
    · subst hmn
      cases v <;> simp_all
    · cases v <;> simp [hmn, Ne.symm hmn]

/-- What an instruction of a queue wrote in this cycle stands above nothing that the same queue writes then (R304). -/
theorem Ctx.overruled_noteWrite (x : Ctx) (now : Nat) (q : BitVec 2) (r r' : Nat) :
    (x.noteWrite now q r).overruled now q.toNat r' = x.overruled now q.toNat r' := by
  by_cases h : x.wroteAt = now <;> simp [Ctx.overruled, Ctx.noteWrite, h]

theorem Ctx.overruled_setPred (x : Ctx) (now q : Nat) (n : BitVec 3) (v : Bool) (r : Nat) :
    (x.setPred n v).overruled now q r = x.overruled now q r := by
  unfold Ctx.setPred
  split <;> rfl

theorem Ctx.overruled_resultPred (x : Ctx) (now : Nat) (q : BitVec 2) (n : BitVec 3) (v : Bool) (r : Nat) :
    (x.resultPred now q n v).overruled now q.toNat r = x.overruled now q.toNat r := by
  unfold Ctx.resultPred
  split
  · rfl
  · rw [Ctx.overruled_noteWrite, Ctx.overruled_setPred]

/-- The result of an instruction stands in the predicate it names, but for p0 and under what R304 puts above it. -/
theorem Ctx.pred_resultPred (x : Ctx) (now : Nat) (q : BitVec 2) (n m : BitVec 3) (v : Bool) :
    (x.resultPred now q n v).pred m
      = if m = n ∧ n ≠ 0 ∧ x.overruled now q.toNat (regP n) = false then v else x.pred m := by
  have hnote : ∀ y : Ctx, (y.noteWrite now q (regP n)).pred m = y.pred m := fun _ => rfl
  unfold Ctx.resultPred
  cases h : x.overruled now q.toNat (regP n) <;> simp [hnote, Ctx.pred_setPred]

/-- A predicate result touches predicates and what was written in this cycle alone. -/
theorem Ctx.resultPred_sameBut (x : Ctx) (now : Nat) (q q' : BitVec 2) (n : BitVec 3) (v : Bool) :
    x.sameBut (x.resultPred now q n v) q' ∧ (x.resultPred now q n v).queues = x.queues := by
  unfold Ctx.resultPred Ctx.setPred
  split
  · exact ⟨⟨rfl, fun _ _ => rfl⟩, rfl⟩
  · split <;> exact ⟨⟨rfl, fun _ _ => rfl⟩, rfl⟩

/-- Predicates are cleared one after the other. -/
def Ctx.clearAll (x : Ctx) (now : Nat) (q : BitVec 2) (l : List (BitVec 3)) : Ctx :=
  l.foldl (fun x n => x.resultPred now q n false) x

theorem Ctx.pred_clearAll (x : Ctx) (now : Nat) (q : BitVec 2) (l : List (BitVec 3)) (m : BitVec 3) :
    (x.clearAll now q l).pred m
      = (x.pred m && (m == 0 || !l.contains m || x.overruled now q.toNat (regP m))) := by
  induction l generalizing x with
  | nil => simp [Ctx.clearAll]
  | cons n l ih =>
    have hstep : x.clearAll now q (n :: l) = (x.resultPred now q n false).clearAll now q l := rfl
    rw [hstep, ih, Ctx.overruled_resultPred, Ctx.pred_resultPred, List.contains_cons]
    by_cases hmn : m = n
    · subst hmn
      by_cases hm : m = 0
      · simp [hm]
      · cases x.overruled now q.toNat (regP m) <;> simp_all
    · have hbeq : (m == n) = false := beq_false_of_ne hmn
      simp [hmn, hbeq]

theorem Ctx.clearAll_sameBut (x : Ctx) (now : Nat) (q q' : BitVec 2) (l : List (BitVec 3)) :
    x.sameBut (x.clearAll now q l) q' ∧ (x.clearAll now q l).queues = x.queues := by
  induction l generalizing x with
  | nil => exact ⟨⟨rfl, fun _ _ => rfl⟩, rfl⟩
  | cons n l ih =>
    obtain ⟨h, hq⟩ := Ctx.resultPred_sameBut x now q q' n false
    obtain ⟨h', hq'⟩ := ih (x.resultPred now q n false)
    exact ⟨Ctx.sameBut_trans h h', hq'.trans hq⟩

/-- The predicates a mask names: those whose bit is set, p0 left out. -/
theorem contains_maskPreds (w : Word) (n : BitVec 3) :
    (maskPreds w.toNat).contains n = (n != 0 && w.getLsbD n.toNat) := by
  rw [Bool.eq_iff_iff, List.contains_iff_mem]
  simp only [maskPreds, bitsOf, List.mem_map, List.mem_filter, List.mem_range, bne_iff_ne, ne_eq, Bool.and_eq_true]
  constructor
  · rintro ⟨i, ⟨⟨hi, hbit⟩, h0⟩, rfl⟩
    have hi' : (BitVec.ofNat 3 i).toNat = i := by simp; omega
    refine ⟨fun h => h0 ?_, by rw [hi']; exact hbit⟩
    rw [← hi', h]; rfl
  · rintro ⟨hn, hbit⟩
    exact ⟨n.toNat, ⟨⟨n.isLt, hbit⟩, fun h => hn (BitVec.eq_of_toNat_eq h)⟩, by simp⟩

/-- The condition codes compare the values as R332 says. -/
theorem condHolds_iff (cc : BitVec 4) (x y : Word) : condHolds cc x y = true ↔ condMeans cc x y := by
  unfold condHolds condMeans
  match cc.toNat with
  | 0 => exact beq_iff_eq.trans BitVec.toNat_inj.symm
  | 1 => exact bne_iff_ne.trans (not_congr BitVec.toNat_inj.symm)
  | 2 => exact decide_eq_true_iff
  | 3 => exact decide_eq_true_iff
  | 4 => exact decide_eq_true_iff
  | 5 => exact decide_eq_true_iff
  | 6 => exact decide_eq_true_iff
  | _ + 7 => exact decide_eq_true_iff

/-- Predicates took values: the queue went on by one entry, and its scalars and all else stayed. -/
def State.tookPreds (s t : State) (p : Site) (v : BitVec 3 → Bool) : Prop :=
  (∀ m, (t.blk.ctx p.ctx).pred m = v m) ∧ (∀ r, (t.blk.ctx p.ctx).s p.queue r = (s.blk.ctx p.ctx).s p.queue r)
    ∧ (t.blk.que p).pc = (s.blk.que p).pc + 1 ∧ s.onlyQueue t p

/-- An instruction without a done predicate whose effect is on predicates alone: they take the values that the effect gives
on the context as it was before. -/
theorem Runs.of_preds {c : Instr} {s : State} {p : Site} {q : Quick} {f : Nat → Ctx → Ctx} {v : BitVec 3 → Bool}
    (hc : exec c s = s.block fun a b => b.issueQuick a p q) (hseen : s.Seen) (hgo : s.blk.quickGoes s.aon p q = true)
    (hdp : q.bad = false → q.g.dp = 0)
    (hn : q.now s.blk (s.blk.ctx p.ctx) (s.blk.que p) = { act := fun b => b.modCtx p.ctx (f b.cycle.toNat) })
    (hf : ∀ x, x.sameBut (f s.blk.cycle.toNat x) p.queue ∧ (f s.blk.cycle.toNat x).queues = x.queues)
    (hv : ∀ x : Ctx, (∀ m, x.pred m = (s.blk.ctx p.ctx).pred m) → (∀ r, x.s p.queue r = (s.blk.ctx p.ctx).s p.queue r) →
      (∀ now r, x.overruled now p.queue.toNat r = (s.blk.ctx p.ctx).overruled now p.queue.toNat r) →
      ∀ m, (f s.blk.cycle.toNat x).pred m = v m) :
    Runs c s fun t => s.tookPreds t p v := by
  refine Runs.of_quick hc hgo hn ((Blk.passNow_posted _ _ _ _ _).trans hseen) ?_
  dsimp only
  rw [Blk.passNow_cycle]
  obtain ⟨hpc, -⟩ := Blk.passNow_que s.blk p q.g q.k 1
  obtain ⟨hsame, hqueues⟩ := hf ((s.blk.passNow p q.g q.k 1).ctx p.ctx)
  refine ⟨fun m => ?_, fun r => ?_, ?_, State.onlyQueue_modCtx s p q.g q.k 1 _ hsame⟩
  · rw [Blk.ctx_modCtx_same]
    exact hv _ (Blk.passNow_pred _ _ _ _ (hdp (Blk.quickGoes_spec hgo).1)) (Blk.passNow_s _ _ _ _ _)
      (fun now r => Blk.passNow_overruled _ _ _ _ _ now _ r) m
  · rw [Blk.ctx_modCtx_same, Ctx.s, Ctx.que, hqueues]
    exact Blk.passNow_s s.blk p q.g q.k 1 r
  · rw [Blk.modCtx_que _ _ _ hqueues]
    exact hpc

theorem execCmp_sets {s : State} {p : Site} {f : RFields} (hseen : s.Seen)
    (hgo : s.blk.quickGoes s.aon p (cmpQuick p f) = true) :
    Runs (.cmp p f) s fun t => s.tookPreds t p fun m =>
      if m = BitVec.ofNat 3 f.a.toNat ∧ BitVec.ofNat 3 f.a.toNat ≠ 0 ∧ s.blk.doneNow p (BitVec.ofNat 3 f.a.toNat) = false
      then condHolds f.m ((s.blk.ctx p.ctx).s p.queue f.b) ((s.blk.ctx p.ctx).s p.queue f.c) else (s.blk.ctx p.ctx).pred m := by
  have hdp : (cmpQuick p f).bad = false → f.g.dp = 0 := by simp +contextual [cmpQuick]
  refine Runs.of_preds (f := fun now x => x.resultPred now p.queue (BitVec.ofNat 3 f.a.toNat)
    (condHolds f.m (x.s p.queue f.b) (x.s p.queue f.c))) rfl hseen hgo hdp rfl
    (fun x => Ctx.resultPred_sameBut x _ _ _ _ _) fun x hpred hs hover m => ?_
  rw [Ctx.pred_resultPred, hpred, hs, hs, hover, Blk.doneNow]

theorem execPclr_clears {s : State} {p : Site} {f : IFields} (hseen : s.Seen)
    (hgo : s.blk.quickGoes s.aon p (pclrQuick p f) = true) :
    Runs (.pclr p f) s fun t => s.tookPreds t p fun n =>
      (s.blk.ctx p.ctx).pred n && (n == 0 || !f.imm.getLsbD n.toNat || s.blk.doneNow p n) := by
  have hdp : (pclrQuick p f).bad = false → f.g.dp = 0 := by simp +contextual [pclrQuick]
  refine Runs.of_preds (f := fun now x => x.clearAll now p.queue (maskPreds f.imm.toNat)) rfl hseen hgo hdp rfl
    (fun x => Ctx.clearAll_sameBut x _ _ _ _) fun x hpred _ hover m => ?_
  rw [Ctx.pred_clearAll, hpred, hover, contains_maskPreds, Blk.doneNow, bne]
  cases m == 0 <;> rfl

/-- Settles O1: scalar instructions take what `tookScalar` says of the operand's function, `cmp` and `pclr` what
`tookPreds` says of the comparison and the mask. -/
theorem scalarResults : Obligations.ScalarResults := by
  unfold Obligations.ScalarResults
  refine ⟨⟨fun e he s p f hseen hgo => ?ops, fun s p f hseen hgo => ?li, fun s p f hseen hgo => ?mov⟩,
    fun s p f hseen hgo => ?cmp, fun s p f hseen hgo => execPclr_clears hseen hgo⟩
  case ops =>
    have hdp : (scalar2Quick p e.2.1 f e.2.2).bad = false → f.g.dp = 0 := by simp +contextual [scalar2Quick]
    exact Runs.of_setS (v := fun x => e.2.2 (x.s p.queue f.b) (x.s p.queue f.c)) (exec_scalarOps he s p f) hseen hgo hdp rfl
      fun x hs => by rw [hs, hs]
  case li =>
    have hdp : (liQuick p f).bad = false → f.g.dp = 0 := by simp +contextual [liQuick]
    obtain ⟨t, ht, hset, hrest, hpc, -, -, hother⟩ := Runs.of_setS (c := .li p f) (v := fun _ => f.imm) rfl hseen hgo hdp rfl
      fun _ _ => rfl
    exact ⟨t, ht, hset, hrest, hpc, hother⟩
  case mov =>
    have hdp : (movQuick p f).bad = false → f.g.dp = 0 := by simp +contextual [movQuick]
    obtain ⟨t, ht, hset, hrest, hpc, -, -, hother⟩ := Runs.of_setS (c := .mov p f) (v := fun x => x.s p.queue f.b) rfl hseen
      hgo hdp rfl fun x hs => hs _
    exact ⟨t, ht, hset, hrest, hpc, hother⟩
  case cmp =>
    obtain ⟨t, ht, hpreds, hs, hpc, hother⟩ := execCmp_sets hseen hgo
    dsimp only at hpreds
    refine ⟨t, ht, fun hn hdone => ?_, fun m hm => ?_, hs, hpc, hother⟩
    · rw [hpreds, if_pos ⟨rfl, hn, hdone⟩, condHolds_iff]
    · rw [hpreds, if_neg]
      rintro ⟨rfl, hn, hdone⟩
      simp_all

end Sys2Proof.Machine

/-! PROOF. Fault: what a fault at issue leaves: its record in the stream, and its context's queues DEAD (13 R348 to R350). -/

namespace Sys2Proof.Machine

/-! ### Sending, and bytes that become undefined, touch no context but its counters, and no record -/

/-- The record stream is as before, and every context but for its counters. -/
def Blk.countsOnly (b c : Blk) : Prop :=
  c.evts = b.evts ∧ ∀ d, c.ctx d = { b.ctx d with counters := (c.ctx d).counters }

theorem Blk.countsOnly_of_eq {b c : Blk} (he : c.evts = b.evts) (hc : c.ctxs = b.ctxs) : b.countsOnly c :=
  ⟨he, fun d => by rw [show c.ctx d = b.ctx d by rw [Blk.ctx, Blk.ctx, hc]]⟩

theorem Blk.countsOnly_refl (b : Blk) : b.countsOnly b := Blk.countsOnly_of_eq rfl rfl

theorem Blk.countsOnly_trans {b c d : Blk} (h : b.countsOnly c) (h' : c.countsOnly d) : b.countsOnly d := by
  obtain ⟨he, hc⟩ := h
  obtain ⟨he', hc'⟩ := h'
  exact ⟨he'.trans he, fun x => by rw [hc' x, hc x]⟩

/-- A change of neither records nor contexts, after or before one of counters. -/
theorem Blk.countsOnly_then {b c d : Blk} (h : b.countsOnly c) (he : d.evts = c.evts) (hc : d.ctxs = c.ctxs) :
    b.countsOnly d := Blk.countsOnly_trans h (Blk.countsOnly_of_eq he hc)

theorem Blk.countsOnly_after {b c d : Blk} (h : c.countsOnly d) (he : c.evts = b.evts) (hc : c.ctxs = b.ctxs) :
    b.countsOnly d := Blk.countsOnly_trans (Blk.countsOnly_of_eq he hc) h

theorem Blk.countsOnly_foldl {α : Type} {f : Blk → α → Blk} (h : ∀ (b : Blk) (x : α), b.countsOnly (f b x)) (l : List α)
    (b : Blk) : b.countsOnly (l.foldl f b) := by
  induction l generalizing b with
  | nil => exact Blk.countsOnly_refl b
  | cons x l ih => exact Blk.countsOnly_trans (h b x) (ih _)

theorem Blk.addOwn_countsOnly (b : Blk) (c : CtxId) (i n : Nat) : b.countsOnly (b.addOwn c i n) := by
  refine ⟨rfl, fun d => ?_⟩
  by_cases h : d = c
  · subst h
    rw [Blk.addOwn, Blk.ctx_modCtx_same]
  · rw [Blk.addOwn, Blk.ctx_modCtx_other _ _ h]

theorem Blk.addFor_countsOnly (b : Blk) (c : Option CtxId) (i n : Nat) : b.countsOnly (b.addFor c i n) := by
  cases c with
  | none => exact Blk.countsOnly_of_eq rfl rfl
  | some c => exact Blk.countsOnly_then (Blk.addOwn_countsOnly b c i n) rfl rfl

theorem Blk.txBytes_countsOnly (b : Blk) (c : Option CtxId) (p : Port) (n : Nat) : b.countsOnly (b.txBytes c p n) := by
  have hburn : b.countsOnly (b.burnPort c p n) := by cases p <;> exact Blk.countsOnly_of_eq rfl rfl
  cases p with
  | here => exact hburn
  | l _ => exact Blk.countsOnly_trans hburn (Blk.addFor_countsOnly _ _ _ _)
  | o _ => exact Blk.countsOnly_trans hburn (Blk.addFor_countsOnly _ _ _ _)
  | k _ => exact Blk.countsOnly_trans hburn (Blk.addFor_countsOnly _ _ _ _)

theorem Blk.setLink_countsOnly (b : Blk) (i : BitVec 4) (l : Link) : b.countsOnly (b.setLink i l) :=
  Blk.countsOnly_of_eq rfl rfl

theorem Blk.putWire_countsOnly (b : Blk) (i : BitVec 4) (hdr : Word) (payload : List Byte) :
    b.countsOnly (b.putWire i hdr payload) :=
  Blk.countsOnly_trans (Blk.countsOnly_of_eq (c := b.setEdge _ _) rfl rfl) (Blk.setLink_countsOnly _ _ _)

theorem Blk.sendFlits_countsOnly (b : Blk) (i : BitVec 4) (l : List Sent) : b.countsOnly (b.sendFlits i l) :=
  Blk.countsOnly_foldl (fun _ _ => Blk.countsOnly_trans (Blk.setLink_countsOnly _ _ _) (Blk.putWire_countsOnly _ _ _ _)) l b

theorem Blk.putFlit_countsOnly (b : Blk) (p : Port) (c : Option CtxId) (vc : Nat) (bytes : List Byte) :
    b.countsOnly (b.putFlit p c vc bytes) := by
  unfold Blk.putFlit
  split
  · exact Blk.countsOnly_refl b
  · extract_lets i l f b1 b2
    have h1 : b.countsOnly b1 := Blk.setLink_countsOnly _ _ _
    have h2 : b.countsOnly b2 := Blk.countsOnly_trans h1 (Blk.setLink_countsOnly _ _ _)
    split
    · split
      · exact Blk.countsOnly_trans h2
          (Blk.countsOnly_trans (Blk.setLink_countsOnly _ _ _) (Blk.sendFlits_countsOnly _ _ _))
      · exact h2
    · exact Blk.countsOnly_trans h1 (Blk.sendFlits_countsOnly _ _ _)

theorem Blk.idles_countsOnly (n : Nat) (i : BitVec 4) (b : Blk) : b.countsOnly (Blk.idles n i b) := by
  induction n generalizing b with
  | zero => exact Blk.countsOnly_refl b
  | succ n ih => exact Blk.countsOnly_trans (Blk.putWire_countsOnly _ _ _ _) (ih _)

theorem Blk.sendPiece_countsOnly (b : Blk) (q : Port) (p : Parcel) : b.countsOnly (b.sendPiece q p) := by
  unfold Blk.sendPiece
  extract_lets i n mine b1 b2
  have h1 : b.countsOnly b1 := Blk.countsOnly_then (Blk.putFlit_countsOnly b q p.ctx p.vc.toNat (p.left.take n)) rfl rfl
  split
  · exact Blk.countsOnly_then h1 rfl rfl
  · have h2 : b.countsOnly b2 := Blk.countsOnly_then h1 rfl rfl
    exact Blk.countsOnly_then (Blk.countsOnly_trans h2 (Blk.txBytes_countsOnly b2 p.ctx q p.size)) rfl rfl

theorem Blk.transmit_countsOnly (q : Port) (n : Nat) (b : Blk) : b.countsOnly (Blk.transmit q n b) := by
  induction n generalizing b with
  | zero => exact Blk.countsOnly_refl b
  | succ n ih =>
    unfold Blk.transmit
    split
    · exact Blk.countsOnly_refl b
    · next l p _ =>
      split
      · have hpiece := Blk.sendPiece_countsOnly (b.setLink q.ix l) q p
        exact Blk.countsOnly_trans (Blk.countsOnly_trans (Blk.setLink_countsOnly b _ l) hpiece) (ih _)
      · exact Blk.countsOnly_refl b

theorem Blk.fillSlices_countsOnly (b : Blk) (i : BitVec 4) : b.countsOnly (b.fillSlices i) := by
  unfold Blk.fillSlices
  dsimp only
  split
  · exact Blk.countsOnly_refl b
  · exact Blk.idles_countsOnly _ _ _

theorem Blk.pumpPort_countsOnly (b : Blk) (q : Port) : b.countsOnly (b.pumpPort q) := by
  unfold Blk.pumpPort
  split
  · exact Blk.countsOnly_trans (Blk.transmit_countsOnly q _ b) (Blk.fillSlices_countsOnly _ _)
  · exact Blk.countsOnly_refl b

/-- Handing something to a port. -/
theorem Blk.putOut_countsOnly (b : Blk) (q : Port) (c : Option CtxId) (vc : Nat) (bytes : List Byte) (far : Bool) (o : Out) :
    b.countsOnly (b.putOut q c vc bytes far o) := by
  have hpump : ∀ (f : Link → Link), b.countsOnly ((b.modLink q.ix f).pumpPort q) := fun f =>
    Blk.countsOnly_after (Blk.pumpPort_countsOnly _ _) rfl rfl
  cases q with
  | here => exact Blk.countsOnly_of_eq rfl rfl
  | l _ => exact hpump _
  | o _ => exact hpump _
  | k _ => exact hpump _

theorem Blk.addInst_countsOnly (b : Blk) (o n : Nat) : b.countsOnly (b.addInst o n) := Blk.countsOnly_of_eq rfl rfl

theorem Blk.onPort_countsOnly (b : Blk) (c : Option CtxId) (p : Port) (queued : Bool) (k : Packet) :
    b.countsOnly (b.onPort c p queued k) := by
  cases p with
  | l x =>
    unfold Blk.onPort Blk.onFar
    dsimp only
    split
    · exact Blk.countsOnly_trans (Blk.addInst_countsOnly _ _ _) (Blk.putOut_countsOnly _ _ _ _ _ _ _)
    · exact Blk.putOut_countsOnly _ _ _ _ _ _ _
  | o _ => exact Blk.putOut_countsOnly _ _ _ _ _ _ _
  | k _ => exact Blk.putOut_countsOnly _ _ _ _ _ _ _
  | here => exact Blk.putOut_countsOnly _ _ _ _ _ _ _

theorem Blk.tx_countsOnly (b : Blk) (c : Option CtxId) (k : Packet) : b.countsOnly (b.tx c k) := by
  unfold Blk.tx Blk.txBy Blk.bounce Blk.txLast
  split
  · exact Blk.onPort_countsOnly _ _ _ _ _
  · split
    · exact Blk.addInst_countsOnly _ _ _
    · split
      · exact Blk.onPort_countsOnly _ _ _ _ _
      · exact Blk.addInst_countsOnly _ _ _

theorem Blk.sendFold_countsOnly (b : Blk) (c : Option CtxId) (e : BitVec 4) (k : FoldPkt) :
    b.countsOnly (b.sendFold c e k) := by
  unfold Blk.sendFold
  dsimp only
  split
  · exact Blk.putOut_countsOnly _ _ _ _ _ _ _
  · exact Blk.addInst_countsOnly _ _ _

theorem Blk.sendComet_countsOnly (b : Blk) (c : Option CtxId) (k : CometMsg) : b.countsOnly (b.sendComet c k) := by
  unfold Blk.sendComet
  split
  · exact Blk.countsOnly_of_eq rfl rfl
  · exact Blk.addInst_countsOnly _ _ _
  · extract_lets k' spent
    split
    · exact Blk.putOut_countsOnly _ _ _ _ _ _ _
    · exact Blk.addInst_countsOnly _ _ _

/-! ### Bytes written -/

theorem Blk.modBank_countsOnly (b : Blk) (l : Layer) (k : BitVec 2) (x : Bool) (f : TBank → TBank) :
    b.countsOnly (b.modBank l k x f) := Blk.countsOnly_of_eq rfl rfl

theorem Blk.wrStack_countsOnly {b c : Blk} {a : Nat} {bs : List Byte} (h : b.wrStack a bs = .ok c) : b.countsOnly c := by
  unfold Blk.wrStack at h
  extract_lets hits at h
  generalize hits = hits at h
  split at h
  · cases h
  · split at h
    · cases h
    · next m _ =>
      have hmem : b.countsOnly { b with mem := m } := Blk.countsOnly_of_eq rfl rfl
      rw [← Except.ok.inj h]
      exact Blk.countsOnly_trans hmem (Blk.countsOnly_foldl (fun b p => Blk.modBank_countsOnly b _ _ _ _) hits _)

theorem Blk.toDie_countsOnly (b : Blk) (c : Option CtxId) (m : KMsg) : b.countsOnly (b.toDie c m) := by
  unfold Blk.toDie
  split
  · exact Blk.putOut_countsOnly _ _ _ _ _ _ _
  · exact Blk.addInst_countsOnly _ _ _

theorem Blk.wrSpace_countsOnly {b c : Blk} {x : Option CtxId} {sp : Space} {a : Nat} {bs : List Byte}
    (h : b.wrSpace x sp a bs = .ok c) : b.countsOnly c := by
  cases sp with
  | scratch =>
    simp only [Blk.wrSpace] at h
    split at h
    · cases h
    · rw [← Except.ok.inj h]
      exact Blk.countsOnly_of_eq rfl rfl
  | stack => exact Blk.wrStack_countsOnly (a := a) (bs := bs) h
  | die n =>
    rw [← Except.ok.inj h]
    exact Blk.toDie_countsOnly _ _ _

theorem Blk.spoil_countsOnly (b : Blk) (n : PartId) (d : Desc) (len : Nat) : b.countsOnly (b.spoil n d len) := by
  refine Blk.countsOnly_then (Blk.countsOnly_foldl (fun b x => ?_) _ b) rfl rfl
  split
  · split
    · next h => exact Blk.wrSpace_countsOnly h
    · exact Blk.countsOnly_refl b
  · exact Blk.countsOnly_refl b

/-! ### Aborts -/

theorem Blk.abortDispatches_countsOnly (b : Blk) (c : CtxId) : b.countsOnly (b.abortDispatches c) := by
  refine Blk.countsOnly_then (Blk.countsOnly_foldl (f := Blk.abortDispatch) (fun b d => ?_) _ b) rfl rfl
  exact Blk.countsOnly_foldl (fun _ _ => Blk.tx_countsOnly _ _ _) _ _

theorem Blk.abortSeat_countsOnly (b : Blk) (n : BitVec 4) : b.countsOnly (b.abortSeat n) := by
  unfold Blk.abortSeat
  extract_lets x e c d
  have hc : b.countsOnly c := by
    refine Blk.countsOnly_foldl (fun b st => ?_) _ _
    dsimp only
    split
    · exact Blk.sendFold_countsOnly _ _ _ _
    · exact Blk.countsOnly_refl _
  have hd : c.countsOnly d := by
    unfold d
    split
    · exact Blk.countsOnly_refl _
    · exact Blk.spoil_countsOnly _ _ _ _
  exact Blk.countsOnly_then (Blk.countsOnly_trans hc hd) rfl rfl

theorem Blk.abortSeats_countsOnly (b : Blk) (f : Seat → Bool) : b.countsOnly (b.abortSeats f) :=
  Blk.countsOnly_foldl Blk.abortSeat_countsOnly _ _

theorem Blk.abortComet_countsOnly (b : Blk) (x : Comet) : b.countsOnly (b.abortComet x) := by
  have htell : b.countsOnly (b.tellAbort (some x.ctx) x) :=
    Blk.countsOnly_foldl (fun _ _ => Blk.sendComet_countsOnly _ _ _) _ _
  unfold Blk.abortComet
  extract_lets c d
  have hd : c.countsOnly d := by
    unfold d
    split
    · exact Blk.countsOnly_refl _
    · exact Blk.spoil_countsOnly _ _ _ _
  exact Blk.countsOnly_then (Blk.countsOnly_trans htell hd) rfl rfl

theorem Blk.abortComets_countsOnly (b : Blk) (f : Comet → Bool) : b.countsOnly (b.abortComets f) :=
  Blk.countsOnly_foldl Blk.abortComet_countsOnly _ _

/-! ### A fault -/

theorem Bank.rd_map {w : Nat} {α β : Type} (b : Bank w α) (f : α → β) (i : BitVec w) :
    Bank.rd (Vector.map f b) i = f (b.rd i) := Vector.getElem_map _ _

/-- A context as it stops: its queues read DEAD and wait for nothing (R349 step 1). -/
def Ctx.stopped (x : Ctx) : Ctx :=
  { x with queues := x.queues.map fun u => { u with dead := true, waiting := false, outside := none, pairOpen := false } }

theorem Ctx.stopped_dead (x : Ctx) (q : BitVec 2) : (x.stopped.que q).dead = true :=
  congrArg Queue.dead (Bank.rd_map x.queues _ q)

/-- Beyond stopping its context, a teardown sends and counts. -/
theorem Blk.stopCtx_countsOnly (b : Blk) (c : CtxId) : (b.modCtx c Ctx.stopped).countsOnly (b.stopCtx c) := by
  unfold Blk.stopCtx
  extract_lets b1 b2
  have hb2 : b1.countsOnly b2 := Blk.countsOnly_trans (Blk.countsOnly_trans (Blk.abortDispatches_countsOnly b1 c)
    (Blk.abortSeats_countsOnly _ _)) (Blk.abortComets_countsOnly _ _)
  exact Blk.countsOnly_then hb2 rfl rfl

/-- A context that stopped: its queues are dead, its registers and the records stay. -/
theorem Blk.stopCtx_spec (b : Blk) (c : CtxId) :
    (b.stopCtx c).evts = b.evts ∧ (∀ q, (((b.stopCtx c).ctx c).que q).dead = true)
      ∧ ((b.stopCtx c).ctx c).life = (b.ctx c).life ∧ ((b.stopCtx c).ctx c).eregs = (b.ctx c).eregs := by
  obtain ⟨hevts, hctx⟩ := Blk.stopCtx_countsOnly b c
  have hctx := hctx c
  rw [Blk.ctx_modCtx_same] at hctx
  rw [hctx]
  exact ⟨hevts, Ctx.stopped_dead (b.ctx c), rfl, rfl⟩

theorem Blk.mem_evts_post (b : Blk) (r : Rec) : r ∈ (b.post r).evts := by
  unfold Blk.post
  dsimp only
  split <;> simp

theorem Blk.post_ctxs (b : Blk) (r : Rec) : (b.post r).ctxs = b.ctxs := by
  unfold Blk.post
  dsimp only
  split <;> rfl

/-- A fault of an instruction stands: its record, with the instruction's word, queue and index, is in the stream, and every
queue of its context reads DEAD (R349, R350). -/
def Blk.faultStands (b : Blk) (p : Site) (idx : Word) (w : Quad) (f : Flt) : Prop :=
  (∃ r ∈ b.evts, r.code = f.code ∧ r.event = false ∧ r.ctx = some p.ctx ∧ r.queue = p.queue ∧ r.word1 = idx ∧ r.insn = w)
    ∧ (∀ q, ((b.ctx p.ctx).que q).dead = true) ∧ (b.ctx p.ctx).torn = true

/-- A fault of a running context, not one of a collective, stands, and the context's e registers are kept. -/
theorem Blk.fault_stands {b : Blk} {p : Site} {idx : Word} {w : Quad} {f : Flt} (halive : (b.ctx p.ctx).alive = true)
    (hfold : f.code ≠ 0x16) (hcomet : f.code ≠ 0x17) :
    (b.fault p idx w f).faultStands p idx w f ∧ ((b.fault p idx w f).ctx p.ctx).eregs = (b.ctx p.ctx).eregs := by
  have hplain : ∀ c : Blk, c.abortFaulted p.ctx f = c := fun c => by
    simp only [Blk.abortFaulted, decide_eq_false hfold, decide_eq_false hcomet, Bool.false_and, Bool.false_eq_true, if_false]
  have hctx : (b.faultRec p.ctx p.queue idx w f).ctx p.ctx = b.ctx p.ctx := by
    rw [Blk.ctx, Blk.ctx, Blk.faultRec, Blk.post_ctxs]
  have hlife : ((b.ctx p.ctx).life == Life.live) = true := by
    simp only [Ctx.alive, Bool.and_eq_true] at halive
    exact halive.1
  obtain ⟨hevts, hdead, hsame, heregs⟩ := Blk.stopCtx_spec (b.faultRec p.ctx p.queue idx w f) p.ctx
  have hrec : ∃ r ∈ (b.faultRec p.ctx p.queue idx w f).evts, r.code = f.code ∧ r.event = false ∧ r.ctx = some p.ctx
      ∧ r.queue = p.queue ∧ r.word1 = idx ∧ r.insn = w := ⟨_, Blk.mem_evts_post b _, rfl, rfl, rfl, rfl, rfl, rfl⟩
  rw [← hevts] at hrec
  rw [hctx] at hsame heregs
  rw [Blk.fault, if_pos halive, hplain]
  refine ⟨⟨hrec, hdead, ?_⟩, heregs⟩
  rw [Ctx.torn, hsame, hlife, Bool.true_and, List.all_eq_true]
  exact fun q _ => hdead q

/-- A command of the block that faults an instruction of a running context. -/
theorem Runs.of_fault {c : Instr} {s : State} {g : Aon → Blk → Blk} {p : Site} {idx : Word} {w : Quad} {f : Flt}
    (hc : exec c s = s.block g) (hg : g s.aon s.blk = s.blk.fault p idx w f) (halive : (s.blk.ctx p.ctx).alive = true)
    (hfold : f.code ≠ 0x16) (hcomet : f.code ≠ 0x17) :
    Runs c s fun t => t.blk.faultStands p idx w f ∧ (t.blk.ctx p.ctx).eregs = (s.blk.ctx p.ctx).eregs := by
  obtain ⟨o, ho⟩ := seePosted_blk (s.aon, g s.aon s.blk)
  refine ⟨_, hc, ?_⟩
  dsimp only
  rw [ho, hg]
  exact Blk.fault_stands halive hfold hcomet

/-- A context whose queue the sequencer may look at runs (R309, R358). -/
theorem Blk.open_alive {a : Aon} {b : Blk} {p : Site} (h : b.open a p = true) : (b.ctx p.ctx).alive = true := by
  simp only [Blk.open, Blk.looks, Bool.and_eq_true] at h
  tauto

/-! ### Reserved opcodes (R324) -/

theorem decodeBrodip_reserved (p : Site) {w : Quad} (next : Quad) (h : listedOpcode (opcodeOf w) = false) :
    decodeBrodip p w next = .reservedOpcode p w := by
  unfold decodeBrodip
  split
  case h_77 => rfl
  all_goals next hop => rw [hop] at h; exact absurd h (by decide)

theorem exec_reservedOpcode (s : State) (p : Site) (w : Quad) : exec (.reservedOpcode p w) s = s.block fun a b =>
    if !b.open a p || (b.que p).pairOpen || listedOpcode (opcodeOf w) then b
    else if b.behindBarrier p then b.hold p (some (.comet p.queue))
    else b.fault p (b.que p).pc w fBadOpcode := rfl

/-- A reserved opcode at an open head with no `comet.barrier` before it faults. -/
theorem execReservedOpcode_faults {s : State} {p : Site} {w : Quad} (hopen : s.blk.open s.aon p = true)
    (hpair : (s.blk.que p).pairOpen = false) (hbar : s.blk.behindBarrier p = false)
    (hop : listedOpcode (opcodeOf w) = false) :
    Runs (.reservedOpcode p w) s fun t => t.blk.faultStands p (s.blk.que p).pc w fBadOpcode := by
  obtain ⟨t, ht, hstands, -⟩ := Runs.of_fault (idx := (s.blk.que p).pc) (w := w) (f := fBadOpcode)
    (exec_reservedOpcode s p w)
    (by simp only [hopen, hpair, hbar, hop, Bool.not_true, Bool.or_self, Bool.false_eq_true, if_false])
    (Blk.open_alive hopen) (by decide) (by decide)
  exact ⟨t, ht, hstands⟩

/-- Settles O4: the fault stands, and the decoder has no other arm for an opcode that the map does not list. -/
theorem reservedOpcodeFaults : Obligations.ReservedOpcodeFaults := by
  unfold Obligations.ReservedOpcodeFaults
  exact ⟨fun s p w hopen hpair hbar hop =>
      have ⟨t, ht, hrec, hdead, htorn⟩ := execReservedOpcode_faults hopen hpair hbar hop
      ⟨t, ht, hrec, hdead, htorn⟩,
    fun p _ next hop => decodeBrodip_reserved p next hop, fun p next => ⟨rfl, decodeBrodip_reserved p next (by decide)⟩⟩

end Sys2Proof.Machine

/-! PROOF. Bind: what `epoch.bind` and `gov.phase` do when they go, and the fault of a layer that cannot be bound (13 R336,
R304; 18 R456). -/

namespace Sys2Proof.Machine

/-! ### e registers -/

/-- The result of an instruction stands in the e register it names, under what R304 puts above it. -/
theorem Ctx.eregs_resultE (x : Ctx) (now : Nat) (q : BitVec 2) (n r : BitVec 2) (l : Layer) :
    (x.resultE now q n l).eregs.rd r
      = if r = n ∧ x.overruled now q.toNat (regE n) = false then l else x.eregs.rd r := by
  unfold Ctx.resultE
  cases h : x.overruled now q.toNat (regE n) with
  | true => simp
  | false =>
    simp only [Bool.false_eq_true, if_false, and_true]
    exact Bank.rd_wr _ _ _ _

/-- An e register result leaves queues and descriptors alone. -/
theorem Ctx.resultE_frame (x : Ctx) (now : Nat) (q n : BitVec 2) (l : Layer) :
    (x.resultE now q n l).queues = x.queues ∧ (x.resultE now q n l).tregs = x.tregs := by
  unfold Ctx.resultE
  split <;> exact ⟨rfl, rfl⟩

theorem Blk.passNow_eregs (b : Blk) (p : Site) (g : Guard) (k : Cls) (n : Nat) :
    ((b.passNow p g k n).ctx p.ctx).eregs = (b.ctx p.ctx).eregs := by
  obtain ⟨-, hown, -⟩ := Blk.passNow_oneCtx b p g k n
  rw [hown]

theorem Blk.passNow_tregs (b : Blk) (p : Site) (g : Guard) (k : Cls) (n : Nat) :
    ((b.passNow p g k n).ctx p.ctx).tregs = (b.ctx p.ctx).tregs := by
  obtain ⟨-, hown, -⟩ := Blk.passNow_oneCtx b p g k n
  rw [hown]

/-! ### `epoch.bind` (R336) -/

/-- The layer that an `epoch.bind` names: imm, or the scalar that B names. -/
def Ctx.bindLayer (x : Ctx) (p : Site) (f : IFields) : Word :=
  if f.k = 0 then f.imm else x.s p.queue (BitVec.ofNat 5 f.b.toNat)

/-- The effect of an `epoch.bind` at issue. -/
def Blk.bindEffect (b : Blk) (x : Ctx) (p : Site) (f : IFields) : Now :=
  { faults := if 256 ≤ (x.bindLayer p f).toNat || !b.ownsLayer x.part (x.bindLayer p f).toNat then [fBadOperand] else [],
    act := fun b => b.modCtx p.ctx fun y =>
      y.resultE b.cycle.toNat p.queue (BitVec.ofNat 2 f.a.toNat) (BitVec.ofNat 8 (x.bindLayer p f).toNat) }

theorem epochBindQuick_now (b : Blk) (x : Ctx) (u : Queue) (p : Site) (f : IFields) :
    (epochBindQuick p f).now b x u = b.bindEffect x p f := rfl

/-- A layer that a bind which goes names is one of the partition's. -/
theorem Blk.bind_owns {a : Aon} {b : Blk} {p : Site} {f : IFields} (h : b.quickGoes a p (epochBindQuick p f) = true) :
    b.ownsLayer (b.ctx p.ctx).part (BitVec.ofNat 8 ((b.ctx p.ctx).bindLayer p f).toNat).toNat = true := by
  obtain ⟨-, hfaults⟩ := Blk.quickGoes_spec h
  rw [epochBindQuick_now] at hfaults
  simp only [Blk.bindEffect, ite_eq_right_iff, imp_false, Bool.or_eq_true, decide_eq_true_eq, not_or, not_le,
    Bool.not_eq_true', Bool.not_eq_false, List.cons_ne_nil] at hfaults
  obtain ⟨hsmall, howns⟩ := hfaults
  rw [BitVec.toNat_ofNat, Nat.mod_eq_of_lt hsmall]
  exact howns

theorem Blk.clear_open {a : Aon} {b : Blk} {p : Site} {g : Guard} {regs : List Nat} (h : b.clear a p g regs = true) :
    b.open a p = true := by
  simp only [Blk.clear, Bool.and_eq_true] at h
  tauto

/-- A clear instruction that does not wait and meets a fault stops with the lowest one (R348). -/
theorem Blk.issueQuick_faults {a : Aon} {b : Blk} {p : Site} {q : Quick} {n : Now} {e : Flt}
    (hn : q.now b (b.ctx p.ctx) (b.que p) = n) (hclear : b.clear a p q.g q.regs = true) (hwait : n.wait = false)
    (hslots : b.slotsFor a p ≠ 0)
    (he : lowest (operandFaults q.bad ++ n.faults ++ (b.que p).chargeFaults q.k n.ledger) = some e) :
    b.issueQuick a p q = b.fault p (b.que p).pc q.w e := by
  subst hn
  rw [Blk.issueQuick, Blk.issueNow, Blk.arrive_clear hclear rfl]
  simp only [hwait, hslots, Blk.checked, he, decide_false, Bool.and_false, Bool.false_eq_true, if_false]

/-- A layer above 255 and the reserved values of K fault with BAD_OPERAND. -/
theorem Blk.bindEffect_lowest {b : Blk} {p : Site} {f : IFields} (hcharge : (b.que p).chargeFaults .other 1 = [])
    (h : 2 ≤ f.k.toNat ∨ 256 ≤ ((b.ctx p.ctx).bindLayer p f).toNat) :
    lowest (operandFaults (epochBindQuick p f).bad ++ (b.bindEffect (b.ctx p.ctx) p f).faults
      ++ (b.que p).chargeFaults (epochBindQuick p f).k (b.bindEffect (b.ctx p.ctx) p f).ledger) = some fBadOperand := by
  have hnocharge : (b.que p).chargeFaults (epochBindQuick p f).k (b.bindEffect (b.ctx p.ctx) p f).ledger = [] := hcharge
  rw [hnocharge, List.append_nil]
  rcases h with h | h
  · have hbad : (epochBindQuick p f).bad = true := by simp [epochBindQuick, h]
    rw [hbad]
    unfold Blk.bindEffect
    dsimp only
    split <;> rfl
  · have hfaults : (b.bindEffect (b.ctx p.ctx) p f).faults = [fBadOperand] := by simp [Blk.bindEffect, h]
    rw [hfaults]
    cases (epochBindQuick p f).bad <;> rfl

/-! ### Fields of a word -/

/-- A number split at the two ends of a field: what stands above it, the field, and what stands below it. -/
theorem split_at_field (a p k : Nat) : a = (a / (p * k) * k + a / p % k) * p + a % p := by
  rw [← Nat.div_div_eq_div_mul, Nat.div_add_mod', Nat.div_add_mod']

theorem replaced_lt {h x l p k t : Nat} (hh : h < t) (hx : x < k) (hl : l < p) : (h * k + x) * p + l < t * k * p :=
  calc (h * k + x) * p + l < (h * k + x + 1) * p := by rw [Nat.add_mul _ 1]; omega
    _ ≤ ((h + 1) * k) * p := Nat.mul_le_mul_right _ (by rw [Nat.add_mul]; omega)
    _ ≤ t * k * p := Nat.mul_le_mul_right _ (Nat.mul_le_mul_right _ hh)

/-- A word with a field replaced: what stands above the field, the new value, and what stands below it. -/
theorem setFld_toNat (v : Word) {hi lo : Nat} (x : Nat) (hlo : lo ≤ hi) (hhi : hi < 32) :
    (setFld v hi lo x).toNat
      = (v.toNat / 2 ^ (hi + 1) * 2 ^ (hi + 1 - lo) + x % 2 ^ (hi + 1 - lo)) * 2 ^ lo + v.toNat % 2 ^ lo := by
  have hpow : 2 ^ (hi + 1) = 2 ^ lo * 2 ^ (hi + 1 - lo) := by rw [← pow_add]; congr 1; omega
  have htop : 2 ^ 32 = 2 ^ (31 - hi) * 2 ^ (hi + 1 - lo) * 2 ^ lo := by rw [← pow_add, ← pow_add]; congr 1; omega
  have hsplit := split_at_field v.toNat (2 ^ lo) (2 ^ (hi + 1 - lo))
  have habove : v.toNat / 2 ^ (hi + 1) < 2 ^ (31 - hi) := by
    rw [Nat.div_lt_iff_lt_mul (Nat.two_pow_pos _), ← pow_add, show 31 - hi + (hi + 1) = 32 by omega]
    exact v.isLt
  have hlt := replaced_lt habove (Nat.mod_lt x (Nat.two_pow_pos (hi + 1 - lo))) (Nat.mod_lt v.toNat (Nat.two_pow_pos lo))
  rw [← htop] at hlt
  rw [← hpow, Nat.add_mul] at hsplit
  rw [setFld, BitVec.toNat_ofNat, put, put, field, Nat.shiftRight_eq_div_pow, Nat.mod_mod, Nat.shiftLeft_eq,
    Nat.shiftLeft_eq, ← Nat.mod_eq_of_lt hlt]
  congr 1
  rw [Nat.add_mul]
  omega

theorem fld_setFld (v : Word) {hi lo : Nat} (x : Nat) (hlo : lo ≤ hi) (hhi : hi < 32) :
    fld (setFld v hi lo x) hi lo = x % 2 ^ (hi + 1 - lo) := by
  have hlow : v.toNat % 2 ^ lo < 2 ^ lo := Nat.mod_lt _ (Nat.two_pow_pos lo)
  rw [fld, field, Nat.shiftRight_eq_div_pow, setFld_toNat v x hlo hhi, Nat.add_comm,
    Nat.add_mul_div_right _ _ (Nat.two_pow_pos lo), Nat.div_eq_of_lt hlow, Nat.zero_add, Nat.add_comm,
    Nat.add_mul_mod_self_right, Nat.mod_mod]

theorem getLsbD_setFld (v : Word) {hi lo i : Nat} (x : Nat) (hlo : lo ≤ hi) (hhi : hi < 32) (hout : i < lo ∨ hi < i) :
    (setFld v hi lo x).getLsbD i = v.getLsbD i := by
  have hpow : 2 ^ (hi + 1) = 2 ^ lo * 2 ^ (hi + 1 - lo) := by rw [← pow_add]; congr 1; omega
  have hlow : v.toNat % 2 ^ lo < 2 ^ lo := Nat.mod_lt _ (Nat.two_pow_pos lo)
  have hx : x % 2 ^ (hi + 1 - lo) < 2 ^ (hi + 1 - lo) := Nat.mod_lt _ (Nat.two_pow_pos _)
  rw [BitVec.getLsbD, BitVec.getLsbD]
  rcases hout with h | h
  · have hmod : (setFld v hi lo x).toNat % 2 ^ lo = v.toNat % 2 ^ lo := by
      rw [setFld_toNat v x hlo hhi, Nat.mul_add_mod_self_right, Nat.mod_mod]
    have hbit := fun n : Nat => Nat.testBit_mod_two_pow n lo i
    simp only [h, decide_true, Bool.true_and] at hbit
    rw [← hbit, hmod, hbit]
  · have hdiv : (setFld v hi lo x).toNat / 2 ^ (hi + 1) = v.toNat / 2 ^ (hi + 1) := by
      rw [setFld_toNat v x hlo hhi, hpow, ← Nat.div_div_eq_div_mul, Nat.add_comm,
        Nat.add_mul_div_right _ _ (Nat.two_pow_pos lo), Nat.div_eq_of_lt hlow, Nat.zero_add, Nat.add_comm,
        Nat.add_mul_div_right _ _ (Nat.two_pow_pos _), Nat.div_eq_of_lt hx, Nat.zero_add]
    have hbit := fun n : Nat => Nat.testBit_div_two_pow (n := hi + 1) n (i - (hi + 1))
    rw [Nat.sub_add_cancel h] at hbit
    rw [← hbit, hdiv, hbit]

/-! ### The obligation -/

/-- An `epoch.bind` that goes binds its layer. -/
theorem execEpochBind_binds {s : State} {p : Site} {f : IFields} (hseen : s.Seen)
    (hgo : s.blk.quickGoes s.aon p (epochBindQuick p f) = true) :
    Runs (.epochBind p f) s fun t =>
      (∀ r, (t.blk.ctx p.ctx).eregs.rd r =
          if r = BitVec.ofNat 2 f.a.toNat
              ∧ (s.blk.ctx p.ctx).overruled s.blk.cycle.toNat p.queue.toNat (regE (BitVec.ofNat 2 f.a.toNat)) = false
          then BitVec.ofNat 8 ((s.blk.ctx p.ctx).bindLayer p f).toNat else (s.blk.ctx p.ctx).eregs.rd r)
        ∧ (∀ r, (t.blk.ctx p.ctx).s p.queue r = (s.blk.ctx p.ctx).s p.queue r)
        ∧ (t.blk.ctx p.ctx).tregs = (s.blk.ctx p.ctx).tregs
        ∧ (t.blk.que p).pc = (s.blk.que p).pc + 1 ∧ s.blk.sameBut t.blk ∧ t.aon = s.aon ∧ t.pending = s.pending
        ∧ ∀ d, d ≠ p.ctx → t.blk.ctx d = s.blk.ctx d := by
  refine Runs.of_quick rfl hgo (epochBindQuick_now _ _ _ p f) ((Blk.passNow_posted _ _ _ _ _).trans hseen) ?_
  obtain ⟨hpc, -⟩ := Blk.passNow_que s.blk p f.g .other 1
  obtain ⟨hother, -⟩ := Blk.passNow_oneCtx s.blk p f.g .other 1
  have hframe := fun now => Ctx.resultE_frame ((s.blk.passNow p f.g .other 1).ctx p.ctx) now p.queue
    (BitVec.ofNat 2 f.a.toNat) (BitVec.ofNat 8 ((s.blk.ctx p.ctx).bindLayer p f).toNat)
  refine ⟨fun r => ?_, fun r => ?_, ?_, ?_, ?_, rfl, rfl, fun d hd => ?_⟩ <;> dsimp only [Blk.bindEffect, epochBindQuick]
  · rw [Blk.ctx_modCtx_same, Ctx.eregs_resultE, Blk.passNow_overruled, Blk.passNow_eregs, Blk.passNow_cycle]
  · rw [Blk.ctx_modCtx_same, Ctx.s, Ctx.que, (hframe _).1]
    exact Blk.passNow_s s.blk p f.g .other 1 r
  · rw [Blk.ctx_modCtx_same, (hframe _).2, Blk.passNow_tregs]
  · rw [Blk.modCtx_que _ _ _ (hframe _).1]
    exact hpc
  · exact Blk.sameBut_trans (Blk.passNow_sameBut _ _ _ _ _) (Blk.modCtx_sameBut _ _ _)
  · rw [Blk.ctx_modCtx_other _ _ hd]
    exact hother d hd

/-- The effect of a `gov.phase` of a context at issue. -/
def Ctx.phaseEffect (x : Ctx) (f : RFields) : Now :=
  { act := fun b => b.setReg 0x11C x.part.toNat (setFld (b.reg 0x11C x.part.toNat) 25 24 f.m.toNat) }

theorem govPhaseQuick_now (b : Blk) (x : Ctx) (u : Queue) (f : RFields) :
    (govPhaseQuick f).now b x u = x.phaseEffect f := rfl

/-- A `gov.phase` that goes sets the phase field of its partition's ND_PWR_PHASE in the charged block. -/
theorem execGovPhase_sets {s : State} {p : Site} {f : RFields} (hseen : s.Seen)
    (hgo : s.blk.quickGoes s.aon p (govPhaseQuick f) = true) :
    Runs (.govPhase p f) s fun t =>
      t = { s with blk := ((s.blk.passNow p f.g .other 1).setReg 0x11C (s.blk.ctx p.ctx).part.toNat
        (setFld (s.blk.reg 0x11C (s.blk.ctx p.ctx).part.toNat) 25 24 f.m.toNat)) } := by
  have hreg : ∀ o i, (s.blk.passNow p f.g .other 1).reg o i = s.blk.reg o i := fun o i => by
    rw [Blk.passNow_sameBut s.blk p f.g .other 1]
    rfl
  refine Runs.of_quick rfl hgo (govPhaseQuick_now _ _ _ f) ((Blk.passNow_posted _ _ _ _ _).trans hseen) ?_
  dsimp only [govPhaseQuick, Ctx.phaseEffect]
  rw [hreg]

/-- Settles O5: a bind that goes has its layer owned and bound, one that may not faults before it binds, and the phase is
set in one field of one register. -/
theorem bindAndPhase : Obligations.BindAndPhase := by
  unfold Obligations.BindAndPhase
  refine ⟨fun s p f hseen hgo => ?binds, fun s p f hclear hslots hcharge hbad => ?faults, fun s p f hseen hgo => ?phase⟩
  case binds =>
    have hlayer : (if f.k = 0 then BitVec.ofNat 8 f.imm.toNat
        else BitVec.ofNat 8 ((s.blk.ctx p.ctx).s p.queue (BitVec.ofNat 5 f.b.toNat)).toNat)
          = BitVec.ofNat 8 ((s.blk.ctx p.ctx).bindLayer p f).toNat := by
      unfold Ctx.bindLayer
      split <;> rfl
    obtain ⟨t, ht, heregs, hrest⟩ := execEpochBind_binds hseen hgo
    refine ⟨t, ht, ?_⟩
    dsimp only
    rw [hlayer]
    refine ⟨Blk.bind_owns hgo, fun hfree => ?_, fun r hr => ?_, hrest⟩
    · rw [heregs, if_pos ⟨rfl, hfree⟩]
    · rw [heregs, if_neg]
      rintro ⟨rfl, hfree⟩
      simp_all
  case faults =>
    obtain ⟨t, ht, ⟨hrec, hdead, -⟩, heregs⟩ := Runs.of_fault (c := .epochBind p f)
      (g := fun a b => b.issueQuick a p (epochBindQuick p f)) rfl
      (Blk.issueQuick_faults (epochBindQuick_now _ _ _ p f) hclear rfl hslots (Blk.bindEffect_lowest hcharge hbad))
      (Blk.open_alive (Blk.clear_open hclear)) (by decide) (by decide)
    exact ⟨t, ht, hrec, hdead, heregs⟩
  case phase =>
    have hm : (govPhaseQuick f).bad = false → f.m.toNat < 4 := by simp +contextual [govPhaseQuick]
    obtain ⟨hpc, -⟩ := Blk.passNow_que s.blk p f.g .other 1
    obtain ⟨hother, -⟩ := Blk.passNow_oneCtx s.blk p f.g .other 1
    have hsame := Blk.passNow_sameBut s.blk p f.g .other 1
    obtain ⟨t, ht, rfl⟩ := execGovPhase_sets hseen hgo
    refine ⟨_, ht, ?_, fun i _ hne hne' => ?_, fun o i hoi => ?_, hpc, ?_, rfl, hother⟩
    · rw [Blk.reg_setReg_same, fld_setFld _ _ (by decide) (by decide)]
      exact Nat.mod_eq_of_lt (hm (Blk.quickGoes_spec hgo).1)
    · rw [Blk.reg_setReg_same, getLsbD_setFld _ _ (by decide) (by decide) (by omega)]
    · rw [Blk.reg_setReg_other _ _ hoi, hsame]
      rfl
    · dsimp only
      rw [Blk.setReg_mem, hsame]

end Sys2Proof.Machine
